-- ==== Sys2Proof/Word.lean ====
section
/-! DEFINITION. The word types of the module (R13, R14): bytes, 64-bit registers and words, 256 B lines. -/
namespace Sys2Proof

/-- One byte of memory. -/
abbrev Byte := BitVec 8

/-- One 64-bit register or memory word (all registers are 64 bits wide, 00_scope). -/
abbrev Word := BitVec 64

/-- One 32-bit plate, accumulator or generator word. -/
abbrev W32 := BitVec 32

/-- A line is 256 B (00_scope, Notation and units). -/
abbrev Line := Vector Byte 256

/-- A 48-bit device virtual or physical address (R40, R170). -/
abbrev Addr := BitVec 48

end Sys2Proof
end

