-- ==== Sys2Proof/Syntax.lean ====
section
/-! DEFINITION. The commands of the block: one constructor of `Instr` per row of spec/opcode_table.json, with the
operand records they carry. Instruction operands are the fields of the layouts of R207; events carry what the
hardware's surroundings decide (an address, a packet, an error pattern, an elapsed count). -/
namespace Sys2Proof

/-- The stream that issues an instruction: core n of R21 and stream id of R170. -/
structure Site where
  core : Fin 96
  stream : Fin 4
deriving DecidableEq, Repr, Inhabited

/-- Issue targets (R176). -/
inductive Target where
  | seq | dma | quad | vec | port
deriving DecidableEq, Repr, Inhabited

/-- Layout R of R207. -/
structure LayR where
  rd : BitVec 5
  ra : BitVec 5
  rb : BitVec 5
deriving DecidableEq, Repr, Inhabited

/-- Layout I of R207. -/
structure LayI where
  rd : BitVec 5
  ra : BitVec 5
  imm : BitVec 32
deriving DecidableEq, Repr, Inhabited

/-- Layout B of R207; JAL puts rd where a branch has ra (R210). -/
structure LayB where
  ra : BitVec 5
  rb : BitVec 5
  off : BitVec 32
deriving DecidableEq, Repr, Inhabited

/-- Layout M of R207. -/
structure LayM where
  rd : BitVec 5
  ra : BitVec 5
  off : BitVec 32
deriving DecidableEq, Repr, Inhabited

/-- Layout D of R207. -/
structure LayD where
  r1 : BitVec 5
  r2 : BitVec 5
  r3 : BitVec 5
  r4 : BitVec 5
deriving DecidableEq, Repr, Inhabited

/-- Layout S of R207. -/
structure LayS where
  r1 : BitVec 5
  r2 : BitVec 5
  r3 : BitVec 5
  r4 : BitVec 5
  sfmt : BitVec 2
  zrc : Bool
  fmt : BitVec 5
  rnd : BitVec 2
  ovfm : Bool
deriving DecidableEq, Repr, Inhabited

/-- Layout V of R207. -/
structure LayV where
  pd : BitVec 4
  pa : BitVec 4
  pb : BitVec 4
  pc : BitVec 4
  fmt : BitVec 5
  rnd : BitVec 2
  ovfm : Bool
  sub : BitVec 4
  idx : BitVec 6
  aux : BitVec 6
deriving DecidableEq, Repr, Inhabited

/-- Layout VM of R207. -/
structure LayVM where
  pd : BitVec 4
  ra : BitVec 5
  rb : BitVec 5
  rc : BitVec 5
  fmt : BitVec 5
  rnd : BitVec 2
  ovfm : Bool
deriving DecidableEq, Repr, Inhabited

/-- Layout VS of R207. -/
structure LayVS where
  p : BitVec 4
  r : BitVec 5
  row : BitVec 6
  col : BitVec 6
  fmt : BitVec 5
deriving DecidableEq, Repr, Inhabited

/-- Layout F of R207. -/
structure LayF where
  rv : BitVec 5
  fence : BitVec 14
  reg : Bool
  rf : BitVec 5
deriving DecidableEq, Repr, Inhabited

/-- Layout P of R207. -/
structure LayP where
  rdesc : BitVec 5
  fence : BitVec 14
  reg : Bool
  rf : BitVec 5
  rv : BitVec 5
deriving DecidableEq, Repr, Inhabited

/-- The fields of MMQ's first word and extension word (R218). -/
structure TileOps where
  part : BitVec 2
  afmt : BitVec 5
  wfmt : BitVec 5
  mx : Bool
  accm : Bool
  acc : Bool
  last : Bool
  keep : Bool
  ra : BitVec 5
  rw : BitVec 5
  rsa : BitVec 5
  rsw : BitVec 5
  entry : BitVec 9
  mm1 : BitVec 11
  nm1 : BitVec 6
  km1 : BitVec 8
  astride : BitVec 19
  wstride : BitVec 19
deriving DecidableEq, Repr, Inhabited

/-- MOCFG operands (R221). -/
structure MocfgOps where
  part : BitVec 2
  ra : BitVec 5
deriving DecidableEq, Repr, Inhabited

/-- HSCALE operands (R221). -/
structure HscaleOps where
  rd : BitVec 5
  ra : BitVec 5
  rt : BitVec 5
  slot : BitVec 12
  dfmt : BitVec 5
  g : BitVec 4
  clr : Bool
deriving DecidableEq, Repr, Inhabited

/-- Semaphore operands (R229). -/
structure SemOps where
  k : BitVec 6
  val : BitVec 16
deriving DecidableEq, Repr, Inhabited

/-- PGIVE operands (R211). -/
structure PgiveOps where
  t : BitVec 2
  mask : BitVec 16
deriving DecidableEq, Repr, Inhabited

/-- SYNC operands: the mask bits of R231. -/
structure SyncOps where
  quad : Bool
  vec : Bool
  dma : Bool
  port : Bool
  seq : Bool
deriving DecidableEq, Repr, Inhabited

/-- RSEED operands (R234). -/
structure RseedOps where
  rs : BitVec 5
  key : BitVec 16
  sel : BitVec 2
deriving DecidableEq, Repr, Inhabited

/-- What the near store's SECDED finds in the line reads of a command (R239): decided by the surroundings. Each error
names the read it meets, counted from 0 in the order the command reads lines, and a double error the 64-bit word of the
line it lies in. -/
inductive Upset where
  | none
  | single (read : Nat) (more : Upset)
  | double (read : Nat) (word : Fin 32) (more : Upset)
deriving DecidableEq, Repr, Inhabited

/-- Who makes a register access (R42, R334, R515): a queue pair of context 0, or the curator (firmware, or the
operator through REGREAD and REGWRITE). -/
inductive RegMaster where
  | host
  | curator
deriving DecidableEq, Repr, Inhabited

/-- The masters of R310. -/
inductive Master where
  | engine | dma | walker | fabric | transit | vault | curator | debug | service | catalogue
deriving DecidableEq, Repr, Inhabited

/-- One symbol error of a DRAM burst (R273): beat 0-15, position 0-10 of the codeword, error symbol. -/
structure SymErr where
  beat : Fin 16
  pos : Fin 11
  sym : BitVec 16
deriving DecidableEq, Repr, Inhabited

/-- What two successive reads of one burst meet (R276 step 1). -/
structure BurstErr where
  first : List SymErr
  second : List SymErr
deriving DecidableEq, Repr, Inhabited

/-- What becomes of a sector or line on the far side of a plane or at the peer, carried by an acknowledgement. -/
inductive AckKind where
  | ack | rnr | nakSeq | nakFatal
deriving DecidableEq, Repr, Inhabited

/-- Where a RoCEv2 packet arrives: the path, the queue pair it names, its PSN, and whether it carries CE (R366, R373). A
message of several packets comes as one command, with the PSN of its first. -/
structure RoceIn where
  path : Fin 16
  qp : BitVec 12
  psn : BitVec 24
  ce : Bool
deriving DecidableEq, Repr, Inhabited

/-- Why a received frame is dropped (R366, R378, R392). -/
inductive FrameBad where
  | tooLong | twoTags | pause | fragment | ipOption | ip6Ext | checksum | icrc | unsupported | managementOther
  /-- A codeword that FEC could not correct took the frame; so many were corrected and so many were not (R394). -/
  | fec (corrected uncorrectable : Nat)
deriving DecidableEq, Repr, Inhabited

/-- The UDP datagram an NCT or transit packet comes in: the path, the destination port, and whether it carries CE. -/
structure Udp where
  path : Fin 16
  dport : BitVec 16
  ce : Bool
deriving DecidableEq, Repr, Inhabited

/-- An NCT packet: the header of R377, the payload as the wire carries it (encrypted), and the GCM tag. -/
structure NctPkt where
  ver : BitVec 4
  typ : BitVec 4
  kepoch : Bool
  role : Bool
  port : BitVec 3
  pgen : BitVec 16
  dsess : BitVec 16
  psn : BitVec 48
  ce : BitVec 16
  msgid : BitVec 32
  addr : Addr
  mpkts : BitVec 32
  cum : BitVec 48
  newc : BitVec 16
  sack : BitVec 64
  code : BitVec 8
  payload : List Byte
  tag : List Byte
deriving DecidableEq, Repr, Inhabited

/-- A transit packet: the header of R407, the payload as the wire carries it, and the GCM tag. -/
structure TrPkt where
  ver : BitVec 4
  typ : BitVec 4
  kslot : Bool
  job : BitVec 16
  src : BitVec 6
  dst : BitVec 6
  slice : BitVec 8
  route : BitVec 3
  ostep : Word
  known : Bool
  listen : Bool
  group : BitVec 24
  fidx : BitVec 8
  k : BitVec 8
  m : BitVec 8
  qfmt : BitVec 8
  nsteps : BitVec 32
  ngroups : BitVec 32
  len : Word
  acc : Word
  payload : List Byte
  tag : List Byte
deriving DecidableEq, Repr, Inhabited

/-- The measurements the governor takes in one millisecond (R533). -/
structure Measure where
  powerDw : BitVec 16
  currentMa : BitVec 16
  vinMv : BitVec 16
  die : List Int
  stack : List Int
  inlet : Int
deriving DecidableEq, Repr, Inhabited

/-- The ACCESSION and MODIDX under which a staged image is opened (R442, R444): the image names them in its ciphertext
only, so whoever staged it supplies them, and the tags decide. -/
structure StagedImage where
  acc : Word
  modidx : BitVec 16
deriving DecidableEq, Repr, Inhabited

/-- The commands: one constructor per row of the table, in the table's order. -/
inductive Instr where
  | registerWrite (m : RegMaster) (dpa : Addr) (bytes : Nat) (v : Word)
  | quarantine (m : RegMaster) (core : BitVec 7)
  | quarantineDrainDone (c : Fin 96)
  | release (m : RegMaster) (core : BitVec 7)
  | retire (m : RegMaster) (core : BitVec 7)
  | coreWake (c : Fin 96)
  | coreGate (c : Fin 96)
  | meshClockStop
  | meshClockStart
  | deepIdleEnter
  | deepIdleLeave
  | contextSwitch (c : Fin 96)
  | launchStart (site : Site)
  | programComplete (site : Site)
  | icacheFill (site : Site) (ext : Bool) (u : Upset)
  | illegal (site : Site) (w0 w1 : Word)
  | nop (site : Site) (o : LayR)
  | add (site : Site) (o : LayR)
  | addi (site : Site) (o : LayI)
  | sub (site : Site) (o : LayR)
  | mul (site : Site) (o : LayR)
  | mulhu (site : Site) (o : LayR)
  | and (site : Site) (o : LayR)
  | andi (site : Site) (o : LayI)
  | or (site : Site) (o : LayR)
  | ori (site : Site) (o : LayI)
  | xor (site : Site) (o : LayR)
  | xori (site : Site) (o : LayI)
  | shl (site : Site) (o : LayR)
  | shli (site : Site) (o : LayI)
  | shr (site : Site) (o : LayR)
  | shri (site : Site) (o : LayI)
  | sra (site : Site) (o : LayR)
  | srai (site : Site) (o : LayI)
  | slt (site : Site) (o : LayR)
  | slti (site : Site) (o : LayI)
  | sltu (site : Site) (o : LayR)
  | sltiu (site : Site) (o : LayI)
  | min (site : Site) (o : LayR)
  | max (site : Site) (o : LayR)
  | divu (site : Site) (o : LayR)
  | remu (site : Site) (o : LayR)
  | movi (site : Site) (o : LayI)
  | movhi (site : Site) (o : LayI)
  | ld64 (site : Site) (o : LayM) (u : Upset)
  | ld32 (site : Site) (o : LayM) (u : Upset)
  | st64 (site : Site) (o : LayM)
  | st32 (site : Site) (o : LayM)
  | beq (site : Site) (o : LayB)
  | bne (site : Site) (o : LayB)
  | blt (site : Site) (o : LayB)
  | bge (site : Site) (o : LayB)
  | bltu (site : Site) (o : LayB)
  | bgeu (site : Site) (o : LayB)
  | jal (site : Site) (o : LayB)
  | jr (site : Site) (o : LayR)
  | vsetvl (site : Site) (o : LayI)
  | pgive (site : Site) (o : PgiveOps)
  | plateTransferDone (site : Site)
  | srd (site : Site) (o : LayI)
  | sflag (site : Site) (o : LayI)
  | crrd (site : Site) (o : LayI)
  | crwr (site : Site) (o : LayI)
  | dcopy (site : Site) (o : LayD)
  | dcopy2d (site : Site) (o : LayD) (dstride sstride : BitVec 32)
  | dgather (site : Site) (o : LayD)
  | dscatter (site : Site) (o : LayD)
  | dmaComplete (c : Fin 96) (ch : Fin 5)
  | nspf (site : Site) (o : LayD)
  | nswb (site : Site) (o : LayD)
  | nsinv (site : Site) (o : LayD)
  | nswbinv (site : Site) (o : LayD)
  | stash (site : Site) (o : LayS)
  | unstash (site : Site) (o : LayS)
  | mmq (site : Site) (o : TileOps)
  | tileQueueHead (c : Fin 96) (p : Fin 4)
  | blockLoad (c : Fin 96) (p : Fin 4) (u : Upset)
  | feederVectorRead (c : Fin 96) (a : Fin 4) (cycles : Nat) (u : Upset)
  | accumulationStep (c : Fin 96) (a : Fin 4) (n : Fin 64) (parity : Bool)
  | tileComplete (c : Fin 96) (p : Fin 4)
  | rampUp (c : Fin 96) (a : Fin 4)
  | rampDown (c : Fin 96) (a : Fin 4) (cycles : Nat)
  | arrayIdle (c : Fin 96) (a : Fin 4) (cycles : Nat)
  | mmode (site : Site) (mode : BitVec 2)
  | modeChange (c : Fin 96)
  | mxModeWrite (m : RegMaster) (c : Fin 96) (v : Word)
  | mocfg (site : Site) (o : MocfgOps) (u : Upset)
  | hscale (site : Site) (o : HscaleOps)
  | hscaleComplete (site : Site)
  | outputTileStart (c : Fin 96) (p : Fin 4) (u : Upset)
  | outputEntryRead (c : Fin 96) (p : Fin 4) (parity : BitVec 4)
  | handoffEntryAlloc (c : Fin 96) (p : Fin 4)
  | photometryAdd (c : Fin 96) (p : Fin 4)
  | outputTileComplete (c : Fin 96) (p : Fin 4)
  | vtake (site : Site) (o : LayV)
  | vtakeCopy (site : Site)
  | vtakeComplete (site : Site)
  | vadd (site : Site) (o : LayV)
  | vsub (site : Site) (o : LayV)
  | vmul (site : Site) (o : LayV)
  | vfma (site : Site) (o : LayV)
  | vmax (site : Site) (o : LayV)
  | vmin (site : Site) (o : LayV)
  | vabs (site : Site) (o : LayV)
  | vneg (site : Site) (o : LayV)
  | vcmp (site : Site) (o : LayV)
  | vsel (site : Site) (o : LayV)
  | vand (site : Site) (o : LayV)
  | vor (site : Site) (o : LayV)
  | vxor (site : Site) (o : LayV)
  | vnot (site : Site) (o : LayV)
  | vshl (site : Site) (o : LayV)
  | vshr (site : Site) (o : LayV)
  | vsra (site : Site) (o : LayV)
  | vcvt (site : Site) (o : LayV)
  | vsplat (site : Site) (o : LayVS)
  | vget (site : Site) (o : LayVS)
  | vmov (site : Site) (o : LayV)
  | vld (site : Site) (o : LayVM) (u : Upset)
  | vst (site : Site) (o : LayVM)
  | vstMx (site : Site) (o : LayVM)
  | vredRow (site : Site) (o : LayV)
  | vredCol (site : Site) (o : LayV)
  | vexp (site : Site) (o : LayV)
  | vlog (site : Site) (o : LayV)
  | vrcp (site : Site) (o : LayV)
  | vrsq (site : Site) (o : LayV)
  | vmaxRun (site : Site) (o : LayV)
  | vexpSub (site : Site) (o : LayV)
  | vscaleRun (site : Site) (o : LayV)
  | vlse (site : Site) (o : LayV)
  | vpermRow (site : Site) (o : LayV)
  | vpermCol (site : Site) (o : LayV)
  | rseed (site : Site) (o : RseedOps)
  | rsave (site : Site) (ra : BitVec 5)
  | rload (site : Site) (ra : BitVec 5) (u : Upset)
  | vrandU32 (site : Site) (o : LayV)
  | vrandF32 (site : Site) (o : LayV)
  | genloWrite (m : RegMaster) (c : Fin 96) (g : Fin 384) (v : Word)
  | genhiWrite (m : RegMaster) (c : Fin 96) (g : Fin 384) (v : Word)
  | seminit (site : Site) (o : SemOps)
  | semsig (site : Site) (o : SemOps)
  | semacq (site : Site) (o : SemOps)
  | semacqSatisfied (site : Site)
  | fsig (site : Site) (o : LayF)
  | fwait (site : Site) (o : LayF)
  | fwaitSatisfied (site : Site)
  | waitLimit (site : Site)
  | sync (site : Site) (o : SyncOps)
  | syncDone (site : Site)
  | nput (site : Site) (o : LayP)
  | nget (site : Site) (o : LayP)
  | nsend (site : Site) (o : LayP)
  | nputComplete (req : Nat)
  | ngetComplete (req : Nat)
  | nsendComplete (req : Nat)
  | transitOut (site : Site) (o : LayP)
  | transitPull (site : Site) (o : LayP)
  | vaultSave (site : Site) (o : LayP)
  | vaultCommit (site : Site) (o : LayP)
  | vaultRestore (site : Site) (o : LayP) (images : List StagedImage)
  | vaultDrain (site : Site) (o : LayP)
  | endProg (site : Site)
  | trap (site : Site) (imm : BitVec 32)
  | icinv (site : Site)
  | trapDrainComplete (site : Site)
  | abortDrainComplete (site : Site)
  | lineFill (c : Fin 96) (line : BitVec 40) (u : Upset)
  | stridePrefetch (c : Fin 96) (entry : Fin 16)
  | sectorWrite (c : Fin 96)
  | sliceEviction (line : BitVec 40)
  | translationWalk (c : Fin 96) (dva : Addr)
  | stackLineRead (m : Master) (line : BitVec 40) (owner : BitVec 4) (e : BurstErr)
  | stackLineWrite (m : Master) (line : BitVec 40) (owner : BitVec 4) (data : Line) (e : BurstErr)
  | partialWriteMerge (line : BitVec 40) (e : BurstErr)
  | patrolRead (stack : Fin 16) (e : BurstErr)
  | rowSpare (stack : Fin 16) (die : BitVec 4) (channel : BitVec 4) (bank : BitVec 5) (row : BitVec 14)
      (errs : List (BitVec 5 × BurstErr))
  | rebuildStep (stack : Fin 16) (group : Fin 16) (e : BurstErr)
  | stackRetire (m : RegMaster) (stack : Fin 16) (die : BitVec 4)
  | stackFill (m : RegMaster) (stack : Fin 16)
  | fillComplete (stack : Fin 16)
  | mapClear (m : RegMaster) (stack : Fin 16) (page : BitVec 27)
  | mapClearDone (stack : Fin 16)
  | repairQueuePop (m : RegMaster) (stack : Fin 16)
  | stackTempChange (stack : Fin 16) (temp : Int)
  | zeroize (m : RegMaster)
  | haltPropagate
  | haltKeyZero
  | haltFaultPin
  | haltLinksDown
  | haltClear
  | curatorWindowLock (m : RegMaster)
  | doorbellWrite (q : BitVec 13) (tail : BitVec 32)
  | queueTakeCommand (q : BitVec 13)
  | cmdNop (q : BitVec 13)
  | launch (q : BitVec 13)
  | copy (q : BitVec 13)
  | signal (q : BitVec 13)
  | wait (q : BitVec 13)
  | queueWaitSatisfied (q : BitVec 13)
  | resume (q : BitVec 13)
  | abort (q : BitVec 13)
  | query (q : BitVec 13)
  | map (q : BitVec 13)
  | unmap (q : BitVec 13)
  | remap (q : BitVec 13)
  | catalogueSync (q : BitVec 13)
  | contextDestroy (q : BitVec 13)
  | destroyQuiesced (q : BitVec 13)
  | catalogueEntryEvict (cat : BitVec 2) (idx : BitVec 14)
  | catalogueLock (m : RegMaster)
  | fenceSignal
  | mirrorWrite (f : BitVec 14)
  | qpLoad (m : RegMaster) (n : BitVec 12)
  | linkUp (port : Fin 8) (half : Bool) (kr : Bool)
  | linkDown (port : Fin 8) (half : Bool)
  | roceSendRx (f : RoceIn) (data : List Byte)
  | roceWriteRx (f : RoceIn) (va : Word) (rkey : BitVec 32) (data : List Byte)
  | roceReadReqRx (f : RoceIn) (va : Word) (rkey : BitVec 32) (len : Nat)
  | roceReadRespRx (f : RoceIn) (data : List Byte)
  | roceAckRx (f : RoceIn) (kind : AckKind)
  | cnpRx (f : RoceIn)
  | roceUnsupportedRx (f : RoceIn)
  | roceAckTimeout (qp : BitVec 12)
  | roceRateIncrease (qp : BitVec 12)
  | cnpSend (qp : BitVec 12)
  | arpRequestRx (port : Fin 8) (v6 : Bool) (target : BitVec 128)
  | frameDrop (port : Fin 8) (why : FrameBad)
  | sessionEnable (m : RegMaster) (i : BitVec 10) (v : Word)
  | sessionDisable (m : RegMaster) (i : BitVec 10) (v : Word)
  | sessionLost (i : BitVec 10)
  | keySwitch (m : RegMaster) (i : BitVec 10)
  | keyRetire (m : RegMaster) (i : BitVec 10) (slot : Bool)
  | nctPacketSend (i : BitVec 10)
  | nctDataRx (u : Udp) (p : NctPkt)
  | nctAckRx (u : Udp) (p : NctPkt)
  | nctReadRx (u : Udp) (p : NctPkt)
  | nctSignalRx (u : Udp) (p : NctPkt)
  | nctProbeRx (u : Udp) (p : NctPkt)
  | nctNakRx (u : Udp) (p : NctPkt)
  | nctAckTimer (i : BitVec 10)
  | nctRto (i : BitVec 10) (psn : BitVec 48)
  | nctProbeSend (i : BitVec 10) (path : Fin 16)
  | pathSuspect (path : Fin 16)
  | transitPass1Done
  | transitPass2Done
  | transitFragmentSend
  | transitDataRx (u : Udp) (p : TrPkt)
  | transitAckRx (u : Udp) (p : TrPkt)
  | transitMergeRx (u : Udp) (p : TrPkt)
  | transitProbeRx (u : Udp) (p : TrPkt)
  | transitEchoRx (u : Udp) (p : TrPkt)
  | transitProbeSend (route : Fin 8) (dst : BitVec 6)
  | routeDead (route : Fin 8)
  | transitDeadline (k : Word)
  | coordDecide (k : Word)
  | transitUnmerged (k : Word)
  | transitPullComplete
  | transitJobEnd (m : RegMaster) (v : Word)
  | transitKeySwitch (m : RegMaster)
  | transitKeyRetire (m : RegMaster) (slot : Bool)
  | vaultEnable (m : RegMaster) (v : Word)
  | vaultTimerDue
  | vaultSaveComplete
  | vaultCommitComplete
  | drainComplete
  | restoreComplete
  | logbookScan
  | safeWrite (m : RegMaster)
  | mboxTailWrite (m : RegMaster) (tail : BitVec 32)
  | cert
  | kemkey
  | report
  | openSess
  | msg
  | close
  | measure
  | finalize
  | consent
  | ownerkey
  | nctkey
  | sitekey
  | ckptkey
  | prExtend (m : RegMaster) (v : Word)
  | fwConfirm (m : RegMaster)
  | fwStageSet (m : RegMaster) (v : Bool)
  | watchdogKick (m : RegMaster)
  | watchdogExpire (memoryError : Bool)
  | coreReset (m : RegMaster) (core : BitVec 7)
  | chipReset (m : RegMaster)
  | moduleReset (m : RegMaster)
  | modResetNAssert
  | modResetNRelease
  | inputValid
  | inputInvalid
  | hotswapRampDone
  | bootImageSelect
  | stackTrainingDone (trained : BitVec 16) (katOk randomOk : Bool)
  | coresRelease
  | readySet
  | mgmtHello (v6 : Bool) (dst : BitVec 128) (port : BitVec 16) (frame : List Byte)
  | mgmtFinish (session : Fin 4) (frame : List Byte)
  | mgmtLockoutEnd
  | regread (session : Fin 4) (frame : List Byte)
  | regwrite (session : Fin 4) (frame : List Byte)
  | logread (session : Fin 4) (frame : List Byte)
  | setread (session : Fin 4) (frame : List Byte)
  | setwrite (session : Fin 4) (frame : List Byte)
  | fwstage (session : Fin 4) (frame : List Byte)
  | fwunstage (session : Fin 4) (frame : List Byte)
  | reset (session : Fin 4) (frame : List Byte)
  | service (session : Fin 4) (frame : List Byte)
  | power (session : Fin 4) (frame : List Byte)
  | debugmem (session : Fin 4) (frame : List Byte)
  | repairclear (session : Fin 4) (frame : List Byte)
  | enroll (session : Fin 4) (frame : List Byte)
  | buttonRelease
  | supplyWarning
  | supplyAboveRelease (minMv : Nat)
  | supplyBelowRelease
  | clampRelease
  | clampRestored
  | supplyReset
  | governorTick (m : Measure)
  | thermalTrip (die : Bool)
  | smbusVersion
  | smbusStatus
  | smbusOrderCode
  | smbusSerial
  | smbusVin
  | smbusIin
  | smbusPin
  | smbusTdie
  | smbusTstack
  | smbusTboard
  | smbusCause
  | smbusNack (write : Bool) (command : Byte)
  | railFault
  | buttonPress
  | curatorRestartDone
  | rocePacketSend (qp : BitVec 12)
  | pfcPauseRx (port : Fin 8) (mask : Byte)
deriving DecidableEq, Repr

end Sys2Proof
end

