-- ==== Sys2Proof/Decode.lean ====
section
/-! DEFINITION. The words of the Jalner instructions (R204-R235): the encoder, the legality check of R206, the decoder;
and the command a table word spells (the table gives no row bits, so there is none). -/
namespace Sys2Proof

/-- The command a table word spells: no row of the table gives bits, so no word spells a command. -/
def decodeTableWord (_nbits _w : Nat) : Option Instr := none

/-! ### Fields and layouts (R204, R207) -/

/-- `len` bits of a word from bit `lo`. -/
def fld (w : Word) (lo len : Nat) : BitVec len := w.extractLsb' lo len

/-- A one-bit field. -/
def bit1 (w : Word) (lo : Nat) : Bool := w.getLsbD lo

/-- One bit as a field. -/
def b1 (b : Bool) : BitVec 1 := BitVec.ofBool b

/-- Major and minor in bits [63:52] (R204). -/
def opc (maj min : Nat) (x : BitVec 52) : Word := BitVec.ofNat 6 maj ++ BitVec.ofNat 6 min ++ x

def LayR.bits (o : LayR) : BitVec 52 := o.rd ++ o.ra ++ o.rb ++ 0#37
def LayI.bits (o : LayI) : BitVec 52 := o.rd ++ o.ra ++ 0#10 ++ o.imm
def LayB.bits (o : LayB) : BitVec 52 := o.ra ++ o.rb ++ 0#10 ++ o.off
def LayM.bits (o : LayM) : BitVec 52 := o.rd ++ o.ra ++ 0#10 ++ o.off
def LayD.bits (o : LayD) : BitVec 52 := o.r1 ++ o.r2 ++ o.r3 ++ o.r4 ++ 0#32
def LayS.bits (o : LayS) : BitVec 52 :=
  o.r1 ++ o.r2 ++ o.r3 ++ o.r4 ++ o.sfmt ++ b1 o.zrc ++ o.fmt ++ o.rnd ++ b1 o.ovfm ++ 0#21
def LayV.bits (o : LayV) : BitVec 52 :=
  o.pd ++ o.pa ++ o.pb ++ o.pc ++ o.fmt ++ o.rnd ++ b1 o.ovfm ++ o.sub ++ o.idx ++ o.aux ++ 0#12
def LayVM.bits (o : LayVM) : BitVec 52 :=
  o.pd ++ o.ra ++ o.rb ++ o.rc ++ o.fmt ++ o.rnd ++ b1 o.ovfm ++ 0#25
def LayVS.bits (o : LayVS) : BitVec 52 := o.p ++ o.r ++ o.row ++ o.col ++ o.fmt ++ 0#26
def LayF.bits (o : LayF) : BitVec 52 := o.rv ++ o.fence ++ b1 o.reg ++ o.rf ++ 0#27
def LayP.bits (o : LayP) : BitVec 52 := o.rdesc ++ o.fence ++ b1 o.reg ++ o.rf ++ o.rv ++ 0#22
/-- First word of MMQ (R218). -/
def TileOps.bits (o : TileOps) : BitVec 52 :=
  o.part ++ o.afmt ++ o.wfmt ++ b1 o.mx ++ b1 o.accm ++ b1 o.acc ++ b1 o.last ++ b1 o.keep ++ o.ra ++ o.rw ++ o.rsa ++
    o.rsw ++ o.entry ++ 0#6
/-- Extension word of MMQ (R218). -/
def TileOps.ext (o : TileOps) : Word := o.mm1 ++ o.nm1 ++ o.km1 ++ o.astride ++ o.wstride ++ 0#1
def MocfgOps.bits (o : MocfgOps) : BitVec 52 := o.part ++ o.ra ++ 0#45
def HscaleOps.bits (o : HscaleOps) : BitVec 52 :=
  o.rd ++ o.ra ++ o.rt ++ o.slot ++ o.dfmt ++ o.g ++ b1 o.clr ++ 0#15
def SemOps.bits (o : SemOps) : BitVec 52 := o.k ++ o.val ++ 0#30
def PgiveOps.bits (o : PgiveOps) : BitVec 52 := o.t ++ o.mask ++ 0#34
def SyncOps.bits (o : SyncOps) : BitVec 52 := b1 o.quad ++ b1 o.vec ++ b1 o.dma ++ b1 o.port ++ b1 o.seq ++ 0#47
def RseedOps.bits (o : RseedOps) : BitVec 52 := o.rs ++ o.key ++ o.sel ++ 0#29

/-! The layouts read back from a word. -/

def LayR.ofWord (w : Word) : LayR := ⟨fld w 47 5, fld w 42 5, fld w 37 5⟩
def LayI.ofWord (w : Word) : LayI := ⟨fld w 47 5, fld w 42 5, fld w 0 32⟩
def LayB.ofWord (w : Word) : LayB := ⟨fld w 47 5, fld w 42 5, fld w 0 32⟩
def LayM.ofWord (w : Word) : LayM := ⟨fld w 47 5, fld w 42 5, fld w 0 32⟩
def LayD.ofWord (w : Word) : LayD := ⟨fld w 47 5, fld w 42 5, fld w 37 5, fld w 32 5⟩
def LayS.ofWord (w : Word) : LayS :=
  ⟨fld w 47 5, fld w 42 5, fld w 37 5, fld w 32 5, fld w 30 2, bit1 w 29, fld w 24 5, fld w 22 2, bit1 w 21⟩
def LayV.ofWord (w : Word) : LayV :=
  ⟨fld w 48 4, fld w 44 4, fld w 40 4, fld w 36 4, fld w 31 5, fld w 29 2, bit1 w 28, fld w 24 4, fld w 18 6,
    fld w 12 6⟩
def LayVM.ofWord (w : Word) : LayVM :=
  ⟨fld w 48 4, fld w 43 5, fld w 38 5, fld w 33 5, fld w 28 5, fld w 26 2, bit1 w 25⟩
def LayVS.ofWord (w : Word) : LayVS := ⟨fld w 48 4, fld w 43 5, fld w 37 6, fld w 31 6, fld w 26 5⟩
def LayF.ofWord (w : Word) : LayF := ⟨fld w 47 5, fld w 33 14, bit1 w 32, fld w 27 5⟩
def LayP.ofWord (w : Word) : LayP := ⟨fld w 47 5, fld w 33 14, bit1 w 32, fld w 27 5, fld w 22 5⟩
def TileOps.ofWords (w x : Word) : TileOps :=
  { part := fld w 50 2, afmt := fld w 45 5, wfmt := fld w 40 5, mx := bit1 w 39, accm := bit1 w 38, acc := bit1 w 37,
    last := bit1 w 36, keep := bit1 w 35, ra := fld w 30 5, rw := fld w 25 5, rsa := fld w 20 5, rsw := fld w 15 5,
    entry := fld w 6 9, mm1 := fld x 53 11, nm1 := fld x 47 6, km1 := fld x 39 8, astride := fld x 20 19,
    wstride := fld x 1 19 }
def MocfgOps.ofWord (w : Word) : MocfgOps := ⟨fld w 50 2, fld w 45 5⟩
def HscaleOps.ofWord (w : Word) : HscaleOps :=
  ⟨fld w 47 5, fld w 42 5, fld w 37 5, fld w 25 12, fld w 20 5, fld w 16 4, bit1 w 15⟩
def SemOps.ofWord (w : Word) : SemOps := ⟨fld w 46 6, fld w 30 16⟩
def PgiveOps.ofWord (w : Word) : PgiveOps := ⟨fld w 50 2, fld w 34 16⟩
def SyncOps.ofWord (w : Word) : SyncOps := ⟨bit1 w 51, bit1 w 50, bit1 w 49, bit1 w 48, bit1 w 47⟩
def RseedOps.ofWord (w : Word) : RseedOps := ⟨fld w 47 5, fld w 31 16, fld w 29 2⟩

/-- The extension word of DCOPY2D (R215): DSTRIDE above SSTRIDE. -/
def stridesWord (d s : BitVec 32) : Word := d ++ s

/-! ### Encoder -/

/-- The first word and the extension word (0 where there is none) of an instruction; none for a command that is no
instruction of a stream (R204, R208-R235). -/
def encode : Instr → Option (Word × Word)
  | .nop _ o => some (opc 0x00 0x00 o.bits, 0)
  | .add _ o => some (opc 0x00 0x01 o.bits, 0)
  | .sub _ o => some (opc 0x00 0x02 o.bits, 0)
  | .mul _ o => some (opc 0x00 0x03 o.bits, 0)
  | .mulhu _ o => some (opc 0x00 0x04 o.bits, 0)
  | .and _ o => some (opc 0x00 0x05 o.bits, 0)
  | .or _ o => some (opc 0x00 0x06 o.bits, 0)
  | .xor _ o => some (opc 0x00 0x07 o.bits, 0)
  | .shl _ o => some (opc 0x00 0x08 o.bits, 0)
  | .shr _ o => some (opc 0x00 0x09 o.bits, 0)
  | .sra _ o => some (opc 0x00 0x0A o.bits, 0)
  | .slt _ o => some (opc 0x00 0x0B o.bits, 0)
  | .sltu _ o => some (opc 0x00 0x0C o.bits, 0)
  | .min _ o => some (opc 0x00 0x0D o.bits, 0)
  | .max _ o => some (opc 0x00 0x0E o.bits, 0)
  | .divu _ o => some (opc 0x00 0x0F o.bits, 0)
  | .remu _ o => some (opc 0x00 0x10 o.bits, 0)
  | .addi _ o => some (opc 0x01 0x01 o.bits, 0)
  | .andi _ o => some (opc 0x01 0x05 o.bits, 0)
  | .ori _ o => some (opc 0x01 0x06 o.bits, 0)
  | .xori _ o => some (opc 0x01 0x07 o.bits, 0)
  | .shli _ o => some (opc 0x01 0x08 o.bits, 0)
  | .shri _ o => some (opc 0x01 0x09 o.bits, 0)
  | .srai _ o => some (opc 0x01 0x0A o.bits, 0)
  | .slti _ o => some (opc 0x01 0x0B o.bits, 0)
  | .sltiu _ o => some (opc 0x01 0x0C o.bits, 0)
  | .movi _ o => some (opc 0x01 0x11 o.bits, 0)
  | .movhi _ o => some (opc 0x01 0x12 o.bits, 0)
  | .ld64 _ o _ => some (opc 0x02 0x00 o.bits, 0)
  | .ld32 _ o _ => some (opc 0x02 0x01 o.bits, 0)
  | .st64 _ o => some (opc 0x02 0x02 o.bits, 0)
  | .st32 _ o => some (opc 0x02 0x03 o.bits, 0)
  | .beq _ o => some (opc 0x03 0x00 o.bits, 0)
  | .bne _ o => some (opc 0x03 0x01 o.bits, 0)
  | .blt _ o => some (opc 0x03 0x02 o.bits, 0)
  | .bge _ o => some (opc 0x03 0x03 o.bits, 0)
  | .bltu _ o => some (opc 0x03 0x04 o.bits, 0)
  | .bgeu _ o => some (opc 0x03 0x05 o.bits, 0)
  | .jal _ o => some (opc 0x03 0x06 o.bits, 0)
  | .jr _ o => some (opc 0x03 0x07 o.bits, 0)
  | .vsetvl _ o => some (opc 0x04 0x00 o.bits, 0)
  | .pgive _ o => some (opc 0x04 0x01 o.bits, 0)
  | .srd _ o => some (opc 0x04 0x02 o.bits, 0)
  | .sflag _ o => some (opc 0x04 0x03 o.bits, 0)
  | .crrd _ o => some (opc 0x04 0x04 o.bits, 0)
  | .crwr _ o => some (opc 0x04 0x05 o.bits, 0)
  | .dcopy _ o => some (opc 0x08 0x00 o.bits, 0)
  | .dcopy2d _ o d s => some (opc 0x08 0x01 o.bits, stridesWord d s)
  | .dgather _ o => some (opc 0x08 0x02 o.bits, 0)
  | .dscatter _ o => some (opc 0x08 0x03 o.bits, 0)
  | .nspf _ o => some (opc 0x09 0x00 o.bits, 0)
  | .nswb _ o => some (opc 0x09 0x01 o.bits, 0)
  | .nsinv _ o => some (opc 0x09 0x02 o.bits, 0)
  | .nswbinv _ o => some (opc 0x09 0x03 o.bits, 0)
  | .stash _ o => some (opc 0x0A 0x00 o.bits, 0)
  | .unstash _ o => some (opc 0x0A 0x01 o.bits, 0)
  | .mmq _ o => some (opc 0x10 0x00 o.bits, o.ext)
  | .mmode _ m => some (opc 0x11 0x00 (m ++ 0#50), 0)
  | .mocfg _ o _ => some (opc 0x11 0x01 o.bits, 0)
  | .hscale _ o => some (opc 0x11 0x02 o.bits, 0)
  | .vadd _ o => some (opc 0x18 0x00 o.bits, 0)
  | .vsub _ o => some (opc 0x18 0x01 o.bits, 0)
  | .vmul _ o => some (opc 0x18 0x02 o.bits, 0)
  | .vfma _ o => some (opc 0x18 0x03 o.bits, 0)
  | .vmax _ o => some (opc 0x18 0x04 o.bits, 0)
  | .vmin _ o => some (opc 0x18 0x05 o.bits, 0)
  | .vabs _ o => some (opc 0x18 0x06 o.bits, 0)
  | .vneg _ o => some (opc 0x18 0x07 o.bits, 0)
  | .vcmp _ o => some (opc 0x18 0x08 o.bits, 0)
  | .vsel _ o => some (opc 0x18 0x09 o.bits, 0)
  | .vand _ o => some (opc 0x19 0x00 o.bits, 0)
  | .vor _ o => some (opc 0x19 0x01 o.bits, 0)
  | .vxor _ o => some (opc 0x19 0x02 o.bits, 0)
  | .vnot _ o => some (opc 0x19 0x03 o.bits, 0)
  | .vshl _ o => some (opc 0x19 0x04 o.bits, 0)
  | .vshr _ o => some (opc 0x19 0x05 o.bits, 0)
  | .vsra _ o => some (opc 0x19 0x06 o.bits, 0)
  | .vcvt _ o => some (opc 0x1A 0x00 o.bits, 0)
  | .vsplat _ o => some (opc 0x1A 0x01 o.bits, 0)
  | .vget _ o => some (opc 0x1A 0x02 o.bits, 0)
  | .vmov _ o => some (opc 0x1A 0x03 o.bits, 0)
  | .vld _ o _ => some (opc 0x1B 0x00 o.bits, 0)
  | .vst _ o => some (opc 0x1B 0x01 o.bits, 0)
  | .vstMx _ o => some (opc 0x1B 0x02 o.bits, 0)
  | .vredRow _ o => some (opc 0x1C 0x00 o.bits, 0)
  | .vredCol _ o => some (opc 0x1C 0x01 o.bits, 0)
  | .vexp _ o => some (opc 0x1D 0x00 o.bits, 0)
  | .vlog _ o => some (opc 0x1D 0x01 o.bits, 0)
  | .vrcp _ o => some (opc 0x1D 0x02 o.bits, 0)
  | .vrsq _ o => some (opc 0x1D 0x03 o.bits, 0)
  | .vmaxRun _ o => some (opc 0x1E 0x00 o.bits, 0)
  | .vexpSub _ o => some (opc 0x1E 0x01 o.bits, 0)
  | .vscaleRun _ o => some (opc 0x1E 0x02 o.bits, 0)
  | .vlse _ o => some (opc 0x1E 0x03 o.bits, 0)
  | .vpermRow _ o => some (opc 0x1F 0x00 o.bits, 0)
  | .vpermCol _ o => some (opc 0x1F 0x01 o.bits, 0)
  | .vtake _ o => some (opc 0x20 0x00 o.bits, 0)
  | .seminit _ o => some (opc 0x28 0x00 o.bits, 0)
  | .semsig _ o => some (opc 0x28 0x01 o.bits, 0)
  | .semacq _ o => some (opc 0x28 0x02 o.bits, 0)
  | .fsig _ o => some (opc 0x29 0x00 o.bits, 0)
  | .fwait _ o => some (opc 0x29 0x01 o.bits, 0)
  | .sync _ o => some (opc 0x2A 0x00 o.bits, 0)
  | .nput _ o => some (opc 0x2C 0x00 o.bits, 0)
  | .nget _ o => some (opc 0x2C 0x01 o.bits, 0)
  | .nsend _ o => some (opc 0x2C 0x02 o.bits, 0)
  | .transitOut _ o => some (opc 0x2D 0x00 o.bits, 0)
  | .transitPull _ o => some (opc 0x2D 0x01 o.bits, 0)
  | .vaultSave _ o => some (opc 0x2E 0x00 o.bits, 0)
  | .vaultCommit _ o => some (opc 0x2E 0x01 o.bits, 0)
  | .vaultRestore _ o _ => some (opc 0x2E 0x02 o.bits, 0)
  | .vaultDrain _ o => some (opc 0x2E 0x03 o.bits, 0)
  | .rseed _ o => some (opc 0x30 0x00 o.bits, 0)
  | .rsave _ ra => some (opc 0x30 0x01 (ra ++ 0#47), 0)
  | .rload _ ra _ => some (opc 0x30 0x02 (ra ++ 0#47), 0)
  | .vrandU32 _ o => some (opc 0x31 0x00 o.bits, 0)
  | .vrandF32 _ o => some (opc 0x31 0x01 o.bits, 0)
  | .endProg _ => some (opc 0x3F 0x00 0, 0)
  | .trap _ imm => some (opc 0x3F 0x01 (0#20 ++ imm), 0)
  | .icinv _ => some (opc 0x3F 0x02 0, 0)
  | _ => none

/-! ### Legality (R206)

A check is a field's least significant bit, 64 above it in the extension word, and whether the field offends. The
lists run from the most significant field down, so the first that offends gives DETAIL. -/

/-- A field that must be zero. -/
def mustZero (w : Word) (lo len : Nat) : Nat × Bool := (lo, fld w lo len != 0)

/-- A format field that must hold one of the codes given. -/
def fmtIn (w : Word) (lo : Nat) (ok : List Nat) : Nat × Bool := (lo, !(ok.contains (fld w lo 5).toNat))

def ewFmts : List Nat := [0x00, 0x02, 0x03, 0x0A, 0x0B]
def floatFmts : List Nat := [0x00, 0x02, 0x03]
def intFmts : List Nat := [0x0A, 0x0B]
def plateFmts : List Nat := [0x00, 0x01, 0x02, 0x03, 0x0A, 0x0B]
def allFmts : List Nat := List.range 16
def mxFmts : List Nat := [0x05, 0x06, 0x07, 0x08, 0x09, 0x0C]

/-- The reserved rounding code (R54). -/
def rndBad (w : Word) (lo : Nat) : Nat × Bool := (lo, fld w lo 2 == 3#2)

/-- Which V-layout fields an instruction's row names, beside the format check; the others must be zero (R224). -/
def checksV (w : Word) (pa pb pc : Bool) (fmt : List Nat) (rnd sub idx aux : Bool) : List (Nat × Bool) :=
  [(44, !pa && (mustZero w 44 4).2), (40, !pb && (mustZero w 40 4).2), (36, !pc && (mustZero w 36 4).2),
   fmtIn w 31 fmt, (29, if rnd then (rndBad w 29).2 else (mustZero w 29 2).2), (28, !rnd && bit1 w 28),
   (24, !sub && (mustZero w 24 4).2), (18, !idx && (mustZero w 18 6).2), (12, !aux && (mustZero w 12 6).2),
   mustZero w 0 12]

/-- Fence fields of layouts F and P: FENCE zero where REG is 1, rf zero where it is 0 (R206, R230). -/
def checksFence (w : Word) : List (Nat × Bool) :=
  [(33, bit1 w 32 && (mustZero w 33 14).2), (27, !bit1 w 32 && (mustZero w 27 5).2)]

/-- Range checks put beside a list of field checks: the list stays ordered by position. -/
def insChk (c : Nat × Bool) : List (Nat × Bool) → List (Nat × Bool)
  | [] => [c]
  | d :: t => if c.1 > d.1 then c :: d :: t else d :: insChk c t

/-- SEMSIG and SEMACQ amounts are 1-255 (R229). -/
def amountBad (w : Word) : Nat × Bool := (30, fld w 30 16 == 0 || decide ((fld w 30 16).toNat > 255))

/-- The checks of a first word and extension word; none for a reserved class, which offends at 58, or an unlisted
minor, which offends at 52. -/
def checks (w x : Word) : List (Nat × Bool) :=
  let rR := [mustZero w 0 37]
  let rI := [mustZero w 32 10]
  let rV := checksV w
  match (fld w 58 6).toNat, (fld w 52 6).toNat with
  | 0x00, m =>
    if m = 0 then [mustZero w 47 5, mustZero w 42 5, mustZero w 37 5, mustZero w 0 37]
    else if m ≤ 0x10 then rR else [(52, true)]
  | 0x01, m =>
    if m = 0x11 then [mustZero w 42 5, mustZero w 32 10]
    else if m = 8 ∨ m = 9 ∨ m = 10 then rI ++ [mustZero w 6 26]
    else if m = 1 ∨ m = 5 ∨ m = 6 ∨ m = 7 ∨ m = 11 ∨ m = 12 ∨ m = 0x12 then rI else [(52, true)]
  | 0x02, m => if m ≤ 3 then rI else [(52, true)]
  | 0x03, m =>
    if m ≤ 5 then rI
    else if m = 6 then [mustZero w 42 5, mustZero w 32 10]
    else if m = 7 then [mustZero w 37 5, mustZero w 0 37] else [(52, true)]
  | 0x04, 0 => [mustZero w 47 5, mustZero w 32 10]
  | 0x04, 1 => [mustZero w 0 34]
  | 0x04, 2 => [mustZero w 42 5, mustZero w 32 10, (0, decide ((fld w 0 32).toNat > 8))]
  | 0x04, 3 => [mustZero w 42 5, mustZero w 32 10, mustZero w 1 31]
  | 0x04, 4 => [mustZero w 42 5, mustZero w 32 10, (0, decide ((fld w 0 32).toNat > 15))]
  | 0x04, 5 => [mustZero w 47 5, mustZero w 32 10, (0, decide ((fld w 0 32).toNat > 15))]
  | 0x08, 0 => [mustZero w 32 5, mustZero w 0 32]
  | 0x08, m => if m ≤ 3 then [mustZero w 0 32] else [(52, true)]
  | 0x09, m => if m ≤ 3 then [mustZero w 37 5, mustZero w 32 5, mustZero w 0 32] else [(52, true)]
  | 0x0A, 0 =>
    [(30, fld w 30 2 == 3#2), fmtIn w 24 floatFmts, (22, decide ((fld w 22 2).toNat ≥ 2)), mustZero w 0 21]
  | 0x0A, 1 =>
    [(30, fld w 30 2 == 3#2), fmtIn w 24 floatFmts, mustZero w 22 2, mustZero w 21 1, mustZero w 0 21]
  | 0x10, 0 =>
    [(64, bit1 x 0), fmtIn w 45 allFmts, fmtIn w 40 allFmts, (25, bit1 w 35 && (mustZero w 25 5).2),
     (20, !bit1 w 39 && (mustZero w 20 5).2), (15, (!bit1 w 39 || bit1 w 35) && (mustZero w 15 5).2), mustZero w 0 6]
  | 0x11, 0 => [(50, fld w 50 2 == 3#2), mustZero w 0 50]
  | 0x11, 1 => [mustZero w 0 45]
  | 0x11, 2 => [fmtIn w 20 (List.range 15), mustZero w 0 15]
  | 0x18, 3 => rV true true true floatFmts false false false false
  | 0x18, 6 => rV true false false ewFmts false false false false
  | 0x18, 7 => rV true false false ewFmts false false false false
  | 0x18, 8 => insChk (24, decide ((fld w 24 4).toNat > 5)) (rV true true false ewFmts false true false false)
  | 0x18, 9 => rV true true true ewFmts false false false false
  | 0x18, m => if m ≤ 5 then rV true true false ewFmts false false false false else [(52, true)]
  | 0x19, 3 => rV true false false intFmts false false false false
  | 0x19, m =>
    if m ≤ 2 then rV true true false intFmts false false false false
    else if m ≤ 6 then
      insChk (18, decide ((fld w 18 6).toNat > if fld w 31 5 == 0x0A#5 then 31 else 15))
        (rV true false false intFmts false false true false)
    else [(52, true)]
  | 0x1A, 0 =>
    insChk (17, bit1 w 17) (insChk (12, !(plateFmts.contains (fld w 12 5).toNat))
      (rV true false false plateFmts true false false true))
  | 0x1A, 1 => [mustZero w 37 6, mustZero w 31 6, fmtIn w 26 ewFmts, mustZero w 0 26]
  | 0x1A, 2 => [mustZero w 26 5, mustZero w 0 26]
  | 0x1A, 3 => rV true false false [0] false false false false
  | 0x1B, 0 => [mustZero w 33 5, fmtIn w 28 allFmts, mustZero w 26 2, mustZero w 25 1, mustZero w 0 25]
  | 0x1B, 1 => [mustZero w 33 5, fmtIn w 28 allFmts, rndBad w 26, mustZero w 0 25]
  | 0x1B, 2 => [fmtIn w 28 mxFmts, rndBad w 26, mustZero w 0 25]
  | 0x1C, m =>
    if m ≤ 1 then
      insChk (24, decide ((fld w 24 4).toNat > 4) || (fld w 24 4 == 1#4 && fld w 31 5 == 0x0A#5))
        (rV true false false [0x00, 0x0A] false true true false)
    else [(52, true)]
  | 0x1D, m => if m ≤ 3 then rV true false false floatFmts false false false false else [(52, true)]
  | 0x1E, 0 => rV true false false [0] false false false false
  | 0x1E, 1 => rV true true false [0] false false false false
  | 0x1E, m => if m ≤ 3 then rV false true false [0] false false false false else [(52, true)]
  | 0x1F, m => if m ≤ 1 then rV true true false [0] false false false false else [(52, true)]
  | 0x20, 0 => rV false false false [0] false false false false
  | 0x28, 0 => [mustZero w 0 30]
  | 0x28, m => if m ≤ 2 then [amountBad w, mustZero w 0 30] else [(52, true)]
  | 0x29, m => if m ≤ 1 then checksFence w ++ [mustZero w 0 27] else [(52, true)]
  | 0x2A, 0 => [mustZero w 0 47]
  | 0x2C, m => if m ≤ 2 then checksFence w ++ [mustZero w 0 22] else [(52, true)]
  | 0x2D, m => if m ≤ 1 then checksFence w ++ [mustZero w 0 22] else [(52, true)]
  | 0x2E, m => if m ≤ 3 then checksFence w ++ [mustZero w 0 22] else [(52, true)]
  | 0x30, 0 => [(29, fld w 29 2 == 0#2), mustZero w 0 29]
  | 0x30, m => if m ≤ 2 then [mustZero w 0 47] else [(52, true)]
  | 0x31, m => if m ≤ 1 then rV false false false [0] false false false false else [(52, true)]
  | 0x3F, 0 => [mustZero w 0 52]
  | 0x3F, 1 => [mustZero w 32 20]
  | 0x3F, 2 => [mustZero w 0 52]
  | maj, _ =>
    if [0x04, 0x0A, 0x10, 0x11, 0x1A, 0x1B, 0x20, 0x2A, 0x3F].contains maj then [(52, true)] else [(58, true)]

/-- The first offending field of a list of checks. -/
def firstBad : List (Nat × Bool) → Option Nat
  | [] => none
  | (n, b) :: t => if b then some n else firstBad t

/-- DETAIL of the ILLEGAL trap the words take at issue, none for legal words (R206). -/
def illegalDetail (w x : Word) : Option Nat := firstBad (checks w x)

/-- MMQ and DCOPY2D carry an extension word (R204). -/
def hasExt (w : Word) : Bool := fld w 52 12 == 0x400#12 || fld w 52 12 == 0x201#12

/-- The target a first word's major class fixes (R176). -/
def targetOf (w : Word) : Target :=
  let m := (fld w 58 6).toNat
  if m ≤ 0x07 then .seq else if m ≤ 0x0F then .dma else if m ≤ 0x17 then .quad else if m ≤ 0x27 then .vec
  else if m ≤ 0x2B then .seq else if m ≤ 0x2F then .port else if m ≤ 0x33 then .vec else .seq

/-! ### Decoder -/

/-- The instruction a pair of legal words spells at a site; `u` and `im` are what its surroundings decide. -/
def decodeJalner (s : Site) (u : Upset) (im : List StagedImage) (w x : Word) : Option Instr :=
  if (illegalDetail w x).isSome then none else
  let r := LayR.ofWord w
  let i := LayI.ofWord w
  let b := LayB.ofWord w
  let m := LayM.ofWord w
  let d := LayD.ofWord w
  let v := LayV.ofWord w
  let f := LayF.ofWord w
  let p := LayP.ofWord w
  match (fld w 58 6).toNat, (fld w 52 6).toNat with
  | 0x00, 0x00 => some (.nop s r)
  | 0x00, 0x01 => some (.add s r)
  | 0x00, 0x02 => some (.sub s r)
  | 0x00, 0x03 => some (.mul s r)
  | 0x00, 0x04 => some (.mulhu s r)
  | 0x00, 0x05 => some (.and s r)
  | 0x00, 0x06 => some (.or s r)
  | 0x00, 0x07 => some (.xor s r)
  | 0x00, 0x08 => some (.shl s r)
  | 0x00, 0x09 => some (.shr s r)
  | 0x00, 0x0A => some (.sra s r)
  | 0x00, 0x0B => some (.slt s r)
  | 0x00, 0x0C => some (.sltu s r)
  | 0x00, 0x0D => some (.min s r)
  | 0x00, 0x0E => some (.max s r)
  | 0x00, 0x0F => some (.divu s r)
  | 0x00, 0x10 => some (.remu s r)
  | 0x01, 0x01 => some (.addi s i)
  | 0x01, 0x05 => some (.andi s i)
  | 0x01, 0x06 => some (.ori s i)
  | 0x01, 0x07 => some (.xori s i)
  | 0x01, 0x08 => some (.shli s i)
  | 0x01, 0x09 => some (.shri s i)
  | 0x01, 0x0A => some (.srai s i)
  | 0x01, 0x0B => some (.slti s i)
  | 0x01, 0x0C => some (.sltiu s i)
  | 0x01, 0x11 => some (.movi s i)
  | 0x01, 0x12 => some (.movhi s i)
  | 0x02, 0x00 => some (.ld64 s m u)
  | 0x02, 0x01 => some (.ld32 s m u)
  | 0x02, 0x02 => some (.st64 s m)
  | 0x02, 0x03 => some (.st32 s m)
  | 0x03, 0x00 => some (.beq s b)
  | 0x03, 0x01 => some (.bne s b)
  | 0x03, 0x02 => some (.blt s b)
  | 0x03, 0x03 => some (.bge s b)
  | 0x03, 0x04 => some (.bltu s b)
  | 0x03, 0x05 => some (.bgeu s b)
  | 0x03, 0x06 => some (.jal s b)
  | 0x03, 0x07 => some (.jr s r)
  | 0x04, 0x00 => some (.vsetvl s i)
  | 0x04, 0x01 => some (.pgive s (PgiveOps.ofWord w))
  | 0x04, 0x02 => some (.srd s i)
  | 0x04, 0x03 => some (.sflag s i)
  | 0x04, 0x04 => some (.crrd s i)
  | 0x04, 0x05 => some (.crwr s i)
  | 0x08, 0x00 => some (.dcopy s d)
  | 0x08, 0x01 => some (.dcopy2d s d (fld x 32 32) (fld x 0 32))
  | 0x08, 0x02 => some (.dgather s d)
  | 0x08, 0x03 => some (.dscatter s d)
  | 0x09, 0x00 => some (.nspf s d)
  | 0x09, 0x01 => some (.nswb s d)
  | 0x09, 0x02 => some (.nsinv s d)
  | 0x09, 0x03 => some (.nswbinv s d)
  | 0x0A, 0x00 => some (.stash s (LayS.ofWord w))
  | 0x0A, 0x01 => some (.unstash s (LayS.ofWord w))
  | 0x10, 0x00 => some (.mmq s (TileOps.ofWords w x))
  | 0x11, 0x00 => some (.mmode s (fld w 50 2))
  | 0x11, 0x01 => some (.mocfg s (MocfgOps.ofWord w) u)
  | 0x11, 0x02 => some (.hscale s (HscaleOps.ofWord w))
  | 0x18, 0x00 => some (.vadd s v)
  | 0x18, 0x01 => some (.vsub s v)
  | 0x18, 0x02 => some (.vmul s v)
  | 0x18, 0x03 => some (.vfma s v)
  | 0x18, 0x04 => some (.vmax s v)
  | 0x18, 0x05 => some (.vmin s v)
  | 0x18, 0x06 => some (.vabs s v)
  | 0x18, 0x07 => some (.vneg s v)
  | 0x18, 0x08 => some (.vcmp s v)
  | 0x18, 0x09 => some (.vsel s v)
  | 0x19, 0x00 => some (.vand s v)
  | 0x19, 0x01 => some (.vor s v)
  | 0x19, 0x02 => some (.vxor s v)
  | 0x19, 0x03 => some (.vnot s v)
  | 0x19, 0x04 => some (.vshl s v)
  | 0x19, 0x05 => some (.vshr s v)
  | 0x19, 0x06 => some (.vsra s v)
  | 0x1A, 0x00 => some (.vcvt s v)
  | 0x1A, 0x01 => some (.vsplat s (LayVS.ofWord w))
  | 0x1A, 0x02 => some (.vget s (LayVS.ofWord w))
  | 0x1A, 0x03 => some (.vmov s v)
  | 0x1B, 0x00 => some (.vld s (LayVM.ofWord w) u)
  | 0x1B, 0x01 => some (.vst s (LayVM.ofWord w))
  | 0x1B, 0x02 => some (.vstMx s (LayVM.ofWord w))
  | 0x1C, 0x00 => some (.vredRow s v)
  | 0x1C, 0x01 => some (.vredCol s v)
  | 0x1D, 0x00 => some (.vexp s v)
  | 0x1D, 0x01 => some (.vlog s v)
  | 0x1D, 0x02 => some (.vrcp s v)
  | 0x1D, 0x03 => some (.vrsq s v)
  | 0x1E, 0x00 => some (.vmaxRun s v)
  | 0x1E, 0x01 => some (.vexpSub s v)
  | 0x1E, 0x02 => some (.vscaleRun s v)
  | 0x1E, 0x03 => some (.vlse s v)
  | 0x1F, 0x00 => some (.vpermRow s v)
  | 0x1F, 0x01 => some (.vpermCol s v)
  | 0x20, 0x00 => some (.vtake s v)
  | 0x28, 0x00 => some (.seminit s (SemOps.ofWord w))
  | 0x28, 0x01 => some (.semsig s (SemOps.ofWord w))
  | 0x28, 0x02 => some (.semacq s (SemOps.ofWord w))
  | 0x29, 0x00 => some (.fsig s f)
  | 0x29, 0x01 => some (.fwait s f)
  | 0x2A, 0x00 => some (.sync s (SyncOps.ofWord w))
  | 0x2C, 0x00 => some (.nput s p)
  | 0x2C, 0x01 => some (.nget s p)
  | 0x2C, 0x02 => some (.nsend s p)
  | 0x2D, 0x00 => some (.transitOut s p)
  | 0x2D, 0x01 => some (.transitPull s p)
  | 0x2E, 0x00 => some (.vaultSave s p)
  | 0x2E, 0x01 => some (.vaultCommit s p)
  | 0x2E, 0x02 => some (.vaultRestore s p im)
  | 0x2E, 0x03 => some (.vaultDrain s p)
  | 0x30, 0x00 => some (.rseed s (RseedOps.ofWord w))
  | 0x30, 0x01 => some (.rsave s (fld w 47 5))
  | 0x30, 0x02 => some (.rload s (fld w 47 5) u)
  | 0x31, 0x00 => some (.vrandU32 s v)
  | 0x31, 0x01 => some (.vrandF32 s v)
  | 0x3F, 0x00 => some (.endProg s)
  | 0x3F, 0x01 => some (.trap s (fld w 0 32))
  | 0x3F, 0x02 => some (.icinv s)
  | _, _ => none

end Sys2Proof
end

