-- ==== Sys2Proof/Config.lean ====
section
/-! DEFINITION. What one part fixes and the spec leaves open: fused values (R550), free values, and the named
cryptographic functions. Every free constant here is opaque: no proof can see a value of it. -/
namespace Sys2Proof

/-! ### Free values (log entry 3)

`Config.free…` is applied to the counter `Glob.free` of the state, which every draw advances. -/

/-- A free 32-bit word: a value the spec leaves undefined. -/
opaque Config.free32 : Nat → W32

/-- A free 64-bit word. -/
opaque Config.free64 : Nat → Word

/-- A free byte of a draw, by address. -/
opaque Config.freeByte : Nat → Nat → Byte

/-! ### Functions stated within an error bound only (R121, R149, R150; log entry 4)

The results at the points the rules fix are in the meanings; every other operand takes these. -/

/-- VEXP's result (R149). -/
opaque Config.vexp : W32 → W32
/-- VLOG's result (R149). -/
opaque Config.vlog : W32 → W32
/-- VRCP's result (R149). -/
opaque Config.vrcp : W32 → W32
/-- VRSQ's result (R149). -/
opaque Config.vrsq : W32 → W32
/-- GELU's result (R121). -/
opaque Config.gelu : W32 → W32
/-- SiLU's result (R121). -/
opaque Config.silu : W32 → W32

/-! ### Fused values (R550; log entry 6) -/

/-- Silicon stepping, `chip.glob.id` STEPPING. -/
opaque Config.stepping : BitVec 8
/-- The grade of R8: 384, 368 or 352 enabled arrays, that is 0, 16 or 32 cores with a disabled array (R9). -/
opaque Config.grade : Fin 3
/-- Which cores and which of their arrays manufacture disabled: free numbers that the choice below draws from. -/
opaque Config.maskDraw : Nat → Nat
/-- n different members of a list, each as the next number decides. -/
def Config.pick : (n : Nat) → List (Fin 96) → List (Fin 96)
  | 0, _ => []
  | n + 1, l =>
    match l[Config.maskDraw n % l.length]? with
    | some x => x :: Config.pick n (l.erase x)
    | none => []
/-- The cores with a disabled array: none has more than one (R9). -/
def Config.maskedCores : List (Fin 96) := Config.pick (16 * Config.grade.val) (List.finRange 96)
/-- Array presence mask of core n (R10). -/
def Config.arrayMask (n : Fin 96) : BitVec 4 :=
  if Config.maskedCores.contains n then ~~~(1#4 <<< (Config.maskDraw (96 + n.val) % 4)) else 0xF
/-- Arrays whose spare row stands in for a faulty row, and that row, by core and array (R93). -/
opaque Config.spareRow : Fin 96 → Fin 4 → Option (BitVec 6)
/-- Spare rows of a bank that manufacture left free, one bit each: stack and (die, channel, bank) key (R282). -/
opaque Config.bankFree : Fin 16 → Nat → BitVec 8
/-- Spare rows that manufacture left free in each of the 6,144 banks of stack s (R293). -/
def Config.bankCounts (s : Fin 16) : List Nat :=
  (List.range 16).flatMap fun die => (List.range 12).flatMap fun ch => (List.range 32).map fun bank =>
    ((List.range 8).filter fun i => (Config.bankFree s ((die * 16 + ch) * 32 + bank)).getLsbD i).length
/-- Spare rows of stack s left after manufacture (R293 SPARELEFT). -/
def Config.spareLeft (s : Fin 16) : BitVec 16 := BitVec.ofNat 16 (Config.bankCounts s).sum
/-- Fewest spare rows left in any bank of stack s after manufacture (R293 MINBANK). -/
def Config.minBank (s : Fin 16) : BitVec 8 := BitVec.ofNat 8 ((Config.bankCounts s).foldl Min.min 8)
/-- Blown anti-rollback fuses at manufacture (R494). -/
opaque Config.fuseSvn : Nat
/-- Module serial number (R549). -/
opaque Config.serial : Word
/-- The four words of the fused part identity (R549). -/
opaque Config.fuseWord : Nat → Word
/-- The die secret in fuses (R468). -/
opaque Config.dieSecret : BitVec 256
/-- The firmware image in boot A when the part leaves the factory (R493, R506). -/
opaque Config.factoryImage : List Byte
/-- Vegrastad's firmware public key, in the boot ROM (R493, R501). -/
opaque Config.fwKey : BitVec 256
/-- JEDEC identification of the flash device (R505, R524). -/
opaque Config.jedecId : BitVec 24
/-- What the flash device answers to an SFDP read, from address 0 on (R505). -/
opaque Config.sfdp : List Byte

/-- A settings record (R508): its header's fields and its payload, without the padding. -/
structure Machine.SettingRec where
  typ : BitVec 16
  inst : BitVec 16
  length : BitVec 32
  version : Word
  word2 : Word
  word3 : Word
  digest : BitVec 256
  payload : List Byte
deriving DecidableEq, Repr, Inhabited

/-- The settings bank 0 of the almanac when the part leaves the factory, the identity certificate in it (R469, R508). -/
opaque Config.factorySettings : List Machine.SettingRec

/-! ### Open choices -/

/-- The logbook class of a record whose class the spec does not name: 0 `stack.ecc.uelog`, 1 `core.ns.ecc`, 2
`nct.glob.err`, 3 a start-up that stops, 4 a repair record that fails its CHECK (R464, R465, R512, R517). -/
opaque Config.logClassDraw : Nat → Nat
/-- One of the ten classes that R465 lists. -/
def Config.logClass (n : Nat) : Nat := 1 + Config.logClassDraw n % 10

/-- What timing within a tick makes of a count of cycles that the rows leave open: by counter, core, tick and event
(log entry 16). -/
opaque Config.timing : (counter : Nat) → Fin 96 → Word → (event : Nat) → Nat

/-! ### Header fields of sent frames that the spec does not give (log entry 50) -/

/-- IPv4 identification. -/
opaque Config.ipId : BitVec 16
/-- IPv4's don't-fragment bit. -/
opaque Config.ipDf : Bool
/-- IPv6 flow label. -/
opaque Config.flowLabel : BitVec 20
/-- Time to live, or hop limit. -/
opaque Config.ipTtl : Byte
/-- The UDP source port of a queue pair's packets. -/
opaque Config.roceSport : BitVec 12 → BitVec 16
/-- The timer field of an RNR NAK. -/
opaque Config.rnrTimer : BitVec 5

/-! ### Keys and random draws (R294, R479) -/

/-- The n-th boot key's data key K1 (R294). -/
opaque Config.bootK1 : Nat → BitVec 256
/-- What the draws of its tweak key give. -/
opaque Config.bootDraw : Nat → BitVec 256
/-- Its tweak key K2: a draw equal to K1 is drawn again (R294), so K2 is any value but K1. -/
def Config.bootK2 (n : Nat) : BitVec 256 :=
  if Config.bootDraw n = Config.bootK1 n then ~~~Config.bootK1 n else Config.bootDraw n
/-- Its hash key K3. -/
opaque Config.bootK3 : Nat → BitVec 256
/-- The two random seeds of the n-th ML-KEM key pair of the registrar (R479, FIPS 203). -/
opaque Config.kemD : Nat → BitVec 256
opaque Config.kemZ : Nat → BitVec 256

/-! ### Digests over bytes whose layout the spec does not give (R470) -/

/-- Digest of the boot ROM. -/
opaque Config.bootRomDigest : BitVec 256
/-- Digest of the fuse map. -/
opaque Config.fuseMapDigest : BitVec 256
end Sys2Proof
end

