-- ==== Sys2Proof/Machine/State.lean ====
section
/-! DEFINITION. The state of the K9 module as plain data, the reasons a command can stop, and the state after reset.
Register words keep the numbering of their register tables; state that software never reads as a word has its own
type. The value in parentheses at the end of a field's comment is its reset value and the rule that gives it. -/
namespace Sys2Proof.Machine

/-! ### Why a command can stop -/

/-- A fault stops the block. No rule of the spec stops the block for good on a command's account, so the model has
one reason only. -/
inductive Fault where
  /-- Raised by no meaning today; kept so that the type is not empty. Safe. -/
  | stuck
deriving DecidableEq, Repr, Inhabited

/-- Why a command has no step in the present state. -/
inductive Refusal where
  /-- The command has no meaning yet. Raised by a refused arm of `exec`. Safe. -/
  | notModelled (mnemonic : String)
  /-- The conditions the spec sets for the event do not hold, so the hardware takes no such step here (an instruction
  of a stream that is not running, a completion of work that is not there). Raised by every meaning whose event has
  conditions. Safe: a claim about a next state says nothing of such a step. -/
  | notEnabled (why : String)
deriving DecidableEq, Repr, Inhabited

/-! ### Streams (R170, R175) -/

/-- The state of a core (R34). -/
inductive CoreMode where
  | gated | active | quarantined | retired
deriving DecidableEq, Repr, Inhabited

/-- The state of a stream (R175). -/
inductive StreamMode where
  | idle | run | wait | drain | trapped
deriving DecidableEq, Repr, Inhabited

/-- The kind of wait of R203, with what is awaited. -/
inductive WaitFor where
  | none
  | semacq (k : BitVec 6) (n : BitVec 16)
  | fwait (fence : BitVec 14) (v : Word) (insn : Word)
  | sync (o : SyncOps) (seqNo : Nat)
  | vtake (pd : BitVec 4) (pc : Addr)
  | full
  | quadIdle (hold : Bool)
  | plate (mask : BitVec 16)
  | scalar
  | fetch
deriving DecidableEq, Repr, Inhabited

/-- The launch record of a stream (R170): the queue and command position of the running program, and the completion
and error fences it names. -/
structure LaunchRec where
  queue : BitVec 13
  pos : BitVec 32
  cfence : BitVec 14
  cvalue : Word
  efence : BitVec 14
  evalue : Word
deriving DecidableEq, Repr, Inhabited

/-- What a trap records until its drain completes (R195-R197). -/
structure TrapInfo where
  code : BitVec 8
  pc : Addr
  insn : Word
  detail : Word
  stoppc : Addr
  addr : Addr
  multi : Bool
deriving DecidableEq, Repr, Inhabited

/-- A release that waits for the stream's earlier work (R187): a semaphore amount or a fence value. -/
inductive SignalKind where
  | sem (k : BitVec 6) (n : BitVec 16)
  | fence (f : BitVec 14) (v : Word)
deriving DecidableEq, Repr, Inhabited

/-- A signal issued and not yet performed, with its place in the stream's issue order. -/
structure Held where
  seqNo : Nat
  what : SignalKind
deriving DecidableEq, Repr, Inhabited

/-- Plates in transfer from this stream (R180). -/
structure Transfer where
  mask : BitVec 16
  target : Fin 4
  /-- Issue number of the PGIVE. -/
  seqNo : Nat
deriving DecidableEq, Repr, Inhabited

/-- An HSCALE whose result is not yet written (R223); with a faulted one, `value` keeps the slot number. -/
structure HscaleRun where
  rd : BitVec 5
  value : W32
  fault : Bool
  seqNo : Nat
  pc : Addr
  insn : Word
deriving DecidableEq, Repr, Inhabited

/-- A VTAKE that copies a handoff entry into its plate (R131). -/
structure VtakeRun where
  pd : BitVec 4
  entry : Nat
  seqNo : Nat
deriving DecidableEq, Repr, Inhabited

/-- One stream context (R170). -/
structure Stream where
  /-- State of R175 (0 IDLE, R203). -/
  mode : StreamMode
  /-- What a waiting stream waits for (none, R203). -/
  wait : WaitFor
  /-- The tick at which the stream's latest SEMACQ or FWAIT began to wait (0, R194). -/
  waitSince : Word
  /-- s0 to s31; s0 is never written (zero: s9 to s31 start at zero at a launch, R172). -/
  regs : Vector Word 32
  /-- DVA of the next instruction (0, R203). -/
  pc : Addr
  /-- Vector length 1-64 (64, R138, R203). -/
  vl : BitVec 7
  /-- Plate-ownership mask (0, R203). -/
  plates : BitVec 16
  /-- Plates this stream has given and not yet delivered (none, R180). -/
  giving : List Transfer
  /-- The launch record (none: an idle stream runs no program, R170). -/
  launch : Option LaunchRec
  /-- The trap being drained or held (none). -/
  trap : Option TrapInfo
  /-- An ABORT of the stream is draining (false, R201). -/
  aborting : Bool
  /-- The ABORT is CONTEXT_DESTROY's: no record is written and no fence signalled (false, R356). -/
  silent : Bool
  /-- END has issued (false, R173). -/
  ended : Bool
  /-- Issue counter of the stream, the model's own order of its instructions (0). -/
  seqNo : Nat
  /-- Signals issued and not yet performed (none, R187). -/
  held : List Held
  /-- A running HSCALE (none, R223). -/
  hscale : Option HscaleRun
  /-- A running VTAKE copy (none, R131). -/
  vtake : Option VtakeRun
  /-- A demand access of the stream waits for a fill entry (false, R251, R260). -/
  missWaits : Bool
  /-- The queue whose LAUNCH this stream served last (8191, so that the search starts at queue 0, R343). -/
  lastQueue : BitVec 13
deriving DecidableEq, Repr, Inhabited

/-- The stream after a core reset: IDLE with nothing of a program (R171, R203). -/
def Stream.reset : Stream :=
  { mode := .idle, wait := .none, waitSince := 0, regs := Vector.replicate 32 0, pc := 0, vl := 64, plates := 0,
    giving := [], launch := none, trap := none, aborting := false, silent := false, ended := false, seqNo := 0,
    held := [], hscale := none, vtake := none, missWaits := false, lastQueue := 8191 }

/-! ### Matrix quad (R78-R108) -/

/-- A stationary block (R79): raw element bits by reduction index then column, and the weight scales by block then
column. An empty list stands for zero registers. -/
structure Block where
  w : List (List W32)
  scale : List (List Byte)
deriving DecidableEq, Repr, Inhabited

/-- One tile (R81) with all it captures at issue (R219, R220). -/
structure Tile where
  stream : Fin 4
  seqNo : Nat
  pc : Addr
  insn : Word
  /-- Its place among the instructions the core has issued, by which block loads are ordered (R89). -/
  order : Nat
  o : TileOps
  aAddr : Addr
  wAddr : Addr
  saAddr : Addr
  swAddr : Addr
  /-- The output descriptor captured from the partition (R116). -/
  desc : Vector Word 8
  /-- The checks of R104 have passed. -/
  checked : Bool
  /-- Its block is in the shadow sets, or KEEP is 1 (R89). -/
  loaded : Bool
  /-- Activation rows read so far, row m of R82. -/
  rowsRead : Nat
  /-- NAN and OVF of its accumulation steps so far (R113), with those of the chain it closes. -/
  nanF : Bool
  ovfF : Bool
deriving DecidableEq, Repr, Inhabited

/-- One activation vector between its read and the write of its 64 column sums (R94). -/
structure Flight where
  part : Fin 4
  row : Nat
  entry : Nat
  act : List W32
  scale : List Byte
  block : Block
  tile : Tile
  nextCol : Nat
deriving DecidableEq, Repr, Inhabited

/-- The ramp of one array (R99, R100). -/
inductive Ramp where
  | steady
  | up (l0 d j : Nat)
  | down (l0 d j : Nat)
deriving DecidableEq, Repr, Inhabited

/-- One accumulator entry: 64 words and the columns whose parity is bad (R109). -/
structure AccEntry where
  w : Vector W32 64
  bad : List (Fin 64)
deriving DecidableEq, Repr, Inhabited

/-- A cleared entry: zero with good parity (R110). -/
def AccEntry.zero : AccEntry := { w := Vector.replicate 64 0, bad := [] }

/-- One matrix array (R78, R98, R109). -/
structure Arr where
  /-- The stationary sets of every cell (zero after a switch, R171 step 4). -/
  active : Block
  shadow : Block
  /-- Activity level L, 0-256 (0, R108). -/
  level : Nat
  /-- Credit counter, 0-511 (0: set when the array becomes idle, R98). -/
  credit : Nat
  ramp : Ramp
  /-- A fault met the array's partition while it ramped: no fillers start until it next reads a vector, ramps up or is
  idle (false, R107). -/
  noFill : Bool
  /-- The clamp movement the array has followed last, and the core cycles of it that it has passed (0, 0, R102). -/
  clampSeq : Nat
  clampPos : Nat
  /-- Vectors in the array, oldest first. -/
  flights : List Flight
  /-- Accumulator entries 0-511 (zero, R110). -/
  acc : Tbl AccEntry
deriving DecidableEq, Repr, Inhabited

def Arr.reset : Arr :=
  { active := ⟨[], []⟩, shadow := ⟨[], []⟩, level := 0, credit := 0, ramp := .steady, noFill := false,
    clampSeq := 0, clampPos := 0, flights := [], acc := [] }

/-- The photometry counts a tile gathers (R124, R125). -/
structure Counts where
  bins : Tbl Nat
  zero : Nat
  subn : Nat
  sat : Nat
  nan : Nat
  inf : Nat
deriving DecidableEq, Repr, Inhabited

def Counts.none : Counts := { bins := [], zero := 0, subn := 0, sat := 0, nan := 0, inf := 0 }

/-- An accumulator entry on its way through the lanes: its number, the cycles since it was read, and what each lane read:
array, tile row, words and, from cycle 11 on, its draws (R119, R122, R134). -/
structure OutEntry where
  entry : Nat
  age : Nat
  rows : List (Fin 4 × Nat × AccEntry)
  draws : List (List Nat)
deriving DecidableEq, Repr, Inhabited

/-- A LAST tile between its last accumulation and its completion (R128-R132). -/
structure OutTile where
  tile : Tile
  part : Fin 4
  /-- The enabled arrays of its partition when its last row was complete (R128). -/
  lanes : List (Fin 4)
  started : Bool
  nextEntry : Nat
  /-- The per-column scale and bias vectors read at its start (R117). -/
  svec : List W32
  bvec : List W32
  counts : Counts
  added : Bool
  /-- A lane waits for a free handoff entry (R130). -/
  waiting : Bool
  /-- The entries between their read and cycle 13, oldest first (R134). -/
  pipe : List OutEntry
deriving DecidableEq, Repr, Inhabited

/-- One entry of the tile handoff queue (R129). -/
structure Handoff where
  id : Nat
  stream : Fin 4
  part : Fin 4
  tileSeq : Nat
  block : Nat
  rows : Tbl (Vector W32 64)
  rowCount : Nat
  colCount : Nat
  nanF : Bool
  ovfF : Bool
  complete : Bool
  claimed : Bool
deriving DecidableEq, Repr, Inhabited

/-- One generator (R160). -/
structure Gen where
  a : W32
  b : W32
  c : W32
  d : W32
deriving DecidableEq, Repr, Inhabited

/-- The state RSEED gives generator g with seed and key (R164). -/
def Gen.seeded (seed : Word) (key : BitVec 16) (g : Nat) : Gen :=
  { a := seed.setWidth 32, b := (seed >>> 32).setWidth 32, c := 0x4B39A5D1#32 ^^^ BitVec.ofNat 32 g,
    d := 0xC3E17F2D#32 ^^^ (key.setWidth 32 <<< 16) }

/-! ### Near store, translation cache, prefetcher and DMA (R237-R267) -/

/-- A way of a set-associative cache. -/
structure Way (α : Type) where
  tag : Nat
  val : α
deriving DecidableEq, Repr, Inhabited

/-- One set: its ways and the direction bits of its tree pseudo-LRU. -/
structure CSet (α : Type) where
  ways : List (Option (Way α))
  plru : List Bool
deriving DecidableEq, Repr, Inhabited

/-- A near-store line (R237, R244): data, words marked poisoned, prefetch tags. -/
structure NsLine where
  data : Line
  poison : Bool
  pf : Bool
  pfStream : Fin 4
  pfEpoch : BitVec 16
  ref : Bool
deriving DecidableEq, Repr, Inhabited

/-- A sector write in the core's write queue (R240): the writer, its engine and place in issue order, the line and the
bytes it places in it (offsets within the line), and the owner class of its leaf. -/
structure SectorW where
  stream : Fin 4
  seqNo : Nat
  eng : Target
  line : BitVec 40
  bytes : List (Nat × Byte)
  owner : BitVec 4
deriving DecidableEq, Repr, Inhabited

/-- A prefetch in flight (R251, R253). -/
structure Fill where
  line : BitVec 40
  stream : Fin 4
  epoch : BitVec 16
  owner : BitVec 4
deriving DecidableEq, Repr, Inhabited

/-- The engines that train the prefetcher (R250). -/
inductive PfEngine where
  | feeder | vld | scalar
deriving DecidableEq, Repr, Inhabited

/-- A stride prefetcher entry (R250-R252), by DVA line. -/
structure PfEntry where
  stream : Fin 4
  engine : PfEngine
  last : Int
  stride : Int
  hits : Nat
  breaks : Nat
  trained : Bool
  issued : Int
  used : Nat
  /-- The entry holds at a page boundary (R252): `true` while its pair has made no access since, when a walk in flight may
  still release it (R266). -/
  hold : Option Bool
deriving DecidableEq, Repr, Inhabited

/-- A leaf held by the translation cache (R262). -/
structure Leaf where
  page : BitVec 27
  owner : BitVec 4
  i : Bool
  s : Bool
  x : Bool
  w : Bool
  r : Bool
deriving DecidableEq, Repr, Inhabited

/-- A DMA operation with the register values it captured at issue (R215-R217). -/
inductive DmaOp where
  | copy (dst src : Addr) (rows : Nat) (len : Nat) (dstride sstride : Nat) (twoD : Bool)
  | gather (dst src idx : Addr) (n : Nat)
  | scatter (dst src idx : Addr) (n : Nat)
  | nswb (dva : Addr) (len : Nat)
  | nsinv (dva : Addr) (len : Nat)
  | nswbinv (dva : Addr) (len : Nat)
  | stash (dst src record : Addr) (n : Nat) (o : LayS)
  | unstash (dst src record : Addr) (n : Nat) (o : LayS)
deriving DecidableEq, Repr, Inhabited

/-- An instruction in the DMA queue, or a copy command on channel 4 (R254). -/
structure DmaEntry where
  channel : Fin 5
  seqNo : Nat
  pc : Addr
  insn : Word
  op : DmaOp
  /-- Owner keys as they stood when the copy was accepted (R488). -/
  keys : List (Nat × BitVec 256)
  started : Bool
  /-- Channel 4: the queue of the copy command. -/
  queue : BitVec 13
deriving DecidableEq, Repr, Inhabited

/-- A vector instruction in the input queue of the vector engine (R177), with what it captured at issue: vector length,
ownership mask and scalar registers; of a VTAKE the handoff entry it claimed. -/
structure VecWait where
  stream : Fin 4
  instr : Instr
  pc : Addr
  insn : Word
  seqNo : Nat
  vl : BitVec 7
  plates : BitVec 16
  regs : Vector Word 32
  entry : Option Nat
deriving DecidableEq, Repr

/-- One core with everything it owns (R19). -/
structure Core where
  /-- State of R34 (GATED, R39). -/
  mode : CoreMode
  /-- A QUARANTINE is draining (false, R37). -/
  draining : Bool
  streams : Vector Stream 4
  /-- `core.seq.status` CONTEXT where CTX_VALID (none, R203). -/
  ctx : Option (BitVec 9)
  /-- Ticks for which the core has been idle, without a demand (0, R36, R38). -/
  idleTicks : Nat
  /-- The last context the core ran, kept with its generators (none, R171). -/
  lastCtx : Option (BitVec 9)
  trapDrop : Bool
  semOvf : Bool
  /-- `core.seq.prio` (0x55, R203). -/
  prio : BitVec 8
  /-- `core.seq.waitlimit` (0, R203). -/
  waitlimit : BitVec 32
  /-- Arbitration pointer rr (0 after a core reset, R178). -/
  rr : Fin 4
  issued : Word
  dualcyc : Word
  /-- Semaphore values (0, R203). -/
  sems : Vector (BitVec 16) 64
  /-- Streams waiting at a SEMACQ, first to wait first (none, R190). -/
  semOrder : List (Fin 4)
  /-- Instruction cache lines by DVA line (empty, R174). -/
  icache : List (Nat × Line)
  /-- `core.mx.mode` (0, R108). -/
  mxMode : BitVec 2
  modeBusy : Bool
  /-- The MMODE that waits, with its stream and place in issue order (none, R86). -/
  modeWait : Option (BitVec 2 × Fin 4 × Nat)
  /-- Arrays enabled by the fuses (fused, R10, R108 PRESENT). -/
  present : BitVec 4
  /-- `core.mx.ramp` EN and LEN (1 and 0b01, R108). -/
  rampEn : Bool
  rampLen : BitVec 2
  mxBusycyc : Word
  mxStallcyc : Word
  pfault : Vector Word 4
  /-- Tile queues of the four partitions, head first, at most four tiles each (empty, R84). -/
  tileQ : Vector (List Tile) 4
  arrs : Vector Arr 4
  /-- Partition output descriptors (all zero, R116). -/
  odesc : Vector (Vector Word 8) 4
  /-- Accumulation flags (NAN, OVF) of chains not yet closed, by partition × 512 + first entry (none, R123). -/
  chainFlags : Tbl (Bool × Bool)
  outQ : Vector (List OutTile) 4
  handoff : List Handoff
  nextHandoff : Nat
  tflags : BitVec 8
  opFault : Word
  /-- Plate rows by plate × 64 + row (zero, R140). -/
  plates : Tbl (Vector W32 64)
  vflags : BitVec 12
  /-- Input queue of the vector engine, at most four instructions, oldest first (empty, R177). -/
  vecQ : List VecWait
  vxFault : Word
  genBusy : Bool
  vxBusycyc : Word
  vxTcyc : Word
  /-- 384 generators (RSEED with S = 0 and k = 0, R166). -/
  gens : Vector Gen 384
  /-- Held genlo writes by generator (none, R169). -/
  genHeld : List (Nat × Word)
  /-- The genhi value captured by the latest genlo read (none, R169). -/
  genCapture : Option (Nat × Word)
  /-- Near store: 2,048 sets of 8 ways (empty, R237). -/
  ns : Tbl (CSet NsLine)
  /-- Write queue, at most 256 (empty, R240). -/
  wq : List SectorW
  /-- Prefetches that hold fill entries, and those of NSPF that wait for one (none, R251, R253). -/
  fills : List Fill
  fillQ : List Fill
  pfmax : BitVec 11
  pfdist : BitVec 7
  pfen : Bool
  nsUe : Bool
  nsCe : Bool
  nsUeCount : BitVec 16
  nsCeCount : BitVec 32
  /-- Acquire epochs (0, R267). -/
  epochs : Vector (BitVec 16) 4
  dhit : Word
  dmiss : Word
  walks : Word
  /-- Stride prefetcher entries, at most 16 (empty, R250). -/
  pf : List PfEntry
  pfClock : Nat
  /-- Leaf translations: 32 sets of 8 ways (empty, R265). -/
  tlb : Tbl (CSet Leaf)
  /-- Level 1 and 2 entries: one set of 32 ways (empty, R265). -/
  tlbUpper : Tbl (CSet (BitVec 36))
  dmaQ : List DmaEntry
  dmaHalted : BitVec 5
  dmaFault : Word
  dmaFaddr : Addr
  dmaBytes : Word
deriving DecidableEq, Repr, Inhabited

/-- The core after a chip, module or core reset: GATED (R39, R520), every register at its reset value. -/
def Core.reset (n : Fin 96) : Core :=
  { mode := .gated, draining := false, streams := Vector.replicate 4 Stream.reset, ctx := none,
    lastCtx := none, idleTicks := 0, trapDrop := false, semOvf := false, prio := 0x55, waitlimit := 0, rr := 0, issued := 0,
    dualcyc := 0, sems := Vector.replicate 64 0, semOrder := [], icache := [], mxMode := 0, modeBusy := false,
    modeWait := none, present := Config.arrayMask n, rampEn := true, rampLen := 1, mxBusycyc := 0, mxStallcyc := 0, pfault := Vector.replicate 4 0,
    tileQ := Vector.replicate 4 [], arrs := Vector.replicate 4 Arr.reset,
    odesc := Vector.replicate 4 (Vector.replicate 8 0), chainFlags := [],
    outQ := Vector.replicate 4 [], handoff := [], nextHandoff := 0, tflags := 0, opFault := 0, plates := [],
    vflags := 0, vecQ := [], vxFault := 0, genBusy := false, vxBusycyc := 0, vxTcyc := 0,
    gens := Vector.ofFn fun g => Gen.seeded 0 0 g.val, genHeld := [], genCapture := none, ns := [], wq := [],
    fills := [], fillQ := [], pfmax := 0x200, pfdist := 0x10, pfen := true, nsUe := false, nsCe := false, nsUeCount := 0,
    nsCeCount := 0, epochs := Vector.replicate 4 0, dhit := 0, dmiss := 0, walks := 0, pf := [], pfClock := 0,
    tlb := [], tlbUpper := [], dmaQ := [], dmaHalted := 0, dmaFault := 0, dmaFaddr := 0, dmaBytes := 0 }

/-! ### Memory: chip cache slices and stacks (R243, R268-R293) -/

/-- What the sideband and the symbols of a line hold beside its data (R272), as far as a rule reads it: owner class,
poison, the boot key generation and address value it was tagged under, and whether ciphertext and tag still agree.
`keyGen` and `a` are read of written lines only: a fill line stands under its stack's `fillGen` and its own address. -/
structure LineMeta where
  written : Bool
  owner : BitVec 4
  poison : Bool
  keyGen : Nat
  a : Nat
  intact : Bool
deriving DecidableEq, Repr, Inhabited

/-- A line the written map shows as never written: a fill line (R287, R288). -/
def LineMeta.fresh : LineMeta := { written := false, owner := 0, poison := false, keyGen := 0, a := 0, intact := true }

/-- A line in its chip cache slice (R243). -/
structure SliceLine where
  data : Line
  owner : BitVec 4
  poison : Bool
  dirty : Bool
deriving DecidableEq, Repr, Inhabited

/-- A partial write to an absent line that waits for its read (R309). -/
structure Partial where
  line : BitVec 40
  bytes : List (Nat × Byte)
  owner : BitVec 4
  m : Master
deriving DecidableEq, Repr, Inhabited

/-- The state of a channel group (R279) with its position (R293). -/
inductive GroupMode where
  | fullSpare
  | remapped (q : BitVec 4)
  | noSpare
  | degraded (q : BitVec 4)
  | lost
deriving DecidableEq, Repr, Inhabited

/-- One stack controller (R293). -/
structure Stack where
  temp : Int
  cmdReject : Bool
  therm : Bool
  ownerF : Bool
  ue : Bool
  ce : Bool
  mapBusy : Bool
  filling : Bool
  trained : Bool
  groups : Vector GroupMode 16
  /-- Rebuild pointers of the groups that rebuild (none, R281). -/
  rebuild : List (Nat × Nat)
  spareLeft : BitVec 16
  minBank : BitVec 8
  retired : BitVec 16
  ceCount : BitVec 32
  ueCount : BitVec 32
  ceLog : Word
  ueLog : Word
  ownLog : Word
  consEn : Bool
  period : BitVec 16
  rowThr : BitVec 8
  dieRows : BitVec 8
  burst : BitVec 8
  passes : BitVec 32
  posGroup : BitVec 4
  posK : BitVec 24
  /-- Repair queue, at most 16, as `stack.rep.next` shows a head (empty, R283). -/
  repairQ : List Word
  /-- The curator has written the head to the repair records (false, R283). -/
  repRecorded : Bool
  /-- Corrected errors of this patrol period by (channel × 32 + bank) × 16384 + row, per die (R285, R286). -/
  rowErrs : Tbl Nat
  /-- Latest correction of each channel: (die, channel, tick) (none, R286). -/
  burstSeen : List (Nat × Nat × Nat)
  /-- In-service spared rows per die (R286). -/
  dieSpared : Tbl Nat
  /-- Spare rows taken in service per (die, channel, bank) key, one bit each (R282). -/
  bankTaken : Tbl Nat
  /-- Dies due for retirement while the repair queue was full (none, R283, R286, R292). -/
  wantRetire : BitVec 16
  /-- Rows redirected: key of die, channel, bank, row to the spare row used (R282). -/
  rowMap : Tbl Nat
  /-- The boot key under which the latest fill wrote the lines (0: none, R287). -/
  fillGen : Nat
  /-- Self-refresh (R33, R306). -/
  selfRefresh : Bool
  refreshHalved : Bool
deriving DecidableEq, Repr, Inhabited

/-- A stack controller after a chip or module reset; stack s's spare rows are fused (R550). -/
def Stack.reset (s : Fin 16) : Stack :=
  { temp := 0, cmdReject := false, therm := false, ownerF := false, ue := false, ce := false, mapBusy := false,
    filling := false, trained := false, groups := Vector.replicate 16 .fullSpare, rebuild := [],
    spareLeft := Config.spareLeft s, minBank := Config.minBank s, retired := 0, ceCount := 0, ueCount := 0,
    ceLog := 0, ueLog := 0, ownLog := 0, consEn := true, period := 0x05A0, rowThr := 8, dieRows := 0x40, burst := 4,
    passes := 0, posGroup := 0, posK := 0, repairQ := [], repRecorded := false, rowErrs := [], burstSeen := [], dieSpared := [],
    bankTaken := [], wantRetire := 0, rowMap := [], fillGen := 0, selfRefresh := false, refreshHalved := false }

/-- The memory system: stored bytes, line sidebands, slices, stacks, keys and the halt (R243-R316). -/
structure Mem where
  /-- The plaintext of every memory line as the stacks hold it, by DPA; an unlisted byte is zero, as a filled line is
  (R287, R288). -/
  dram : List Host.Cell
  /-- Sidebands by address value A (R298) (fresh, R287). -/
  side : Tbl LineMeta
  /-- Chip cache: key slice × 2048 + set (empty, R243). -/
  slice : Tbl (CSet SliceLine)
  parts : List Partial
  stk : Vector Stack 16
  /-- Boot keys drawn so far; the present key is number `keyGen` where `keyValid` (R294). -/
  keyGen : Nat
  keyValid : Bool
  katOk : Bool
  haltCause : BitVec 8
  halted : Bool
  /-- A halt has started and how far it has come (0 none, 1 started, 2 propagated, 3 key zeroed, 4 fault pin, 5 links
  down, 6 cleared) (0, R306). -/
  haltStage : Nat
  haltRec : Word
  haltTick : Word
  lock : Bool
  curwin : Vector Word 4
  /-- Measured-page counts by page (0, R472). -/
  measured : Tbl Nat
  /-- The vault region is set aside, of this many pages (0, R428). -/
  vaultEn : Bool
  vaultPages : BitVec 18
  /-- An access reached no memory line, or a vault line it may not reach: part of DPA_HOLE (false, R41, R428). -/
  dpaHole : Bool
  /-- The model's counter of free values the memory system has drawn (0; DESIGN CHOICE, log entry 3). -/
  draws : Nat
deriving DecidableEq, Repr, Inhabited

def Mem.reset : Mem :=
  { dram := [], side := [], slice := [], parts := [], stk := Vector.ofFn Stack.reset, keyGen := 0,
    keyValid := false, katOk := false, haltCause := 0, halted := false, haltStage := 0, haltRec := 0, haltTick := 0,
    lock := false, curwin := Vector.replicate 4 0, measured := [], vaultEn := false, vaultPages := 0, dpaHole := false, draws := 0 }

/-! ### Host objects (R333-R362) -/

/-- How far a taken command has come: just taken; waiting for its stream, channel, core or fence; running (a LAUNCH's
program, a COPY on channel 4, an ABORT that drains, a CONTEXT_DESTROY that quiesces); or left behind by a core that went
out of service, holding its references (R456). -/
inductive CmdStage where
  | fresh | waiting | running | parked
deriving DecidableEq, Repr, Inhabited

/-- The command a queue has taken and not completed (R343). -/
structure QCmd where
  words : List Word
  pos : BitVec 32
  stage : CmdStage
deriving DecidableEq, Repr, Inhabited

/-- Who sent a fence signal (R338 RSRC). -/
inductive SigSrc where
  | program | command | block
deriving DecidableEq, Repr, Inhabited

/-- A signal on its way to the fence unit (R351). -/
structure FenceSig where
  fence : BitVec 14
  value : Word
  err : Bool
  src : SigSrc
deriving DecidableEq, Repr, Inhabited

structure HostObj where
  ctxbase : Word
  qbase : Word
  fbase : Word
  lock : Bool
  mirrorDrop : Bool
  cmdErr : Bool
  regress : Vector Word 8
  /-- Catalogue entries on chip, by number: context 32 words, queue 16 words, fence 4 words (empty, R335). -/
  ctxs : Tbl (List Word)
  queues : Tbl (List Word)
  fences : Tbl (List Word)
  /-- Queues whose VALID was 1 at their previous load, and fences that are LIVE (none, R339, R340). -/
  qvalid : Tbl Bool
  flive : Tbl Bool
  /-- The command each queue has taken and not completed (none, R343). -/
  taken : Tbl QCmd
  /-- Signals on their way to the fence unit, oldest first (empty, R354). -/
  inbox : List FenceSig
  /-- Fences whose mirror writes are pending (empty, R354). -/
  mirrors : List (BitVec 14)
  /-- Fences of destroyed contexts that are still LIVE: `true` for those that leave LIVE once their mirror writes are sent,
  `false` for those that wait for their references (none, R357). -/
  leaving : List (BitVec 14 × Bool)
  /-- `chip.svc.ctl` parts (R467). -/
  svcReq : Bool
  svcSafe : Bool
  svcWithdrawn : Bool
  svcCause : BitVec 3
  svcFence : BitVec 14
  svcSeq : BitVec 32
deriving DecidableEq, Repr, Inhabited

def HostObj.reset : HostObj :=
  { ctxbase := 0, qbase := 0, fbase := 0, lock := false, mirrorDrop := false, cmdErr := false,
    regress := Vector.replicate 8 0, ctxs := [], queues := [], fences := [], qvalid := [], flive := [], taken := [], inbox := [], mirrors := [], leaving := [],
    svcReq := false, svcSafe := false, svcWithdrawn := false, svcCause := 0, svcFence := 0, svcSeq := 0 }

/-! ### Fabric (R363-R394) -/

/-- What a RoCEv2 request packet of the module carries: a SEND, or an RDMA WRITE at an address under an R_Key. -/
inductive QpOp where
  | send
  | write (va : Word) (rkey : BitVec 32)
deriving DecidableEq, Repr, Inhabited

/-- What an acknowledgement of the module says (R368, R371). -/
inductive AckOut where
  | ack | nakSeq | nakInvalid | nakAccess | rnr
deriving DecidableEq, Repr, Inhabited

/-- A RoCEv2 packet the module sends (R368): a request packet of a message of `total` bytes, a packet of a READ's
response, an acknowledgement with the responder's message number, or a CNP. -/
inductive RocePkt where
  | request (psn : BitVec 24) (op : QpOp) (first last : Bool) (total : Nat) (data : List Byte)
  | readResp (psn : BitVec 24) (first last : Bool) (msn : BitVec 24) (data : List Byte)
  | answer (kind : AckOut) (psn msn : BitVec 24)
  | cnp
deriving DecidableEq, Repr, Inhabited

/-- The packets of the fabric ports; a RoCEv2 packet names the queue pair it leaves and the peer's. -/
inductive Packet where
  | roce (qp : BitVec 12) (dqpn : BitVec 24) (p : RocePkt)
  | nct (p : NctPkt)
  | transit (p : TrPkt)
deriving DecidableEq, Repr, Inhabited

/-- What the Ethernet, IP and UDP headers of a frame hold (R366, R367, R386, R409): the port's and the next hop's station
address, the VLAN tag's priority and id, the IP version, both addresses, the DSCP, and the UDP ports. The ECN field is
ECT(0). -/
structure FrameHdr where
  smac : BitVec 48
  dmac : BitVec 48
  vlan : Option (BitVec 3 × BitVec 12)
  v6 : Bool
  src : BitVec 128
  dst : BitVec 128
  dscp : BitVec 6
  sport : BitVec 16
  dport : BitVec 16
deriving DecidableEq, Repr, Inhabited

/-- What leaves the module toward the outside. The log is the model's own record of outputs. -/
inductive WireEvent where
  /-- A frame on a path: its Ethernet, IP and UDP headers, and the packet in it. -/
  | packet (path : Nat) (h : FrameHdr) (p : Packet)
  | arpReply (port : Nat) (mac : BitVec 48)
  /-- A message on the connection of a management session, its length in front (R513). -/
  | mgmt (session : Nat) (frame : List Byte)
  /-- The curator refuses or closes a management connection (R514). -/
  | mgmtRefused
  | smbus (bytes : List Byte)
  | smbusNack
deriving DecidableEq, Repr, Inhabited

/-- One fabric port (R394). -/
structure Port where
  ctl : Word
  fecUe : Bool
  linkDrop : Bool
  anDone : Bool
  kr : Bool
  /-- Split as of the latest link-up (R394 SPLIT). -/
  split : Bool
  mac : BitVec 48
  nhmac : BitVec 48
  fecce : Word
  fecue : Word
  txfr : Word
  rxfr : Word
  rxdrop : Word
  /-- Priorities paused by a received PFC frame (R366). -/
  paused : Byte
deriving DecidableEq, Repr, Inhabited

def Port.reset : Port :=
  { ctl := 1, fecUe := false, linkDrop := false, anDone := false, kr := false, split := false, mac := 0, nhmac := 0,
    fecce := 0, fecue := 0, txfr := 0, rxfr := 0, rxdrop := 0, paused := 0 }

/-- State of a path (R387). -/
inductive PathMode where
  | down | up | suspect
deriving DecidableEq, Repr, Inhabited

/-- Path p.h is number 2p + h (R364). -/
structure Path where
  mode : PathMode
  tx : Word
  rx : Word
  ce : Word
  retx : Word
  /-- Tick since which an NCT packet sent on it has waited for any acknowledgement (none), and of its latest one (R387). -/
  since : Option Word
  ackAt : Option Word
  /-- Tick of the latest PROBE on it while SUSPECT (none). -/
  probeAt : Option Word
deriving DecidableEq, Repr, Inhabited

/-- An outbound RoCEv2 request packet, kept until it is acknowledged (R372). -/
structure QpReq where
  psn : BitVec 24
  op : QpOp
  data : List Byte
  /-- First and last packet of its message, and the message's bytes. -/
  first : Bool
  last : Bool
  total : Nat
  /-- The request it belongs to; none for a fence mirror. -/
  req : Option Nat
  sent : Bool
  /-- Tick it was last sent at. -/
  at' : Word
deriving DecidableEq, Repr, Inhabited

/-- A queue pair as loaded (R369). -/
structure Qp where
  entry : List Word
  /-- PSN of the next request packet, and the PSN expected next. -/
  spsn : BitVec 24
  rpsn : BitVec 24
  /-- Requests carried out (0, R368). -/
  msn : BitVec 24
  out : List QpReq
  /-- Retries since the last progress. -/
  retries : Nat
  /-- Rate, as a part of line rate (1, R373). -/
  rate : Rat
  /-- Ticks of the rate's latest halving, of the latest CNP received or rise, and of the latest CNP sent (none). -/
  lastCut : Option Word
  quiet : Option Word
  lastCnp : Option Word
  /-- A packet with CE came since the latest CNP sent. -/
  ceSeen : Bool
deriving DecidableEq, Repr, Inhabited

/-- What a request moves and over what (R388, R423, R442): an NPUT, an NGET, the serving of a peer's READ, a SEND, or
RDMA WRITEs under an R_Key. -/
inductive ReqKind where
  | nput (sess : BitVec 10) (rf : Option (BitVec 14 × Word))
  | nget (sess : BitVec 10)
  | serve (sess : BitVec 10)
  | nsend (qp : BitVec 12)
  | qwrite (qp : BitVec 12) (rkey : BitVec 32)
deriving DecidableEq, Repr, Inhabited

/-- Whose request it is: a program's, the vault drain's, a TRANSIT.pull's, or a peer's READ. -/
inductive ReqBy where
  | program | drain | pull | peer
deriving DecidableEq, Repr, Inhabited

/-- A request of the fabric block. -/
structure Req where
  id : Nat
  kind : ReqKind
  by' : ReqBy
  ctx : BitVec 9
  laddr : Addr
  raddr : Word
  len : Nat
  /-- The bytes themselves where they are not in memory (a drain chunk). -/
  bytes : Option (List Byte)
  msgid : BitVec 32
  fence : BitVec 14
  value : Word
  /-- Packets of data, of these sent once, and of these acknowledged (or placed, for an NGET). -/
  total : Nat
  queued : Nat
  done : Nat
  /-- The SIGNAL of an NPUT, or the READ of an NGET. -/
  signalSent : Bool
  signalAcked : Bool
deriving DecidableEq, Repr, Inhabited

/-- A packet of a session that is sent and not acknowledged (R384). -/
structure Sent where
  p : NctPkt
  req : Option Nat
  lost : Bool
  retx : Bool
  path : Nat
  /-- Tick it was last sent at. -/
  at' : Word
  /-- Higher PSNs shown received since it was last sent. -/
  higher : Nat
deriving DecidableEq, Repr, Inhabited

/-- A packet refused under R382: its PSN and message, the code, and the PSN of its NAK once that is sent. -/
structure Refused where
  psn : BitVec 48
  msgid : BitVec 32
  code : BitVec 8
  nak : Option (BitVec 48)
deriving DecidableEq, Repr, Inhabited

/-- State of a session (R376). -/
inductive SessMode where
  | off | connecting | up | lost
deriving DecidableEq, Repr, Inhabited

/-- One NCT session (R375-R391, R394). -/
structure Sess where
  /-- `nct.sess.cfg` without STATE. -/
  cfg : Word
  mode : SessMode
  win : Word
  rekeyDue : Bool
  keyBusy : Bool
  txSlot : Bool
  key0 : Option (BitVec 256)
  key1 : Option (BitVec 256)
  sent0 : Nat
  sent1 : Nat
  retx : BitVec 32
  stale : BitVec 16
  authfail : BitVec 16
  txPsn : BitVec 48
  txAck : BitVec 48
  txMsg : BitVec 32
  out : List Sent
  /-- Received PSNs: all below `cum`, and these. -/
  cum : BitVec 48
  rxSet : List (BitVec 48)
  /-- DATA packets received since the previous ACK, those of them with CE, and newly received packets of any type. -/
  newRx : Nat
  ceRx : Nat
  unacked : Nat
  /-- Refused packets whose NAK is not acknowledged (R382). -/
  refused : List Refused
  w : Nat
  srtt : Nat
  lastCut : Word
  /-- Tick at which it became CONNECTING or a packet of the peer's last passed R378, of the first packet received since the
  latest ACK, and of its latest PROBE as CONNECTING (0, 0, none). -/
  heard : Word
  ackSince : Word
  probeAt : Option Word
deriving DecidableEq, Repr, Inhabited

def Sess.reset : Sess :=
  { cfg := 0, mode := .off, win := 0, rekeyDue := false, keyBusy := false, txSlot := false, key0 := none,
    key1 := none, sent0 := 0, sent1 := 0, retx := 0, stale := 0, authfail := 0, txPsn := 0, txAck := 0, txMsg := 0,
    out := [], cum := 0, rxSet := [], newRx := 0, ceRx := 0, unacked := 0, refused := [], w := 0, srtt := 0,
    lastCut := 0, heard := 0, ackSince := 0, probeAt := none }

structure Fabric where
  ports : Vector Port 8
  paths : Vector Path 16
  ipmode : Word
  ipa4 : Word
  ipa6hi : Word
  ipa6lo : Word
  ipb4 : Word
  ipb6hi : Word
  ipb6lo : Word
  dscp : Word
  qpbase : Word
  regkey : Word
  qps : Tbl Qp
  nctCtl : Word
  nctWin : Word
  peerbase : Word
  failover : Bool
  sessLost : Bool
  err : Word
  sess : Tbl Sess
  reqs : List Req
  nextReq : Nat
  /-- Round-robin pointer over the paths (0, R386). -/
  spray : Nat
  /-- Frames a received PFC pause holds, by path, oldest first (none, R366). -/
  heldTx : List (Nat × WireEvent)
  /-- PLANEA_DOWN and PLANEB_DOWN (0, R387, R394). -/
  downA : Bool
  downB : Bool
deriving DecidableEq, Repr, Inhabited

def Fabric.reset : Fabric :=
  { ports := Vector.replicate 8 Port.reset, paths := Vector.replicate 16 ⟨.down, 0, 0, 0, 0, none, none, none⟩, ipmode := 0, ipa4 := 0,
    ipa6hi := 0, ipa6lo := 0, ipb4 := 0, ipb6hi := 0, ipb6lo := 0, dscp := 0xC1AC1A, qpbase := 0, regkey := 0,
    qps := [], nctCtl := 0xC5E8006403E80000, nctWin := 0x0000040000400004, peerbase := 0, failover := false,
    sessLost := false, err := 0, sess := [], reqs := [], nextReq := 0, spray := 0,
    heldTx := [], downA := false, downB := false }

/-! ### Transit (R395-R426) -/

/-- What the engine has of one sender's stream of a step (R413). -/
structure RxSite where
  site : BitVec 6
  len : Nat
  nsteps : BitVec 32
  baseacc : Word
  qfmt : BitVec 8
  ngroups : Nat
  m : Nat
  /-- Fragments received, by group × 256 + FIDX. -/
  got : List Nat
  /-- Bytes of the fragments of groups not yet decoded. -/
  parts : List (Nat × List Byte)
  /-- Groups decoded, and the data fragments of the stream that the receive slot holds. -/
  decoded : List Nat
  data : List Nat
deriving DecidableEq, Repr, Inhabited

/-- The receive state of a step (R412). -/
structure RxStep where
  step : Word
  sites : List RxSite
  late : Nat
  /-- T(k) has passed. -/
  closed : Bool
  /-- A receive slot of the step could not be written (R397). -/
  fault : Bool
deriving DecidableEq, Repr, Inhabited

/-- One ACK series of a step, from a site about a sender, as the coordinator collects it (R414, R415). -/
structure AckRec where
  step : Word
  src : BitVec 6
  sender : BitVec 6
  listen : Bool
  known : Bool
  kept : Nat
  nparts : Nat
  parts : List (Nat × List Byte)
deriving DecidableEq, Repr, Inhabited

/-- How far an exchange has come: before pass 1 ends, before pass 2 ends, after both, completed. -/
inductive ExPhase where
  | pass1 | pass2 | sent | finished
deriving DecidableEq, Repr, Inhabited

/-- An exchange (R399-R401, R417, R418); a completed one stays until its receive slot is used again. -/
structure Exchange where
  step : Word
  qfmt : BitVec 2
  listen : Bool
  kdata : Nat
  mpar : Nat
  nsteps : BitVec 32
  baseacc : Word
  t2 : W32
  deadline : Nat
  /-- Snapshot fence and value where SNAPEN is 1 and the fence is not yet signalled. -/
  snap : Option (BitVec 14 × Word)
  result : Addr
  fence : BitVec 14
  value : Word
  accepted : Word
  phase : ExPhase
  keep : List Bool
  stream : List Byte
  /-- Fragments not yet sent: (group, FIDX). -/
  toSend : List (Nat × Nat)
  /-- Fragments were sent under slot 0, slot 1. -/
  under0 : Bool
  under1 : Bool
  acked : Bool
  /-- The MERGE of the step as far as it has come: parts expected, parts, and whether it was applied. -/
  mergeParts : Nat
  mergeLen : Nat
  merge : List (Nat × List Byte)
  merged : Bool
  /-- Tick at which the last part of the MERGE came (none, R418). -/
  mergeAt : Option Word
  /-- It completed UNMERGED. -/
  unmerged : Bool
  /-- Its contribution is complete (pass 2 has ended), and it completed FAILED. -/
  contributed : Bool
  failed : Bool
deriving DecidableEq, Repr, Inhabited

/-- A route (R410, R411). -/
structure Route where
  cfg : Word
  up : Bool
  srtt : BitVec 32
  sent : Nat
  /-- Tick of its latest echo (0). -/
  echoAt : Word
deriving DecidableEq, Repr, Inhabited

/-- A TRANSIT.pull (R423): stage 0 reads the beacon, 1 the base, 2 the momentum, 3 the beacon again, 4 compares. -/
structure Pull where
  sess : BitVec 10
  result : Addr
  fence : BitVec 14
  value : Word
  stage : Nat
  first : Word
  second : Word
  accepted : Word
deriving DecidableEq, Repr, Inhabited

/-- A site-key slot (R408): its key, the PROBEs numbered under it, and the steps sent under it. -/
structure TrSlot where
  key : Option (BitVec 256)
  probes : Nat
  steps : List Word
  /-- SITE, SLICE and OSTEP of what earlier jobs sent under the slot: their nonces are used up (R408). -/
  spent : List (BitVec 6 × BitVec 8 × Word)
deriving DecidableEq, Repr, Inhabited

structure Transit where
  cfg : Word
  sites : Word
  seen : Word
  sitebase : Word
  blocks : Word
  net : Word
  rekeyDue : Bool
  keyBusy : Bool
  txSlot : Bool
  slot0 : TrSlot
  slot1 : TrSlot
  rejoin : Bool
  lateMerge : Bool
  /-- `tr.reg.local` to `tr.reg.beacon` in the order of their offsets. -/
  regs : Vector Word 11
  routes : Vector Route 8
  /-- `tr.stat.tx` to `tr.stat.glost` in the order of their offsets. -/
  stat : Vector Word 8
  err : Word
  exch : List Exchange
  rx : List RxStep
  acks : List AckRec
  /-- Steps the coordinator has decided. -/
  decided : List Word
  /-- The job and step of the previous accepted exchange (none, R400). -/
  lastStep : Option (BitVec 16 × Word)
  /-- Steps that completed UNMERGED and whose receive slot has been used again (R418). -/
  gone : List Word
  /-- Exchanges whose receive slot has been used again while fragments of theirs wait for a route (R410). -/
  left : List Exchange
  /-- At the coordinator, exchanges not yet decided whose receive slot has been used again, with what the slot held (R415). -/
  old : List (Exchange × RxStep)
  /-- PROBEs without an ECHO: key slot, number, route. -/
  probes : List (Bool × Word × Fin 8)
  /-- Tick of the latest PROBE to each peer on each route, by route × 64 + site (none, R411). -/
  probed : Tbl (Option Word)
  /-- ACK and MERGE packets that wait for a route (R410). -/
  held : List TrPkt
  pull : Option Pull
  /-- Round-robin pointer over the paths (0). -/
  spray : Nat
deriving DecidableEq, Repr, Inhabited

def TrSlot.empty : TrSlot := { key := none, probes := 0, steps := [], spent := [] }

def Transit.reset : Transit :=
  { cfg := 0x20000000, sites := 0, seen := 0, sitebase := 0, blocks := 0, net := 0xC5E9680000640000, rekeyDue := false,
    keyBusy := false, txSlot := false, slot0 := TrSlot.empty, slot1 := TrSlot.empty, rejoin := false,
    lateMerge := false, regs := Vector.replicate 11 0, routes := Vector.replicate 8 ⟨1, false, 0, 0, 0⟩,
    stat := Vector.replicate 8 0, err := 0, exch := [], rx := [], acks := [], decided := [], lastStep := none,
    gone := [], left := [], old := [], probes := [], probed := [], held := [], pull := none, spray := 0 }

/-! ### Vault (R427-R450) -/

/-- A shard of a generation: words 0-5 of its record, NPAGES and VPAGE0 (R438), and the source pages once they are
copied (R436). -/
structure Shard where
  words : List Word
  npages : Nat
  vpage0 : Nat
  pages : List Nat
deriving DecidableEq, Repr, Inhabited

/-- A generation (R429, R435). -/
structure Gener where
  committed : Bool
  isOpen : Bool
  /-- A save of it failed. -/
  broken : Bool
  acc : Word
  /-- Data pages taken, and the shards accepted in order. -/
  used : Nat
  shards : List Shard
deriving DecidableEq, Repr, Inhabited

/-- Vault work accepted and not complete: a save names its generation and shard, a restore its descriptor and the tick of
its acceptance. -/
inductive VaultJob where
  | save (fence : BitVec 14) (value : Word) (gen : Bool) (shard : Nat)
  | commit (fence : BitVec 14) (value : Word) (gen : Bool) (desc : List Word)
  | restore (fence : BitVec 14) (value : Word) (desc : List Word) (images : List StagedImage) (accepted : Word)
deriving DecidableEq, Repr, Inhabited

/-- A running drain (R442): its generation, the key slot it sends under, where its chunks go, and the bytes of its image; the
chunks are requests of the fabric. -/
structure DrainJob where
  fence : BitVec 14
  value : Word
  gen : Bool
  slot : Bool
  base : Word
  size : Nat
deriving DecidableEq, Repr, Inhabited

structure Vault where
  vctx : BitVec 9
  due : Bool
  preempt : Bool
  newest : Bool
  period : BitVec 32
  supplyEn : Bool
  dueaddr : Addr
  dueCount : BitVec 32
  /-- Tick from which the timer trigger counts, and whether it has fallen due since. -/
  since : Word
  fired : Bool
  gens : Vector Gener 2
  share : BitVec 7
  drainBytes : Word
  err : Word
  jobs : List VaultJob
  drain : Option DrainJob
  /-- Checkpoint key slots (R484), and the slot installed last, which a drain sends under. -/
  key0 : Option (BitVec 256)
  key1 : Option (BitVec 256)
  txSlot : Bool
deriving DecidableEq, Repr, Inhabited

def Gener.empty : Gener := { committed := false, isOpen := false, broken := false, acc := 0, used := 0, shards := [] }

def Vault.reset : Vault :=
  { vctx := 0, due := false, preempt := false, newest := false, period := 0, supplyEn := true, dueaddr := 0,
    dueCount := 0, since := 0, fired := false, gens := Vector.replicate 2 Gener.empty, share := 0x19, drainBytes := 0,
    err := 0, jobs := [], drain := none, key0 := none, key1 := none, txSlot := false }

/-! ### Registrar (R468-R500) -/

/-- What the registrar keeps of a context (R471, R473, R481, R484). -/
structure CtxSec where
  cpv : BitVec 256
  final : Bool
  mcount : BitVec 32
  pages : List Nat
  /-- Bound classes and their tenant keys. -/
  bound : List (Nat × BitVec 256)
  owners : List Nat
  consent : List (Nat × BitVec 3)
  ownerKeys : List (Nat × BitVec 256)
  /-- Pending joint submissions: (operation, target and slot, class, key). -/
  pend : List (Nat × Nat × Nat × BitVec 256)
deriving DecidableEq, Repr, Inhabited

def CtxSec.none : CtxSec :=
  { cpv := 0, final := false, mcount := 0, pages := [], bound := [], owners := [], consent := [], ownerKeys := [],
    pend := [] }

/-- An open tenant session (R480). -/
structure Tenant where
  ctx : BitVec 9
  cls : Nat
  secret : BitVec 256
  rx : Nat
  tx : Nat
deriving DecidableEq, Repr, Inhabited

/-- The plaintext of a tenant message (R483). -/
structure TenantMsg where
  op : BitVec 8
  arg : BitVec 56
  key : BitVec 256
deriving DecidableEq, Repr, Inhabited

structure Registrar where
  idReady : Bool
  kemReady : Bool
  kemGen : Nat
  mboxOvf : Bool
  trial : Bool
  staged : Bool
  resetgen : BitVec 32
  asvn : BitVec 8
  ssvn : BitVec 8
  /-- Blown anti-rollback fuses; kept for good (fused, R494). -/
  fusesvn : Nat
  mbox : Word
  tail : BitVec 32
  head : BitVec 32
  extdig : Vector Word 4
  stagedig : Vector Word 4
  actdig : Vector Word 4
  prov : Vector (BitVec 256) 16
  ctxs : Tbl CtxSec
  tenants : Tbl Tenant
  /-- The tenant message opened by MSG whose operation is next: session and message. -/
  opened : Option (Nat × TenantMsg)
  /-- The identity certificate the curator passed (no bytes, R469). -/
  cert : List Byte
deriving DecidableEq, Repr, Inhabited

def Registrar.reset : Registrar :=
  { idReady := false, kemReady := false, kemGen := 0, mboxOvf := false, trial := false, staged := false, resetgen := 0,
    asvn := 0, ssvn := 0, fusesvn := Config.fuseSvn, mbox := 0, tail := 0, head := 0, extdig := Vector.replicate 4 0,
    stagedig := Vector.replicate 4 0, actdig := Vector.replicate 4 0, prov := Vector.replicate 16 0, ctxs := [],
    tenants := [], opened := none, cert := [] }

/-! ### Curator and almanac (R501-R524) -/

/-- A logbook record (R465). -/
structure LogRec where
  tick : Word
  resetgen : BitVec 32
  cls : Byte
  unit : Byte
  index : BitVec 16
  src : Addr
  value : Word
deriving DecidableEq, Repr, Inhabited

/-- A repair record (R512). -/
structure RepairRec where
  tick : Word
  resetgen : BitVec 32
  unit : Byte
  kind : Byte
  value : Word
  check : Word
deriving DecidableEq, Repr, Inhabited

/-- A boot state record of the ring (R507). -/
structure BootRec where
  bseq : Word
  resv : BitVec 32
  active : Bool
  staged : Bool
  trial : Bool
  digest : BitVec 256
deriving DecidableEq, Repr, Inhabited

/-- The almanac (R505-R512): it outlives every reset. Beside the partitions stand what the boot ROM and the firmware found in
them at start-up and keep in step with them: the boot state, the live bank and the logbook's write position. -/
structure Almanac where
  jedec : BitVec 24
  /-- What the device answers to an SFDP read (R505). -/
  sfdp : List Byte
  /-- The boot state ring, by sector (R507). -/
  ring : Tbl BootRec
  /-- The sector of the boot state, and its fields. -/
  sector : Nat
  bseq : Word
  resv : BitVec 32
  active : Bool
  staged : Bool
  trial : Bool
  /-- The bytes of boot A and boot B; what follows them reads as ones (R506). -/
  imgA : List Byte
  imgB : List Byte
  /-- The records of the settings banks, in order (R508). -/
  bank0 : List SettingRec
  bank1 : List SettingRec
  liveBank : Bool
  /-- The logbook, by slot, and the next slot to write (R511). -/
  logbook : Tbl LogRec
  logPos : Nat
  repair : List RepairRec
deriving DecidableEq, Repr, Inhabited

/-- The almanac as the part leaves the factory in this model: the factory image in boot A, the factory's settings in bank 0,
no other record (PRESUMED, log entry 7). -/
def Almanac.factory : Almanac :=
  { jedec := Config.jedecId, sfdp := Config.sfdp, ring := [], sector := 254, bseq := 0, resv := 0, active := false,
    staged := false, trial := false, imgA := Config.factoryImage, imgB := [], bank0 := Config.factorySettings, bank1 := [],
    liveBank := false, logbook := [], logPos := 0, repair := [] }

/-- The keys and counters of a management session: toward the curator and from it (R513). -/
structure MgmtLink where
  keyIn : BitVec 256
  keyOut : BitVec 256
  rx : Nat
  tx : Nat
deriving DecidableEq, Repr, Inhabited

/-- A management session (R513): closed; after HELLO, with the button's level then, the seeds of its ML-KEM pair, H1 and the
tick; established, with its rights, the operator's INSTANCE, and whether it may only ENROLL. -/
inductive MgmtMode where
  | closed
  | hello (button : Bool) (d z h1 : BitVec 256) (since : Word)
  | established (rights : Word) (inst : BitVec 16) (enrollOnly : Bool) (link : MgmtLink)
deriving DecidableEq, Repr, Inhabited

structure Curator where
  restarts : BitVec 8
  phase : BitVec 4
  cause : BitVec 4
  almBad : Bool
  repairFull : Bool
  logWrap : Bool
  wdogExp : Bool
  curCe : Bool
  sessRefused : Bool
  deepIdle : Bool
  /-- DEEPIDLE of `cur.power`, the last value written (false, R14, R524). -/
  idleReq : Bool
  fwrun : Bool
  timeout : BitVec 32
  window : BitVec 32
  /-- Tick of the latest KICK, or of the firmware's start (0, R502). -/
  lastKick : Word
  /-- Tick of the latest curator restart (none, R503). -/
  lastRestart : Option Word
  restarting : Bool
  phaseTick : Vector Word 10
  /-- The start-up that runs is a chip reset's: no provenance register is extended (false, R518). -/
  chipStart : Bool
  /-- Tick from which READY waits for the links: start-up step 9, or the end of deep idle (0, R517, R522). -/
  linkSince : Word
  /-- Tick of the latest logbook scan, or of the firmware's start (0, R464). -/
  lastScan : Word
  /-- Stack groups, 16 × stack + group, that raised a service request on becoming DEGRADED (none, R462). -/
  degradedSeen : List Nat
  /-- Cores whose retirement is in the repair records, or was written to them (none, R457). -/
  retiredSeen : List Nat
  /-- Settings in force since the latest module reset (R510). -/
  scanticks : BitVec 32
  linkwait : BitVec 32
  /-- The last value logged per register DPA (R464). -/
  logged : Tbl Word
  sessions : Vector MgmtMode 4
  /-- The parts of a firmware image that FWSTAGE has brought so far (no bytes, R515). -/
  fwParts : List Byte
  /-- Ticks of the failed handshakes of the last 60 s (R514). -/
  failures : List Word
  lockout : Bool
  /-- Tick from which connections are refused (0, R514). -/
  lockoutSince : Word
  /-- Button presses latched during a restart, oldest first (R504). -/
  latched : List Nat
  /-- The settings records in force at the latest module reset (R510). -/
  inForce : List SettingRec
deriving DecidableEq, Repr, Inhabited

def Curator.reset : Curator :=
  { restarts := 0, phase := 0, cause := 0, almBad := false, repairFull := false, logWrap := false, wdogExp := false,
    curCe := false, sessRefused := false, deepIdle := false, idleReq := false, fwrun := false, timeout := 0x017D7840,
    window := 0x59682F00, lastKick := 0, lastRestart := none, restarting := false,
    phaseTick := Vector.replicate 10 0, chipStart := false, linkSince := 0, lastScan := 0,
    degradedSeen := [], retiredSeen := [], scanticks := 25000, linkwait := 4000, logged := [],
    sessions := Vector.replicate 4 .closed, fwParts := [], failures := [], lockout := false, lockoutSince := 0, latched := [], inForce := [] }

/-! ### Supply, pins and fuses (R525-R549) -/

/-- Where the module stands between off and running (R526, R532, R535, R542). -/
inductive PowerMode where
  | off
  | ramping
  | running
  | held
  | supplyReset
  | tripped
deriving DecidableEq, Repr, Inhabited

/-- The clamp of R528, R529: at 256; falling to 0x66 or held there; rising. -/
inductive Clamp where
  | normal
  | held
  | rising
deriving DecidableEq, Repr, Inhabited

structure Supply where
  power : PowerMode
  trip : Bool
  ckptReq : Bool
  govPower : Bool
  govTherm : Bool
  supplyWarn : Bool
  belowRel : Bool
  valid : Bool
  /-- The retained latch of R532. -/
  supRst : Bool
  clamp : Clamp
  /-- The value at which the latest fall began, the core cycles it takes (256 and 32, R528), and the core cycles of the
  present movement that have passed (0). -/
  clampFrom : Nat
  clampDur : Nat
  clampJ : Nat
  /-- Movements of the clamp begun, the model's own count (0; DESIGN CHOICE, log entry 41). -/
  clampSeq : Nat
  /-- The input is above the release level and the hold count runs (R529). -/
  holding : Bool
  /-- Tick of the latest crossing of the release level (0, R529). -/
  holdSince : Word
  meas : Measure
  /-- What the measurement front end shows over SMBus, which lives through a module reset (0, R545). -/
  front : Measure
  farith : Nat
  wwindow : BitVec 17
  wcount : BitVec 8
  /-- Ticks of the warnings counted and not forgotten (R531). -/
  warnings : List Word
  dipValid : Bool
  dipMinv : BitVec 15
  dipCount : BitVec 16
  dipTicks : BitVec 32
  dipStart : Word
  pressMs : BitVec 32
  presses : BitVec 4
  button : Bool
  /-- Tick at which MOD_SVC_REQ_N last counted as changed (0, R546). -/
  buttonAt : Word
  ident : Bool
  /-- Milliseconds, power and current summed in the present 250 ms window, and the sums of the latest complete one
  (0, R360). -/
  winN : Nat
  winPower : Nat
  winCurrent : Nat
  donePower : Nat
  doneCurrent : Nat
  /-- Milliseconds since the governor's last change with every limit kept (R533). -/
  govQuiet : Nat
  /-- Tick of the governor's latest step (0, R533). -/
  govLast : Word
  thermLow : Bool
  /-- A rail fault stands (R541). -/
  railFault : Bool
  railsGood : Bool
  faultLow : Bool
  /-- Level the carrier drives on MOD_RESET_N. -/
  resetN : Bool
  fuseLoaded : Bool
  fuseEcc : Bool
deriving DecidableEq, Repr, Inhabited

/-- Nothing measured. -/
def Measure.zero : Measure := { powerDw := 0, currentMa := 0, vinMv := 0, die := [], stack := [], inlet := 0 }

def Supply.reset : Supply :=
  { power := .ramping, trip := false, ckptReq := false, govPower := false, govTherm := false, supplyWarn := false,
    belowRel := false, valid := true, supRst := false, clamp := .normal, clampFrom := 256, clampDur := 32, clampJ := 0,
    clampSeq := 0, holding := false, holdSince := 0,
    meas := Measure.zero, front := Measure.zero, farith := 24,
    wwindow := 0x258, wcount := 3, warnings := [], dipValid := false, dipMinv := 0, dipCount := 0, dipTicks := 0,
    dipStart := 0, pressMs := 0, presses := 0, button := false, buttonAt := 0, ident := false,
    winN := 0, winPower := 0, winCurrent := 0, donePower := 0, doneCurrent := 0, govQuiet := 0, govLast := 0, thermLow := false,
    railFault := false, railsGood := false, faultLow := false, resetN := true, fuseLoaded := false, fuseEcc := false }

/-- The chip global block (R43) and the clocks (R29). -/
structure Glob where
  ctlReject : Bool
  dpaHole : Bool
  regAlign : Bool
  ready : Bool
  /-- Start-up has released the cores (R516 step 9). -/
  released : Bool
  gatedelay : BitVec 16
  meshRun : Bool
  /-- Ticks for which nothing has needed the mesh (0, R32). -/
  meshIdle : Nat
  serviceRun : Bool
  stackRun : Bool
  /-- The tick counter (0 at module reset, R31). -/
  tick : Word
  /-- The model's own counter of free values drawn (0; DESIGN CHOICE, log entry 3). -/
  free : Nat
deriving DecidableEq, Repr, Inhabited

def Glob.reset : Glob :=
  { ctlReject := false, dpaHole := false, regAlign := false, ready := false, released := false, gatedelay := 0x00FA,
    meshRun := false, meshIdle := 0, serviceRun := false, stackRun := false, tick := 0, free := 0 }

/-- The whole module. -/
structure State where
  cores : Vector Core 96
  mem : Mem
  host : HostObj
  fab : Fabric
  tr : Transit
  vault : Vault
  reg : Registrar
  cur : Curator
  alm : Almanac
  sup : Supply
  glob : Glob
  /-- What has left the module, oldest first: the model's own record. -/
  wire : List WireEvent
  /-- Commands waiting, first in first out. -/
  pending : List Instr
deriving DecidableEq, Repr

/-- The module right after a module reset, with the input valid and the hot-swap ramp running (start-up step 1). -/
def State.reset : State :=
  { cores := Vector.ofFn Core.reset, mem := Mem.reset, host := HostObj.reset, fab := Fabric.reset,
    tr := Transit.reset, vault := Vault.reset, reg := Registrar.reset, cur := Curator.reset, alm := Almanac.factory,
    sup := Supply.reset, glob := Glob.reset, wire := [], pending := [] }

end Sys2Proof.Machine
end

