-- ==== Sys2Proof/Machine/Cache.lean ====
section
/-! DEFINITION. One set of a set-associative cache with tree pseudo-LRU replacement (R237, R243, R265). The tree's
node i has children 2i+1 and 2i+2; a clear direction bit points left. The direction convention is the model's (log
entry 12): no rule makes it visible beyond which line is evicted. -/
namespace Sys2Proof.Machine

/-- A set with every way invalid. -/
def CSet.empty {α : Type} (n : Nat) : CSet α :=
  { ways := List.replicate n none, plru := List.replicate (n - 1) false }

/-- Turn every direction bit on the way's path away from it: `levels` is log2 of the ways. -/
def plruTouch : (levels : Nat) → (node way : Nat) → List Bool → List Bool
  | 0, _, _, b => b
  | k + 1, node, way, b =>
    let right := way / 2 ^ k % 2 = 1
    plruTouch k (2 * node + (if right then 2 else 1)) way (b.set node (!decide right))

/-- The way the direction bits point to. -/
def plruVictim : (levels : Nat) → (node : Nat) → List Bool → Nat
  | 0, _, _ => 0
  | k + 1, node, b =>
    if b.getD node false then 2 ^ k + plruVictim k (2 * node + 2) b else plruVictim k (2 * node + 1) b

/-- The way that holds a tag. -/
def CSet.wayOf {α : Type} (s : CSet α) (tag : Nat) : Option Nat :=
  s.ways.findIdx? fun w => match w with
    | some x => x.tag == tag
    | none => false

/-- The value held under a tag. -/
def CSet.find? {α : Type} (s : CSet α) (tag : Nat) : Option α :=
  s.ways.findSome? fun w => match w with
    | some x => if x.tag = tag then some x.val else none
    | none => none

/-- Record a use of a tag. -/
def CSet.touch {α : Type} (s : CSet α) (tag : Nat) : CSet α :=
  match s.wayOf tag with
  | some w => { s with plru := plruTouch (Nat.log2 s.ways.length) 0 w s.plru }
  | none => s

/-- Install a value: over its own tag, else in the first invalid way, else in the way the tree points to. Answers
what was evicted. -/
def CSet.fill {α : Type} (s : CSet α) (tag : Nat) (v : α) : CSet α × Option (Way α) :=
  let lv := Nat.log2 s.ways.length
  let put (w : Nat) : CSet α :=
    { ways := s.ways.set w (some ⟨tag, v⟩), plru := plruTouch lv 0 w s.plru }
  match s.wayOf tag with
  | some w => (put w, none)
  | none =>
    match s.ways.findIdx? Option.isNone with
    | some w => (put w, none)
    | none =>
      let w := plruVictim lv 0 s.plru
      (put w, (s.ways[w]?).join)

/-- Change the value held under a tag. -/
def CSet.update {α : Type} (s : CSet α) (tag : Nat) (f : α → α) : CSet α :=
  { s with ways := s.ways.map fun w => w.map fun x => if x.tag = tag then { x with val := f x.val } else x }

/-- Drop every entry a test names. -/
def CSet.drop {α : Type} (s : CSet α) (p : Nat → α → Bool) : CSet α :=
  { s with ways := s.ways.map fun w => w.bind fun x => if p x.tag x.val then none else some x }

/-- The entries of a set. -/
def CSet.entries {α : Type} (s : CSet α) : List (Way α) := s.ways.filterMap id

/-! A cache: sets by index, an unlisted set empty; a set that has become empty may stay listed. -/

/-- A cache of sets of `n` ways. -/
def cacheFind {α : Type} (n : Nat) (t : Tbl (CSet α)) (set tag : Nat) : Option α :=
  (Tbl.get (CSet.empty n) t set).find? tag

def cacheTouch {α : Type} [DecidableEq α] (n : Nat) (t : Tbl (CSet α)) (set tag : Nat) : Tbl (CSet α) :=
  Tbl.modify (CSet.empty n) t set fun s => s.touch tag

def cacheFill {α : Type} [DecidableEq α] (n : Nat) (t : Tbl (CSet α)) (set tag : Nat) (v : α) :
    Tbl (CSet α) × Option (Way α) :=
  let r := (Tbl.get (CSet.empty n) t set).fill tag v
  (Tbl.set (CSet.empty n) t set r.1, r.2)

def cacheUpdate {α : Type} [DecidableEq α] (n : Nat) (t : Tbl (CSet α)) (set tag : Nat) (f : α → α) : Tbl (CSet α) :=
  Tbl.modify (CSet.empty n) t set fun s => s.update tag f

/-- Drop every entry a test on (set, tag, value) names. -/
def cacheDrop {α : Type} (t : Tbl (CSet α)) (p : Nat → Nat → α → Bool) : Tbl (CSet α) :=
  t.map fun e => (e.1, e.2.drop (p e.1))

/-- Every entry with its set. -/
def cacheEntries {α : Type} (t : Tbl (CSet α)) : List (Nat × Way α) :=
  t.flatMap fun e => e.2.entries.map fun w => (e.1, w)

end Sys2Proof.Machine
end

