-- ==== Sys2Proof/Machine/Memory.lean ====
section
/-! DEFINITION. The memory system behind every master: the line map, the symbol code, delivery of a line, the chip
cache slices and the writes (R241, R243, R268-R289, R298, R303, R305, R308-R310, R472). Lines are held in plaintext;
what the inline engine would find wrong with a line's ciphertext or tag is kept beside it (log entry 5). -/
namespace Sys2Proof.Machine

/-! ### Where a line lives (R269-R271, R298) -/

/-- Lines of memory (R40): line numbers are below this. -/
def memLines : Nat := 0xC0000000

/-- First group line number that is reserved (R270). -/
def reservedK : Nat := 12582912

/-- Group line numbers of one group, reserved lines included (R268). -/
def groupLines : Nat := 12591104

/-- The group index G of line L (R269). -/
def lineG (l : Nat) : Nat :=
  (l % 256) ^^^ (l / 256 % 256) ^^^ (l / 65536 % 256) ^^^ (l / 16777216 % 256)

/-- The stack that holds line L. -/
def lineStack (l : Nat) : Fin 16 := Fin.ofNat 16 (lineG l / 16)

/-- The group of line L within its stack. -/
def lineGroup (l : Nat) : Fin 16 := Fin.ofNat 16 (lineG l % 16)

/-- The group line number of line L. -/
def lineK (l : Nat) : Nat := l / 256

/-- The line number of group line K of a stack and group (R269). -/
def lineOf (s g : Fin 16) (k : Nat) : Nat :=
  256 * k + ((16 * s.val + g.val) ^^^ (k % 256) ^^^ (k / 256 % 256) ^^^ (k / 65536 % 256))

/-- The address value A of a group line: the line number, or the reserved line's own range (R298). -/
def addrValue (s g : Fin 16) (k : Nat) : Nat :=
  if k < reservedK then lineOf s g k else 2 ^ 40 + (16 * s.val + g.val) * 8192 + (k - reservedK)

/-- The die that serves a position of a group, and the channel of that die (R271). -/
def posDie (g : Fin 16) (p : Nat) : Nat := (g.val + p) % 16

/-- The DPA page of a line. -/
def linePage (l : Nat) : Nat := l / 8192

/-! ### The symbol code (R273-R275) -/

/-- Multiplication by α in GF(2^16) with the polynomial 0x1_100B. -/
def gfDouble (a : BitVec 16) : BitVec 16 := (a <<< 1) ^^^ (if a.getLsbD 15 then 0x100B#16 else 0#16)

/-- Multiplication by α^n. -/
def gfAlpha (a : BitVec 16) : Nat → BitVec 16
  | 0 => a
  | n + 1 => gfDouble (gfAlpha a n)

/-- The syndromes of an error pattern of one beat: they depend on the errors only (R274). -/
def syndromes (es : List SymErr) : BitVec 16 × BitVec 16 :=
  es.foldl (fun a e => (a.1 ^^^ e.sym, a.2 ^^^ gfAlpha e.sym (10 - e.pos.val))) (0, 0)

/-- What a beat decodes to: the position corrected, and the symbol errors that remain in what is delivered. -/
inductive Beat where
  | good (resid : List SymErr)
  | fixed (pos : Nat) (resid : List SymErr)
  | bad (cause : BitVec 4)
deriving DecidableEq, Repr

/-- Xor a symbol into an error pattern at a position, dropping an error that cancels. -/
def addErr (b : Fin 16) (p : Nat) (x : BitVec 16) (es : List SymErr) : List SymErr :=
  let at' := es.filter fun e => e.pos.val = p
  let y := at'.foldl (fun a e => a ^^^ e.sym) x
  let rest := es.filter fun e => e.pos.val ≠ p
  if y = 0 then rest else ⟨b, Fin.ofNat 11 p, y⟩ :: rest

/-- Decode one beat with every position live (R274) or one erased (R275). -/
def decodeBeat (b : Fin 16) (erased : Option Nat) (es : List SymErr) : Beat :=
  match erased with
  | none =>
    let (s0, s1) := syndromes es
    if s0 = 0 ∧ s1 = 0 then .good es
    else if s0 = 0 ∨ s1 = 0 then .bad 1
    else match (List.range 11).find? fun i => gfAlpha s0 i == s1 with
      | some i => .fixed (10 - i) (addErr b (10 - i) s0 es)
      | none => .bad 1
  | some f =>
    let live := es.filter fun e => e.pos.val ≠ f
    let (s0, s1) := syndromes live
    if s1 = gfAlpha s0 (10 - f) then .good (addErr b f s0 live) else .bad 2

/-- The errors of one beat of a burst. -/
def beatErrs (b : Fin 16) (es : List SymErr) : List SymErr := es.filter fun e => e.beat = b

/-- The sideband error mask of what remains at position 8 (R272). -/
def sidebandErr (es : List SymErr) : BitVec 256 :=
  (es.filter fun e => e.pos.val = 8).foldl
    (fun (a : BitVec 256) e => a ^^^ (e.sym.setWidth 256).shiftLeft (16 * e.beat.val)) 0

/-- A decoded burst: the first uncorrectable beat with its cause, the corrected beats with their positions, whether
data or tag bits are wrong in what is delivered, and the sideband bits that are. -/
structure Burst where
  bad : Option (Nat × BitVec 4)
  fixed : List (Nat × Nat)
  dataErr : Bool
  sb : BitVec 256
deriving DecidableEq, Repr

/-- How a group decodes line K now: every read is uncorrectable in LOST; a rebuilding group decodes lines at or above
its pointer with the position erased (R279, R281). -/
def Stack.erasedAt (st : Stack) (g : Fin 16) (k : Nat) : Option (Option Nat) :=
  match st.groups[g] with
  | .fullSpare => some none
  | .noSpare => some none
  | .degraded q => some (some q.toNat)
  | .lost => none
  | .remapped q =>
    match st.rebuild.find? fun r => r.1 = g.val with
    | some r => if k < r.2 then some none else some (some q.toNat)
    | none => some none

/-- Decode the sixteen beats of a burst. -/
def decodeBurst (mode : Option (Option Nat)) (es : List SymErr) : Burst :=
  match mode with
  | none => ⟨some (0, 1), [], false, 0⟩
  | some er =>
    let bs := (List.finRange 16).map fun b => (b.val, decodeBeat b er (beatErrs b es))
    let resid := bs.flatMap fun x => match x.2 with
      | .good r => r
      | .fixed _ r => r
      | .bad _ => []
    let sb := sidebandErr resid
    let bad := bs.findSome? fun x => match x.2 with
      | .bad c => some (x.1, c)
      | _ => none
    ⟨bad,
     bs.filterMap fun x => match x.2 with
       | .fixed p _ => some (x.1, p)
       | _ => none,
     (resid.any fun e => e.pos.val < 8) || (sb.setWidth 96 ≠ 0),
     sb⟩

/-- The first beat whose reserved sideband bits [255:101] are not all zero (R272, R276 step 2, R293 cause 3). -/
def Burst.reserved (r : Burst) : Option (Nat × BitVec 4) :=
  ((List.range 16).find? fun b => decide (b ≥ 6) && ((r.sb >>> 101 <<< 101).extractLsb' (16 * b) 16 != 0)).map fun b => (b, 3)

/-! ### Counters and logs of a stack (R276, R285, R293) -/

def satAdd32 (a : BitVec 32) : BitVec 32 := if a = BitVec.allOnes 32 then a else a + 1
def satAdd16 (a : BitVec 16) : BitVec 16 := if a = BitVec.allOnes 16 then a else a + 1

/-- Who reads: the SRC field of the error logs (R293). -/
inductive ReadSrc where
  | demand | patrol | service
deriving DecidableEq, Repr

def ReadSrc.code : ReadSrc → Word
  | .demand => 0
  | .patrol => 1
  | .service => 2

/-- An error log record (R293). -/
def errRecord (src : ReadSrc) (g : Fin 16) (pos : Nat) (beat k : Nat) : Word :=
  0x8000000000000000#64 ||| (src.code <<< 60) ||| (BitVec.ofNat 64 g.val <<< 56) ||| (BitVec.ofNat 64 (pos % 16) <<< 52)
    ||| (BitVec.ofNat 64 (beat % 16) <<< 48) ||| (BitVec.ofNat 64 (k % 16777216) <<< 24)

/-- The key of a row of a die's channel in the row tables. -/
def rowKey (die ch bank row : Nat) : Nat := ((die * 16 + ch) * 32 + bank) * 16384 + row

/-- Count a correction against its row, channel and die (R285). A position that lives on the spare is corrected on the
spare's die and channel 11. -/
def Stack.countRow (st : Stack) (g : Fin 16) (pos k : Nat) (tick : Word) : Stack :=
  let p := match st.groups[g] with
    | .remapped q => if q.toNat = pos then 11 else pos
    | _ => pos
  let die := posDie g p
  let key := rowKey die p (k / 32 % 32) (k / 1024)
  { st with
    rowErrs := Tbl.modify 0 st.rowErrs key (· + 1)
    burstSeen := (die, p, tick.toNat) :: st.burstSeen.filter fun x => !(x.1 == die && x.2.1 == p) }

/-- A corrected line (R276), with the positions corrected in it: each counts against its row, channel and die (R285),
and the log shows the first. -/
def Stack.logCe (st : Stack) (src : ReadSrc) (g : Fin 16) (fixed : List (Nat × Nat)) (k : Nat) (tick : Word) : Stack :=
  let st := (fixed.map Prod.snd).eraseDups.foldl (fun st pos => st.countRow g pos k tick) st
  let first := fixed.headD (0, 0)
  { st with ce := true, ceCount := satAdd32 st.ceCount, ceLog := errRecord src g first.2 first.1 k }

/-- An uncorrectable line: the log keeps the first (R276, R293). -/
def Stack.logUe (st : Stack) (src : ReadSrc) (g : Fin 16) (cause : BitVec 4) (beat k : Nat) : Stack :=
  { st with
    ue := true, ueCount := satAdd32 st.ueCount
    ueLog := if st.ueLog.getLsbD 63 then st.ueLog ||| 0x4000000000000000#64
      else errRecord src g cause.toNat beat k }

/-- An owner mismatch: the log keeps the first (R278, R293). -/
def Stack.logOwner (st : Stack) (write : Bool) (lineOwn reqOwn : BitVec 4) (l : Nat) : Stack :=
  { st with
    ownerF := true
    ownLog := if st.ownLog.getLsbD 63 then st.ownLog ||| 0x4000000000000000#64
      else 0x8000000000000000#64 ||| (if write then 0x2000000000000000#64 else 0#64) |||
        (lineOwn.setWidth 64 <<< 57) ||| (reqOwn.setWidth 64 <<< 53) ||| (BitVec.ofNat 64 (l % 2 ^ 40) <<< 8) }

/-! ### Die retirement (R280, R286) -/

/-- A group's state after die d is retired, with the rebuild it starts or stops (R280). -/
def retireGroup (d : Nat) (g : Fin 16) (m : GroupMode) : GroupMode × Option Bool :=
  let p := (d + 16 - g.val) % 16
  if p > 11 then (m, none)
  else match m with
    | .fullSpare => if p = 11 then (.noSpare, none) else (.remapped (BitVec.ofNat 4 p), some true)
    | .remapped q => if p = 11 then (.degraded q, some false) else (.degraded (BitVec.ofNat 4 p), some false)
    | .noSpare => if p = 11 then (.noSpare, none) else (.degraded (BitVec.ofNat 4 p), none)
    | .degraded _ => (.lost, none)
    | .lost => (.lost, none)

/-- A repair queue entry as `stack.rep.next` shows it (R293). -/
def repairEntry (kind die ch bank row spare : Nat) : Word :=
  0x8000000000000000#64 ||| (BitVec.ofNat 64 kind <<< 61) ||| (BitVec.ofNat 64 die <<< 57) |||
    (BitVec.ofNat 64 ch <<< 53) ||| (BitVec.ofNat 64 bank <<< 48) ||| (BitVec.ofNat 64 row <<< 34) |||
    (BitVec.ofNat 64 spare <<< 31)

/-- Retire die d: every group that holds it changes state, rebuilds start (unless the fill follows) or stop, and the
repair enters the queue (R280, R281, R283). -/
def Stack.retireDie (st : Stack) (d : Nat) (rebuild queue : Bool) : Stack :=
  if st.retired.getLsbD d then st else
  let ns := Vector.ofFn fun g : Fin 16 => retireGroup d g st.groups[g]
  let keep := st.rebuild.filter fun r => (ns[Fin.ofNat 16 r.1]).2 ≠ some false
  let fresh := ((List.finRange 16).filter fun g => (ns[g]).2 == some true && rebuild).map fun g => (g.val, 0)
  { st with
    groups := ns.map Prod.fst
    rebuild := keep ++ fresh
    retired := st.retired ||| (1#16 <<< d)
    repairQ := if queue then st.repairQ ++ [repairEntry 2 d 0 0 0 0] else st.repairQ }

/-- Channels of a die with corrections within 25,000 ticks of now (R286). -/
def Stack.burstChannels (st : Stack) (d : Nat) (tick : Word) : Nat :=
  (st.burstSeen.filter fun x => x.1 = d ∧ tick.toNat - x.2.2 < 25000).length

/-- The dies the conservator would retire now: named by RETIRE, for a burst, or for spared rows (R286). -/
def Stack.dieDue (st : Stack) (d : Nat) (tick : Word) : Bool :=
  !st.retired.getLsbD d &&
    (st.wantRetire.getLsbD d || decide (st.burstChannels d tick ≥ st.burst.toNat) ||
      decide (Tbl.get 0 st.dieSpared d ≥ st.dieRows.toNat))

/-- Retire every die that is due; while the repair queue is full it waits for room (R283, R286, R292). -/
def Stack.conserve (st : Stack) (tick : Word) : Stack :=
  (List.range 16).foldl (fun st d =>
    if st.dieDue d tick then
      if st.repairQ.length < 16 then st.retireDie d true true else { st with wantRetire := st.wantRetire ||| (1#16 <<< d) }
    else st) st

/-! ### Lines in DRAM -/

/-- The sideband of a line. -/
def Mem.side1 (m : Mem) (a : Nat) : LineMeta := Tbl.get LineMeta.fresh m.side a

def Mem.setMeta (m : Mem) (a : Nat) (x : LineMeta) : Mem := { m with side := Tbl.set LineMeta.fresh m.side a x }

/-- Change one stack controller. -/
def Mem.modStk (m : Mem) (s : Fin 16) (f : Stack → Stack) : Mem := { m with stk := m.stk.set s (f m.stk[s]) }

/-- The stack that holds the line of an address value, reserved lines included (R269, R298). -/
def stackOfA (a : Nat) : Fin 16 := if a < 2 ^ 40 then lineStack a else Fin.ofNat 16 ((a - 2 ^ 40) / 131072)

/-- The sideband as the engine finds it: a line that is not written since the fill stands under the key of its stack's
latest fill and its own address value (R287, R299). -/
def Mem.sideKey (m : Mem) (a : Nat) : LineMeta :=
  let x := m.side1 a
  if x.written then x else { x with keyGen := (m.stk[stackOfA a]).fillGen, a := a }

/-- The plaintext of a line in DRAM. -/
def Mem.dramLine (m : Mem) (l : Nat) : Line := Vector.ofFn fun i => Tbl.get 0 m.dram (256 * l + i.val)

/-- Write a line's plaintext. -/
def putLine (d : Tbl Byte) (l : Nat) (x : Line) : Tbl Byte :=
  (List.finRange 256).foldl (fun d i => Tbl.set 0 d (256 * l + i.val) x[i]) d

def zeroLine : Line := Vector.replicate 256 0

/-- The tag and the ciphertext agree under the present key and the line's own address value (R300, R303). -/
def Mem.tagOk (m : Mem) (a : Nat) : Bool :=
  let x := m.sideKey a
  x.intact && decide (x.keyGen = m.keyGen) && decide (x.a = a)

/-- Encrypt, tag and write a line (R301, R308): DRAM holds it under the present key. -/
def Mem.store (m : Mem) (l : Nat) (owner : BitVec 4) (poison : Bool) (x : Line) : Mem :=
  { m.setMeta l { written := true, owner := owner, poison := poison, keyGen := m.keyGen, a := l, intact := true } with
    dram := putLine m.dram l x }

/-- Master codes of R310. -/
def masterCode : Master → Word
  | .engine => 0 | .dma => 1 | .walker => 2 | .fabric => 3 | .transit => 4 | .vault => 5 | .curator => 6
  | .debug => 7 | .service => 8 | .catalogue => 9

/-- The halt record of a tag failure (R316). -/
def haltRecord (s : Fin 16) (master : Master) (merge : Bool) (a : Nat) : Word :=
  0x8000000000000000#64 ||| (BitVec.ofNat 64 s.val <<< 59) ||| (masterCode master <<< 55) |||
    (if merge then 0x0040000000000000#64 else 0#64) ||| BitVec.ofNat 64 a

/-- A failure in a stack of a lower number that may fall in the cycle of the one recorded: the halt has not reached the
controllers, and the tick is the same (R315). -/
def Mem.sameCycle (m : Mem) (s : Fin 16) (tick : Word) : Bool :=
  m.haltStage == 1 && m.haltCause == 1 && m.haltTick == tick && decide (s.val < (m.haltRec >>> 59).toNat % 16)

/-- Start of a device halt for a tag failure (R305, R306, R315): the first failure is recorded, and a halt already
running keeps its record. Of two failures in one cycle the record names the lower stack; whether a later failure of the
same tick fell in that cycle is a free value (log entry 3). -/
def Mem.tagHalt (m : Mem) (s : Fin 16) (master : Master) (merge : Bool) (a : Nat) (tick : Word) : Mem :=
  if m.haltStage = 0 then
    { m with haltStage := 1, haltCause := 1, haltTick := tick, haltRec := haltRecord s master merge a }
  else if m.sameCycle s tick then
    { m with
      draws := m.draws + 1
      haltRec := if (Config.free32 (2 * m.draws)).getLsbD 0 then haltRecord s master merge a else m.haltRec }
  else m

/-- The result of steps 1 and 2 of R276. -/
structure Decoded where
  uncorr : Bool
  poison : Bool
  owner : BitVec 4
  tagOk : Bool
  /-- Some beat was corrected, and what a line written back with these symbols carries beside its data (R285). -/
  fixed : Bool
  seen : LineMeta
deriving DecidableEq, Repr

/-- Steps 1 and 2 of R276 on a group line: one retry where a beat is uncorrectable, then the counters and logs. Answers
what the sideband reads as; the poison rewrite of an uncorrectable line is the caller's. Where the second read of a
retried line needs no correction, the position that the log shows is a free value (log entry 3). -/
def Mem.decodeLine (m : Mem) (src : ReadSrc) (s g : Fin 16) (k : Nat) (e : BurstErr) (tick : Word) :
    Mem × Decoded :=
  let a := addrValue s g k
  let x := m.side1 a
  let mode := (m.stk[s]).erasedAt g k
  let r1 := decodeBurst mode e.first
  let r := if r1.bad.isSome then decodeBurst mode e.second else r1
  match r.bad.orElse fun _ => r.reserved with
  | some (beat, cause) => (m.modStk s fun st => st.logUe src g cause beat k, ⟨true, false, x.owner, false, false, x⟩)
  | none =>
    let fix : List (Nat × Nat) := match r.fixed, r1.bad with
      | [], some b => [(b.1, (Config.free32 (2 * m.draws)).toNat % 11)]
      | l, _ => l
    let m := if fix.isEmpty then m
      else { m.modStk s fun st => (st.logCe src g fix k tick).conserve tick with draws := m.draws + 1 }
    (m, { uncorr := false, poison := x.poison != r.sb.getLsbD 96, owner := x.owner ^^^ (r.sb.extractLsb' 97 4),
          tagOk := m.tagOk a && !r.dataErr && (r.sb.extractLsb' 97 4 == 0), fixed := !r.fixed.isEmpty
          seen := { x with
            poison := x.poison != r.sb.getLsbD 96, owner := x.owner ^^^ (r.sb.extractLsb' 97 4)
            intact := x.intact && !r.dataErr && (r.sb.extractLsb' 97 4 == 0) } })

/-- The poison rewrite of R276 step 2: the data symbols as read. The written map is not touched (R288). -/
def Mem.poisonLine (m : Mem) (a : Nat) (e : BurstErr) : Mem :=
  let x := m.side1 a
  m.setMeta a { x with poison := true, intact := x.intact && e.second.isEmpty }

/-! ### Chip cache slices (R243) -/

/-- The set of a line in its slice: the model takes the low bits of K (DESIGN CHOICE, log entry 12). -/
def sliceSet (l : Nat) : Nat := (lineStack l).val * 2048 + lineK l % 2048

/-- The line as its slice holds it. -/
def Mem.sliceFind (m : Mem) (l : Nat) : Option SliceLine := cacheFind 16 m.slice (sliceSet l) l

/-- Write an evicted dirty line back whole (R243, R277). -/
def Mem.writeBack (m : Mem) (w : Option (Way SliceLine)) : Mem :=
  match w with
  | some x => if x.val.dirty then m.store x.tag x.val.owner x.val.poison x.val.data else m
  | none => m

/-- Install a line in its slice, evicting where the set is full. -/
def Mem.sliceFill (m : Mem) (l : Nat) (x : SliceLine) : Mem :=
  let r := cacheFill 16 m.slice (sliceSet l) l x
  Mem.writeBack { m with slice := r.1 } r.2

/-- Evict a line from its slice. -/
def Mem.sliceEvict (m : Mem) (l : Nat) : Mem :=
  match m.sliceFind l with
  | some x =>
    Mem.writeBack { m with slice := cacheDrop m.slice fun _ t _ => t == l } (some ⟨l, x⟩)
  | none => m

/-! ### Reads -/

/-- What a read answers: a line, poisoned or good, or nothing where the tag failed or the halt has arrived. -/
inductive LineRes where
  | data (d : Line) (poison : Bool)
  | withheld
deriving DecidableEq, Repr

def LineRes.line : LineRes → Line
  | .data d _ => d
  | .withheld => zeroLine

/-- The line is unusable: poisoned or withheld. -/
def LineRes.bad : LineRes → Bool
  | .data _ p => p
  | .withheld => true

/-- An owner class passes the check of R278; masters without a class are not checked (R313). -/
def ownerOk (line : BitVec 4) (req : Option (BitVec 4)) : Bool :=
  match req with
  | some r => r == line
  | none => true

/-- Read a line from DRAM through R276 and deliver it into its slice where it is good. Without a boot key no line can be
decrypted or checked, and none is delivered (R296). -/
def Mem.dramRead (m : Mem) (mst : Master) (l : Nat) (req : Option (BitVec 4)) (e : BurstErr) (tick : Word) :
    Mem × LineRes :=
  let s := lineStack l
  if !m.keyValid then (m, .withheld) else
  let (m, d) := m.decodeLine .demand s (lineGroup l) (lineK l) e tick
  if d.uncorr then (m.poisonLine l e, .data zeroLine true)
  else if d.poison then (m, .data zeroLine true)
  else if !ownerOk d.owner req then
    (m.modStk s fun st => st.logOwner false d.owner (req.getD 0) l, .data zeroLine true)
  else if !d.tagOk then (m.tagHalt s mst false l tick, .withheld)
  else
    let x := m.dramLine l
    (m.sliceFill l ⟨x, d.owner, false, false⟩, .data x false)

/-- Merge bytes into a line. -/
def mergeBytes (x : Line) (bs : List (Nat × Byte)) : Line :=
  bs.foldl (fun x b => if h : b.1 < 256 then x.set b.1 b.2 else x) x

/-- A page with a measured count refuses every write (R472). -/
def Mem.measuredPage (m : Mem) (l : Nat) : Bool := decide (Tbl.get 0 m.measured (linePage l) > 0)

/-- The table of R309 for one partial write behind a read that answered `d`. -/
def Mem.partialMerge (m : Mem) (p : Partial) (d : Decoded) (tick : Word) : Mem :=
  let l := p.line.toNat
  let s := lineStack l
  if d.uncorr then m.sliceFill l ⟨mergeBytes zeroLine p.bytes, p.owner, true, true⟩
  else if d.owner ≠ p.owner then m.modStk s fun st => st.logOwner true d.owner p.owner l
  else if d.poison then m.sliceFill l ⟨mergeBytes zeroLine p.bytes, d.owner, true, true⟩
  else if !d.tagOk then m.tagHalt s p.m true l tick
  else m.sliceFill l ⟨mergeBytes (m.dramLine l) p.bytes, d.owner, false, true⟩

/-- The read for the partial writes to an absent line: a line that is not written is written with zeros under the first
writer's class (R288, R309). -/
def Mem.partialRead (m : Mem) (p : Partial) (e : BurstErr) (tick : Word) : Mem × Decoded :=
  let l := p.line.toNat
  if !(m.side1 l).written then
    (m.store l p.owner false zeroLine, ⟨false, false, p.owner, true, false, LineMeta.fresh⟩)
  else
    let (m, d) := m.decodeLine .demand (lineStack l) (lineGroup l) (lineK l) e tick
    (if d.uncorr then m.poisonLine l e else m, d)

/-- No burst errors. -/
def noErr : BurstErr := ⟨[], []⟩

/-- Take the halt's reach into account: from the propagation on, no controller delivers or accepts a line (R306). -/
def Mem.stopped (m : Mem) : Bool := decide (m.haltStage ≥ 2)

/-- Bytes written to a line that its slice holds (R241, R277, R278), where it holds it. -/
def Mem.sliceMerge (m : Mem) (l : Nat) (x : SliceLine) (bs : List (Nat × Byte)) (owner : BitVec 4) : Mem :=
  if x.owner ≠ owner then m.modStk (lineStack l) fun st => st.logOwner true x.owner owner l
  else
    let t := cacheUpdate 16 m.slice (sliceSet l) l fun x => { x with data := mergeBytes x.data bs, dirty := true }
    { m with slice := cacheTouch 16 t (sliceSet l) l }

/-- The pending partial writes of one line are merged in slice order; for an absent line there is one read (R315). -/
def Mem.settle (m : Mem) (l : Nat) (e : BurstErr) (tick : Word) : Mem :=
  let mine := m.parts.filter fun p => p.line.toNat = l
  let m := { m with parts := m.parts.filter fun p => p.line.toNat ≠ l }
  match mine with
  | [] => m
  | p :: _ =>
    let r : Mem × Decoded := if (m.sliceFind l).isSome then (m, ⟨false, false, p.owner, true, false, LineMeta.fresh⟩)
      else m.partialRead p e tick
    mine.foldl (fun m p =>
      match m.sliceFind l with
      | some x => m.sliceMerge l x p.bytes p.owner
      | none => m.partialMerge p r.2 tick) r.1

/-- The page lies in the vault region (R427, R428). -/
def Mem.vaultPage (m : Mem) (page : Nat) : Bool :=
  m.vaultEn && decide (page ≥ 393216 - m.vaultPages.toNat) && decide (page < 393216)

/-- A curator window covers a page with the right asked for; a window beyond memory covers only memory (R311, R316). -/
def winCovers (w : Word) (write : Bool) (page : Nat) : Bool :=
  w.getLsbD 0 && w.getLsbD (if write then 2 else 1) && decide ((w >>> 21).toNat % 2 ^ 27 ≤ page) &&
    decide (page < (w >>> 21).toNat % 2 ^ 27 + (w >>> 52).toNat) && decide (page < 393216)

/-- Some enabled window covers the page. -/
def Mem.window (m : Mem) (write : Bool) (page : Nat) : Bool := m.curwin.toList.any fun w => winCovers w write page

/-- A master reaches a line: it is a memory line; a vault line only for the vault engine and the service masters; for the
curator one within its windows; the other masters' rights were checked on the way (R41, R311, R428). -/
def Mem.reaches (m : Mem) (mst : Master) (write : Bool) (l : Nat) : Bool :=
  decide (l < memLines) && (!m.vaultPage (linePage l) || mst == .vault || mst == .service) &&
    (mst != .curator || m.window write (linePage l))

/-- An access that is not performed sets DPA_HOLE. -/
def Mem.holed (m : Mem) : Mem := { m with dpaHole := true }

/-- Read a whole line as a master with an owner class, or unchecked: the path of every demand (R276, R278, R288). -/
def Mem.readLine (m : Mem) (mst : Master) (l : Nat) (req : Option (BitVec 4)) (tick : Word) : Mem × LineRes :=
  if m.stopped then (m, .withheld)
  else if !m.reaches mst false l then (m.holed, .data zeroLine false) else
  let m := m.settle l noErr tick
  match m.sliceFind l with
  | some x =>
    if !ownerOk x.owner req then
      (m.modStk (lineStack l) fun st => st.logOwner false x.owner (req.getD 0) l, .data zeroLine true)
    else ({ m with slice := cacheTouch 16 m.slice (sliceSet l) l },
          if x.poison then .data zeroLine true else .data x.data false)
  | none => if (m.side1 l).written then m.dramRead mst l req noErr tick else (m, .data zeroLine false)

/-! ### Writes (R308, R309, R472) -/

/-- A refused write to a measured page (R472). -/
def Mem.refuseMeasured (m : Mem) (l : Nat) (owner : BitVec 4) : Mem :=
  m.modStk (lineStack l) fun st => st.logOwner true (m.side1 l).owner owner l

/-- A partial write reaches its slice: it merges into a cached line, or waits for the read of an absent one (R309). -/
def Mem.partialWrite (m : Mem) (mst : Master) (l : Nat) (owner : BitVec 4) (bs : List (Nat × Byte)) : Mem :=
  if m.stopped then m
  else if !m.reaches mst true l then m.holed
  else if m.measuredPage l then m.refuseMeasured l owner
  else match m.sliceFind l with
    | some x => m.sliceMerge l x bs owner
    | none => { m with parts := m.parts ++ [⟨BitVec.ofNat 40 l, bs, owner, mst⟩] }

/-- A full-line write: into a cached line, or to DRAM behind the owner check of R308. -/
def Mem.fullWrite (m : Mem) (mst : Master) (l : Nat) (owner : BitVec 4) (d : Line) (e : BurstErr) (tick : Word) : Mem :=
  if m.stopped then m
  else if !m.reaches mst true l then m.holed
  else if m.measuredPage l then m.refuseMeasured l owner
  else
    let m := m.settle l noErr tick
    let s := lineStack l
    match m.sliceFind l with
    | some x =>
      if x.owner ≠ owner then m.modStk s fun st => st.logOwner true x.owner owner l
      else { m with
        slice := cacheTouch 16 (cacheUpdate 16 m.slice (sliceSet l) l fun _ => ⟨d, owner, false, true⟩) (sliceSet l) l }
    | none =>
      if !(m.side1 l).written then m.store l owner false d
      else
        let (m, r) := m.decodeLine .demand s (lineGroup l) (lineK l) e tick
        if r.uncorr then m.store l owner false d
        else if r.owner ≠ owner then m.modStk s fun st => st.logOwner true r.owner owner l
        else m.store l owner false d

/-- A partial write whose read is made at once: the path of masters that have no command of their own for the
read's return (log entry 13). -/
def Mem.writeNow (m : Mem) (mst : Master) (l : Nat) (owner : BitVec 4) (bs : List (Nat × Byte)) (tick : Word) : Mem :=
  (m.partialWrite mst l owner bs).settle l noErr tick

/-! ### Bytes by DPA -/

/-- Bytes that fall in one line, cut from a run at `dpa`: line number and the bytes with their offsets. -/
def lineRuns : (fuel : Nat) → (dpa : Nat) → List Byte → List (Nat × List (Nat × Byte))
  | 0, _, _ => []
  | _, _, [] => []
  | f + 1, dpa, bs =>
    let off := dpa % 256
    let n := 256 - off
    let here := bs.take n
    (dpa / 256, (here.zipIdx off).map fun b => (b.2, b.1)) :: lineRuns f (dpa + n) (bs.drop n)

/-- The lines of a run of bytes. -/
def runsOf (dpa : Nat) (bs : List Byte) : List (Nat × List (Nat × Byte)) := lineRuns (bs.length / 256 + 2) dpa bs

/-- Write bytes at a DPA: whole lines as full-line writes, the rest as partial writes. -/
def Mem.writeBytes (m : Mem) (mst : Master) (owner : BitVec 4) (dpa : Nat) (bs : List Byte) (tick : Word) : Mem :=
  (runsOf dpa bs).foldl (fun m r =>
    if r.2.length = 256 then m.fullWrite mst r.1 owner (mergeBytes zeroLine r.2) noErr tick
    else m.writeNow mst r.1 owner r.2 tick) m

/-- Bytes read at a DPA, and whether any line of them was poisoned or withheld. -/
def Mem.readBytes (m : Mem) (mst : Master) (req : Option (BitVec 4)) (dpa len : Nat) (tick : Word) :
    Mem × List Byte × Bool :=
  (runsOf dpa (List.replicate len 0)).foldl (fun a r =>
    let x := a.1.readLine mst r.1 req tick
    (x.1, a.2.1 ++ r.2.map (fun o => x.2.line.getD o.1 0), a.2.2 || x.2.bad)) (m, [], false)

/-- Little-endian number of a byte list (R13). -/
def leNat : List Byte → Nat
  | [] => 0
  | b :: t => b.toNat + 256 * leNat t

/-- The little-endian bytes of a number. -/
def leBytes : (n : Nat) → Nat → List Byte
  | 0, _ => []
  | n + 1, v => BitVec.ofNat 8 v :: leBytes n (v / 256)

/-- Big-endian bytes, as wire headers and the hash inputs of R300 have them. -/
def beBytes (n v : Nat) : List Byte := (leBytes n v).reverse

/-- Words of a byte list (R13). -/
def leWords : (n : Nat) → List Byte → List Word
  | 0, _ => []
  | n + 1, bs => BitVec.ofNat 64 (leNat (bs.take 8)) :: leWords n (bs.drop 8)

/-- Bytes of words. -/
def wordBytes (ws : List Word) : List Byte := ws.flatMap fun w => leBytes 8 w.toNat

/-! ### Written map (R288, R289) -/

/-- Clear the bits that stack s holds for a page, and discard its lines from slice s (R289). Partial writes that wait
at the slice are performed after the clear (R315). -/
def Mem.mapClear (m : Mem) (s : Fin 16) (page : Nat) : Mem :=
  let mine (l : Nat) : Bool := linePage l == page && lineStack l == s
  { m with
    side := m.side.filter fun e => ¬(e.1 < memLines ∧ mine e.1)
    dram := m.dram.filter fun e => ¬(mine (e.1 / 256))
    slice := cacheDrop m.slice fun _ t _ => mine t }

/-- Fill every line of stack s (R287): zero plaintext of class 0, poison 0, under the present key, the written map
clear. -/
def Mem.fillStack (m : Mem) (s : Fin 16) : Mem :=
  { m.modStk s fun st => { st with fillGen := m.keyGen } with
    side := m.side.filter fun e => ¬(if e.1 < memLines then lineStack e.1 == s
      else (e.1 - 2 ^ 40) / 8192 / 16 == s.val)
    dram := m.dram.filter fun e => lineStack (e.1 / 256) ≠ s
    slice := cacheDrop m.slice fun _ t _ => lineStack t == s }

/-- The bytes of reserved line `a` (an address value of R298): the first 98,304 reserved lines of a stack hold its written
map, one bit for each line, bit 12,582,912 × g + K for group g; the rest hold zeros (R270, R288, log entry 22). -/
def Mem.mapText (m : Mem) (a : Nat) : Line :=
  let n := (a - 2 ^ 40) % 131072
  let at' (b : Nat) : Bool :=
    (m.side1 (lineOf (stackOfA a) (Fin.ofNat 16 (b / reservedK)) (b % reservedK))).written
  if n < 98304 then
    Vector.ofFn fun i => BitVec.ofNat 8 (((List.range 8).map fun j => (at' (2048 * n + 8 * i.val + j)).toNat * 2 ^ j).sum)
  else zeroLine

/-- The plaintext of the line of an address value: a memory line's bytes, or a reserved line's. -/
def Mem.lineText (m : Mem) (a : Nat) : Line := if a < 2 ^ 40 then m.dramLine a else m.mapText a

/-- Memory is canonical: no zero byte and no fresh sideband is listed, keys rise. -/
def Mem.wf (m : Mem) : Bool := Tbl.wf 0 m.dram && Tbl.wf LineMeta.fresh m.side

end Sys2Proof.Machine
end

