-- ==== Sys2Proof/Machine/Hash.lean ====
section
/-! DEFINITION. The hash functions the rules name: SHA-256 (FIPS 180-4), HMAC and HKDF over it (RFC 2104, RFC 5869) and
MGF1 (R12, R468, R470, R482). The spec names the standards; their contents are theirs (PRESUMED, log entry 49). -/
namespace Sys2Proof.Machine

/-- The 64 round constants, constant i in bits [32i + 31:32i]. -/
def shaK : Nat := 0xc67178f2bef9a3f7a4506ceb90befffa8cc7020884c8781478a5636f748f82ee682e6ff35b9cca4f4ed8aa4a391c0cb334b0bcb52748774c1e376c0819a4c116106aa070f40e3585d6990624d192e819c76c51a3c24b8b70a81a664ba2bfe8a192722c8581c2c92e766a0abb650a735453380d134d2c6dfc2e1b213827b70a851429296706ca6351d5a79147c6e00bf3bf597fc7b00327c8a831c66d983e515276f988da5cb0a9dc4a7484aa2de92c6f240ca1cc0fc19dc6efbe4786e49b69c1c19bf1749bdc06a780deb1fe72be5d74550c7dc3243185be12835b01d807aa98ab1c5ed5923f82a459f111f13956c25be9b5dba5b5c0fbcf71374491428a2f98

/-- Rotate a 32-bit word right. -/
def rotr (x n : Nat) : Nat := (x >>> n) ||| (x * 2 ^ (32 - n) % 2 ^ 32)

/-- The eight working words. -/
structure Sha where
  a : Nat
  b : Nat
  c : Nat
  d : Nat
  e : Nat
  f : Nat
  g : Nat
  h : Nat
deriving DecidableEq, Repr

def shaInit : Sha :=
  { a := 0x6a09e667, b := 0xbb67ae85, c := 0x3c6ef372, d := 0xa54ff53a, e := 0x510e527f, f := 0x9b05688c,
    g := 0x1f83d9ab, h := 0x5be0cd19 }

/-- One round with message word w and constant k. -/
def Sha.round (x : Sha) (w k : Nat) : Sha :=
  let s1 := rotr x.e 6 ^^^ rotr x.e 11 ^^^ rotr x.e 25
  let ch := (x.e &&& x.f) ^^^ ((2 ^ 32 - 1 - x.e) &&& x.g)
  let t1 := x.h + s1 + ch + k + w
  let s0 := rotr x.a 2 ^^^ rotr x.a 13 ^^^ rotr x.a 22
  let maj := (x.a &&& x.b) ^^^ (x.a &&& x.c) ^^^ (x.b &&& x.c)
  { a := (t1 + s0 + maj) % 2 ^ 32, b := x.a, c := x.b, d := x.c, e := (x.d + t1) % 2 ^ 32, f := x.e, g := x.f, h := x.g }

/-- The word the message schedule adds after sixteen words, oldest first. -/
def shaNext (ws : List Nat) : Nat :=
  let x := ws.getD 1 0
  let y := ws.getD 14 0
  (ws.getD 0 0 + (rotr x 7 ^^^ rotr x 18 ^^^ (x >>> 3)) + ws.getD 9 0 + (rotr y 17 ^^^ rotr y 19 ^^^ (y >>> 10))) % 2 ^ 32

/-- n rounds from round i on; `ws` holds the next sixteen message words. -/
def shaRounds : (n i : Nat) → List Nat → Sha → Sha
  | 0, _, _, x => x
  | n + 1, i, ws, x => shaRounds n (i + 1) (ws.tail ++ [shaNext ws]) (x.round (ws.headD 0) ((shaK >>> (32 * i)) % 2 ^ 32))

/-- Compress one block of sixteen words. -/
def Sha.block (x : Sha) (ws : List Nat) : Sha :=
  let y := shaRounds 64 0 ws x
  { a := (x.a + y.a) % 2 ^ 32, b := (x.b + y.b) % 2 ^ 32, c := (x.c + y.c) % 2 ^ 32, d := (x.d + y.d) % 2 ^ 32,
    e := (x.e + y.e) % 2 ^ 32, f := (x.f + y.f) % 2 ^ 32, g := (x.g + y.g) % 2 ^ 32, h := (x.h + y.h) % 2 ^ 32 }

/-- Words of four bytes, first byte most significant. -/
def beWords : (n : Nat) → List Byte → List Nat
  | 0, _ => []
  | n + 1, bs => ((bs.take 4).foldl (fun n b => n * 256 + b.toNat) 0) :: beWords n (bs.drop 4)

/-- The blocks of a padded message. -/
def shaBlocks : (n : Nat) → List Nat → Sha → Sha
  | 0, _, x => x
  | n + 1, ws, x => shaBlocks n (ws.drop 16) (x.block (ws.take 16))

/-- SHA-256 of a byte string; byte 0 of the digest is the most significant. -/
def sha256 (bs : List Byte) : BitVec 256 :=
  let n := (bs.length + 72) / 64
  let padded := bs ++ [0x80#8] ++ List.replicate (64 * n - bs.length - 9) 0 ++ beBytes 8 (8 * bs.length)
  let x := shaBlocks n (beWords (16 * n) padded) shaInit
  BitVec.ofNat 256 ([x.a, x.b, x.c, x.d, x.e, x.f, x.g, x.h].foldl (fun n w => n * 2 ^ 32 + w) 0)

/-- The 32 bytes of a digest. -/
def shaBytes (bs : List Byte) : List Byte := beBytes 32 (sha256 bs).toNat

/-- HMAC-SHA256. -/
def hmac (key msg : List Byte) : List Byte :=
  let k := ((if key.length > 64 then shaBytes key else key) ++ List.replicate 64 0).take 64
  shaBytes (k.map (· ^^^ 0x5C#8) ++ shaBytes (k.map (· ^^^ 0x36#8) ++ msg))

/-- The blocks T(i), T(i + 1), … of HKDF's expansion after block `t`. -/
def hkdfGo (prk info : List Byte) : (n i : Nat) → (t : List Byte) → List (List Byte)
  | 0, _, _ => []
  | n + 1, i, t =>
    let t := hmac prk (t ++ info ++ [BitVec.ofNat 8 i])
    t :: hkdfGo prk info n (i + 1) t

/-- HKDF-SHA256: the first n blocks of 32 bytes. -/
def hkdf (secret salt info : List Byte) (n : Nat) : List (List Byte) := hkdfGo (hmac salt secret) info n 1 []

/-- MGF1 with SHA-256. -/
def mgf1 (seed : List Byte) (n : Nat) : List Byte :=
  ((List.range ((n + 31) / 32)).flatMap fun i => shaBytes (seed ++ beBytes 4 i)).take n

end Sys2Proof.Machine
end

