-- ==== Sys2Proof/Machine/Ops.lean ====
section
/-! DEFINITION. Outcomes, updates of one part of the state, free values, catalogue entries, translation and rights
(R261-R265, R312, R335-R338, R428, R486). -/
namespace Sys2Proof.Machine

/-- The outcome of a command. -/
abbrev Out := Host.Outcome State Fault Refusal

/-- The step `t` where the event's conditions hold; no step where they do not. -/
def guard (c : Bool) (why : String) (t : State) : Out := if c then .next t else .refused (.notEnabled why)

/-! ### Updates of one part -/

def State.modCore (s : State) (c : Fin 96) (f : Core → Core) : State := { s with cores := s.cores.set c (f s.cores[c]) }
def Core.modStream (k : Core) (t : Fin 4) (f : Stream → Stream) : Core :=
  { k with streams := k.streams.set t (f k.streams[t]) }
def State.modStream (s : State) (c : Fin 96) (t : Fin 4) (f : Stream → Stream) : State :=
  s.modCore c fun k => k.modStream t f
def State.modMem (s : State) (f : Mem → Mem) : State := { s with mem := f s.mem }
def State.modHost (s : State) (f : HostObj → HostObj) : State := { s with host := f s.host }
def State.modFab (s : State) (f : Fabric → Fabric) : State := { s with fab := f s.fab }
def State.modTr (s : State) (f : Transit → Transit) : State := { s with tr := f s.tr }
def State.modVault (s : State) (f : Vault → Vault) : State := { s with vault := f s.vault }
def State.modReg (s : State) (f : Registrar → Registrar) : State := { s with reg := f s.reg }
def State.modCur (s : State) (f : Curator → Curator) : State := { s with cur := f s.cur }
def State.modAlm (s : State) (f : Almanac → Almanac) : State := { s with alm := f s.alm }
def State.modSup (s : State) (f : Supply → Supply) : State := { s with sup := f s.sup }
def State.modGlob (s : State) (f : Glob → Glob) : State := { s with glob := f s.glob }
def State.core (s : State) (c : Fin 96) : Core := s.cores[c]
def State.stream (s : State) (c : Fin 96) (t : Fin 4) : Stream := (s.cores[c]).streams[t]
def State.tick (s : State) : Word := s.glob.tick

/-- Something leaves the module. -/
def State.emit (s : State) (e : WireEvent) : State := { s with wire := s.wire ++ [e] }

/-- The flag of an access that reached no register (R41). -/
def State.hole (s : State) : State := s.modGlob fun g => { g with dpaHole := true }

/-- The next free 32-bit value, and the state that has drawn it (log entry 3). -/
def State.draw32 (s : State) : W32 × State :=
  (Config.free32 (2 * s.glob.free + 1), s.modGlob fun g => { g with free := g.free + 1 })

/-- The next free 64-bit value. -/
def State.draw64 (s : State) : Word × State :=
  (Config.free64 s.glob.free, s.modGlob fun g => { g with free := g.free + 1 })

/-- The module has power (R30, R526) and no halt has reached its blocks (R306). -/
def State.live (s : State) : Bool := s.sup.power == .running && decide (s.mem.haltStage < 2)

/-! ### Small arithmetic -/

/-- Sign extension of a 32-bit immediate. -/
def sext64 (x : BitVec 32) : Word := x.signExtend 64

/-- A 48-bit address from a 64-bit register. -/
def addr48 (x : Word) : Addr := x.setWidth 48

/-- Field `len` bits from `lo` as a number. -/
def nfld (w : Word) (lo len : Nat) : Nat := (w >>> lo).toNat % 2 ^ len

/-- Write a field of a word. -/
def putFld (w : Word) (lo len : Nat) (v : Nat) : Word :=
  let mask : Word := BitVec.ofNat 64 ((2 ^ len - 1) * 2 ^ lo)
  (w &&& ~~~mask) ||| BitVec.ofNat 64 (v % 2 ^ len * 2 ^ lo)

/-- One bit as a word at a position. -/
def flag (b : Bool) (lo : Nat) : Word := if b then BitVec.ofNat 64 (2 ^ lo) else 0

/-- A number as a word at a position. -/
def at' (v lo : Nat) : Word := BitVec.ofNat 64 (v * 2 ^ lo)

/-! ### Scalar registers (R170, R183, R207) -/

/-- A register read; s0 is zero. -/
def Stream.reg (t : Stream) (r : BitVec 5) : Word := if r = 0#5 then 0 else t.regs[r.toFin]

/-- A register write; s0 discards it. -/
def Stream.setReg (t : Stream) (r : BitVec 5) (v : Word) : Stream :=
  if r = 0#5 then t else { t with regs := t.regs.set r.toFin v }

/-! ### Catalogue entries (R335-R340)

Entries are word lists: 32 words of a context, 16 of a queue, 4 of a fence. -/

/-- Word k of an entry. -/
def ew (e : List Word) (k : Nat) : Word := e.getD k 0

/-- Put word k of an entry. -/
def setEw (e : List Word) (k : Nat) (v : Word) : List Word := e.set k v

/-- DPA of an entry in its table, where the entry size is `sz` words. -/
def entryDpa (base : Word) (sz i : Nat) : Nat := nfld base 21 27 * 0x200000 + 8 * sz * i

/-- Read an entry from its table as the catalogue unit (R335, R310). A poisoned line reads as zeros (log entry 20). -/
def State.readEntry (s : State) (base : Word) (sz i : Nat) : State × List Word :=
  let r := s.mem.readBytes .catalogue (some 0) (entryDpa base sz i) (8 * sz) s.tick
  ({ s with mem := r.1 }, leWords sz r.2.1)

/-- Write part of an entry back, as master 9 with byte-enabled writes (R336). -/
def State.writeEntryAt (s : State) (base : Word) (sz i off : Nat) (bs : List Byte) : State :=
  s.modMem fun m => m.writeBytes .catalogue 0 (entryDpa base sz i + off) bs s.tick

/-- A stream of the context is outside IDLE on some core (R338). -/
def State.ctxBusy (s : State) (c : BitVec 9) : Bool :=
  s.cores.toList.any fun k => (k.ctx == some c) && k.streams.toList.any fun t => t.mode != .idle

/-- The RO words of a context entry written back: w6-w9, and the CRB words while the device owns them (R336, R338). -/
def State.ctxWriteBack (s : State) (i : Nat) (e : List Word) (crb : Bool) : State :=
  let s := s.writeEntryAt s.host.ctxbase 32 i 48 (wordBytes ((e.drop 6).take 4))
  if crb then s.writeEntryAt s.host.ctxbase 32 i 128 (wordBytes (e.drop 16)) else s

/-- The RO fields of a queue entry written back: w2, and ERRCODE, ERRPOS and STATE of w3 (R339). -/
def State.queueWriteBack (s : State) (i : Nat) (e : List Word) : State :=
  s.writeEntryAt s.host.qbase 16 i 16 (wordBytes ((e.drop 2).take 2))

/-- The RO fields of a fence entry written back: VALUE while LIVE, and the low half of w1 (R340). -/
def State.fenceWriteBack (s : State) (i : Nat) (e : List Word) : State :=
  let s := if (ew e 1).getLsbD 31 then s.writeEntryAt s.host.fbase 4 i 0 (leBytes 8 (ew e 0).toNat) else s
  s.writeEntryAt s.host.fbase 4 i 8 (leBytes 4 (ew e 1).toNat)

/-- On-chip capacities (R335); the part's replacement is free, and the model evicts the lowest number (log entry 20). -/
def capCtx : Nat := 64
def capQueue : Nat := 512
def capFence : Nat := 2048

/-- Bring a context entry on chip. -/
def State.loadCtx (s : State) (c : BitVec 9) : State :=
  match Tbl.find? s.host.ctxs c.toNat with
  | some _ => s
  | none =>
    let s := if s.host.ctxs.length ≥ capCtx then
        match s.host.ctxs with
        | (k, e) :: rest => (s.ctxWriteBack k e (s.ctxBusy (BitVec.ofNat 9 k))).modHost fun h => { h with ctxs := rest }
        | [] => s
      else s
    let (s, e) := s.readEntry s.host.ctxbase 32 c.toNat
    s.modHost fun h => { h with ctxs := Tbl.put h.ctxs c.toNat e }

/-- Bring a queue entry on chip. -/
def State.loadQueue (s : State) (q : BitVec 13) : State :=
  match Tbl.find? s.host.queues q.toNat with
  | some _ => s
  | none =>
    let s := if s.host.queues.length ≥ capQueue then
        match s.host.queues with
        | (k, e) :: rest => (s.queueWriteBack k e).modHost fun h => { h with queues := rest }
        | [] => s
      else s
    let (s, e) := s.readEntry s.host.qbase 16 q.toNat
    s.modHost fun h => { h with
      queues := Tbl.put h.queues q.toNat e, qvalid := Tbl.set false h.qvalid q.toNat ((ew e 0).getLsbD 63) }

/-- Bring a fence entry on chip. -/
def State.loadFence (s : State) (f : BitVec 14) : State :=
  match Tbl.find? s.host.fences f.toNat with
  | some _ => s
  | none =>
    let s := if s.host.fences.length ≥ capFence then
        match s.host.fences with
        | (k, e) :: rest => (s.fenceWriteBack k e).modHost fun h => { h with fences := rest }
        | [] => s
      else s
    let (s, e) := s.readEntry s.host.fbase 4 f.toNat
    s.modHost fun h => { h with
      fences := Tbl.put h.fences f.toNat e, flive := Tbl.set false h.flive f.toNat ((ew e 1).getLsbD 31) }

/-- The on-chip entries. -/
def State.ctxE (s : State) (c : BitVec 9) : List Word := Tbl.get [] s.host.ctxs c.toNat
def State.queueE (s : State) (q : BitVec 13) : List Word := Tbl.get [] s.host.queues q.toNat
/-- A queue's entry as it stands, on chip or read from memory, with what that read leaves behind (R276, R305). -/
def State.queueSeen (s : State) (q : BitVec 13) : State × List Word :=
  match Tbl.find? s.host.queues q.toNat with
  | some e => (s, e)
  | none => s.readEntry s.host.qbase 16 q.toNat
/-- The words of that entry: what a command that was taken from the queue carries with it. -/
def State.queueV (s : State) (q : BitVec 13) : List Word := (s.queueSeen q).2
def State.fenceE (s : State) (f : BitVec 14) : List Word := Tbl.get [] s.host.fences f.toNat
def State.setCtxE (s : State) (c : BitVec 9) (e : List Word) : State :=
  s.modHost fun h => { h with ctxs := Tbl.put h.ctxs c.toNat e }
def State.setQueueE (s : State) (q : BitVec 13) (e : List Word) : State :=
  s.modHost fun h => { h with
    queues := Tbl.put h.queues q.toNat e, qvalid := Tbl.set false h.qvalid q.toNat ((ew e 0).getLsbD 63) }
def State.setFenceE (s : State) (f : BitVec 14) (e : List Word) : State :=
  s.modHost fun h => { h with
    fences := Tbl.put h.fences f.toNat e, flive := Tbl.set false h.flive f.toNat ((ew e 1).getLsbD 31) }

/-- STATE of a context entry: 0 FREE, 1 LIVE, 2 DYING, 3 DEAD. -/
def ctxState (e : List Word) : Nat := nfld (ew e 6) 0 2
def ctxSgroup (e : List Word) : Nat := nfld (ew e 0) 45 16
def ctxPriv (e : List Word) : Bool := (ew e 0).getLsbD 61
def ctxTeardownRef (e : List Word) : Bool := (ew e 0).getLsbD 62
def ctxRoot (e : List Word) : Nat := nfld (ew e 1) 12 36 * 4096
def ctxPhoto (e : List Word) : Nat := nfld (ew e 2) 21 27 * 0x200000
def ctxTrbase (e : List Word) : Nat := nfld (ew e 3) 6 42 * 64
def ctxTrlog (e : List Word) : Nat := nfld (ew e 4) 0 5
def ctxDbkey (e : List Word) : BitVec 32 := (ew e 5).setWidth 32
def ctxTrseq (e : List Word) : BitVec 32 := (ew e 6 >>> 32).setWidth 32
def ctxConsent (e : List Word) : BitVec 3 := (ew e 6 >>> 2).setWidth 3

def qCtx (e : List Word) : BitVec 9 := (ew e 0 >>> 54).setWidth 9
def qCore (e : List Word) : Nat := nfld (ew e 0) 47 7
def qStream (e : List Word) : Fin 4 := Fin.ofNat 4 (nfld (ew e 0) 45 2)
def qRlog (e : List Word) : Nat := nfld (ew e 0) 40 5
def qRbase (e : List Word) : Nat := nfld (ew e 1) 6 42 * 64
def qHead (e : List Word) : BitVec 32 := (ew e 2 >>> 32).setWidth 32
def qTail (e : List Word) : BitVec 32 := (ew e 2).setWidth 32
def qState (e : List Word) : Nat := nfld (ew e 3) 0 2
def qValid (e : List Word) : Bool := (ew e 0).getLsbD 63
def setQHead (e : List Word) (h : BitVec 32) : List Word := setEw e 2 (putFld (ew e 2) 32 32 h.toNat)
def setQTail (e : List Word) (h : BitVec 32) : List Word := setEw e 2 (putFld (ew e 2) 0 32 h.toNat)
def setQState (e : List Word) (x : Nat) : List Word := setEw e 3 (putFld (ew e 3) 0 2 x)
def setQErr (e : List Word) (code : Nat) (pos : BitVec 32) : List Word :=
  setEw e 3 (putFld (putFld (ew e 3) 56 8 code) 24 32 pos.toNat)

def fValue (e : List Word) : Word := ew e 0
def fLive (e : List Word) : Bool := (ew e 1).getLsbD 31
def fError (e : List Word) : Bool := (ew e 1).getLsbD 30
def fValid (e : List Word) : Bool := (ew e 1).getLsbD 63
def fShare (e : List Word) : Nat := nfld (ew e 1) 61 2
def fMirror (e : List Word) : Bool := (ew e 1).getLsbD 60
def fOwner (e : List Word) : BitVec 9 := (ew e 1 >>> 51).setWidth 9
def fHostref (e : List Word) : Nat := nfld (ew e 1) 35 16
def fDevref (e : List Word) : Nat := nfld (ew e 1) 0 16
def fSgroup (e : List Word) : Nat := nfld (ew e 3) 16 16
def fMqp (e : List Word) : BitVec 12 := (ew e 3).setWidth 12
def setFLive (e : List Word) (b : Bool) : List Word := setEw e 1 (putFld (ew e 1) 31 1 b.toNat)
def setFError (e : List Word) (b : Bool) : List Word := setEw e 1 (putFld (ew e 1) 30 1 b.toNat)

/-- The share groups match (R353); SHARE 3 grants nothing, and neither does group 0 (R340). -/
def groupOk (fe ce : List Word) : Bool := fSgroup fe != 0 && fSgroup fe == ctxSgroup ce

/-- Context c may wait on the fence (R353). -/
def mayWait (c : BitVec 9) (ce fe : List Word) : Bool :=
  fLive fe && (c == 0#9 || fOwner fe == c || ((fShare fe == 1 || fShare fe == 2) && groupOk fe ce))

/-- Context c may signal the fence (R353). -/
def maySignal (c : BitVec 9) (ce fe : List Word) : Bool :=
  fLive fe && (c == 0#9 || fOwner fe == c || (fShare fe == 2 && groupOk fe ce))

/-- A wait for v is satisfied by a fence that holds f (R350). -/
def reached (v f : Word) : Bool := v - f == 0 || decide ((v - f).toNat > 2 ^ 63)

/-- A signal on its way to the fence unit (R351). -/
def State.send (s : State) (x : FenceSig) : State := s.modHost fun h => { h with inbox := h.inbox ++ [x] }

/-! ### Translation (R261-R265, R312, R428, R486) -/

/-- Pages of memory (R40). -/
def memPages : Nat := 393216

/-- A table entry of level 1 or 2 is valid: the DPA of the next table (R262, R263). -/
def tableEntry (w : Word) : Option Nat :=
  if w.getLsbD 0 && nfld w 48 16 == 0 && nfld w 1 11 == 0 && decide (nfld w 12 36 * 4096 < 0xC000000000) then
    some (nfld w 12 36 * 4096)
  else none

/-- A leaf entry read as a leaf. -/
def Leaf.ofWord (w : Word) : Leaf :=
  { page := BitVec.ofNat 27 (nfld w 21 27), owner := BitVec.ofNat 4 (nfld w 8 4), i := w.getLsbD 5, s := w.getLsbD 4,
    x := w.getLsbD 3, w := w.getLsbD 2, r := w.getLsbD 1 }

/-- A leaf entry is valid in its own form (R262, R263). -/
def leafForm (w : Word) : Bool :=
  w.getLsbD 0 && nfld w 48 16 == 0 && nfld w 6 2 == 0 && nfld w 12 9 == 0 &&
    decide ((Leaf.ofWord w).page.toNat < memPages)

/-- A leaf entry gives a translation (R262, R263, R312, R428, R486). -/
def leafEntry (m : Mem) (final : Bool) (w : Word) : Option Leaf :=
  let f := Leaf.ofWord w
  if leafForm w && !(f.s && f.owner == 0#4) && !m.vaultPage f.page.toNat && !(f.s && !final) && !(f.s && f.x)
      && !(f.i && !f.s) && !(f.i && (f.w || f.x)) then some f else none

/-- Read one table entry as the walker: none where it is poisoned or withheld (R263, R313). -/
def State.readTable (s : State) (dpa : Nat) : State × Option Word :=
  let r := s.mem.readBytes .walker none dpa 8 s.tick
  ({ s with mem := r.1 }, if r.2.2 then none else some (BitVec.ofNat 64 (leNat r.2.1)))

/-- What the registrar holds of a context. -/
def State.sec (s : State) (c : BitVec 9) : CtxSec := Tbl.get CtxSec.none s.reg.ctxs c.toNat

/-- What a list of pairs holds under a class. -/
def byClass {α : Type} (l : List (Nat × α)) (c : Nat) : Option α := (l.find? fun e => e.1 == c).map Prod.snd

def setClass {α : Type} (l : List (Nat × α)) (c : Nat) (x : α) : List (Nat × α) := (c, x) :: l.filter fun e => e.1 != c

/-- The consent in force: the AND over the owner classes, zero until every one has sent one. -/
def CtxSec.inForce (x : CtxSec) : BitVec 3 :=
  if x.owners.isEmpty then 0
  else (x.owners.map fun c => (byClass x.consent c).getD 0).foldl (· &&& ·) 7

/-- The consent in force for a context: context 0 always has all of it (R484). -/
def consentOf (c : BitVec 9) (x : CtxSec) : BitVec 3 := if c = 0 then 7 else x.inForce
def State.consent (s : State) (c : BitVec 9) : BitVec 3 := consentOf c (s.sec c)

/-- The registrar has fixed the context's measurement (R473, R486). -/
def State.isFinal (s : State) (c : BitVec 9) : Bool := (Tbl.get CtxSec.none s.reg.ctxs c.toNat).final

/-- Walk a context's tables from level 3 on. -/
def State.walk3 (s : State) (c : BitVec 9) (t3 dva : Nat) : State × Option Leaf :=
  let (s, e3) := s.readTable (t3 + 8 * (dva / 0x200000 % 512))
  (s, e3.bind (leafEntry s.mem (s.isFinal c)))

/-- Walk from level 2 on. -/
def State.walk2 (s : State) (c : BitVec 9) (t2 dva : Nat) : State × Option Nat × Option Leaf :=
  let (s, e2) := s.readTable (t2 + 8 * (dva / 0x40000000 % 512))
  match e2.bind tableEntry with
  | none => (s, none, none)
  | some t3 =>
    let (s, l) := s.walk3 c t3 dva
    (s, some t3, l)

/-- A whole walk of a context's tables from ROOT (R261, R263), with the tables it passed. -/
def State.walk (s : State) (c : BitVec 9) (dva : Nat) : State × Option Nat × Option Nat × Option Leaf :=
  let s := s.loadCtx c
  let root := ctxRoot (s.ctxE c)
  if root ≥ 0xC000000000 then (s, none, none, none)
  else
    let (s, e1) := s.readTable (root + 8 * (dva / 0x8000000000 % 512))
    match e1.bind tableEntry with
    | none => (s, none, none, none)
    | some t2 =>
      let (s, t3, l) := s.walk2 c t2 dva
      (s, some t2, t3, l)

/-- The translation of a DVA for a master outside the cores. -/
def State.xlate (s : State) (c : BitVec 9) (dva : Nat) : State × Option Leaf :=
  let (s, _, _, l) := s.walk c dva
  (s, l)

/-- The DPA of a DVA under its leaf. -/
def leafDpa (f : Leaf) (dva : Nat) : Nat := f.page.toNat * 0x200000 + dva % 0x200000

/-! ### The core's translation cache (R265) -/

/-- Key of a level-1 entry in the upper cache. -/
def upperKey1 (dva : Nat) : Nat := dva / 0x8000000000 % 512
/-- Key of a level-2 entry. -/
def upperKey2 (dva : Nat) : Nat := 0x100000 + dva / 0x40000000 % 0x40000

/-- An entry of level 1 or 2 that the core's cache holds, its use recorded. -/
def State.upperFind (s : State) (c : Fin 96) (key : Nat) : State × Option Nat :=
  match cacheFind 32 (s.core c).tlbUpper 0 key with
  | some t => (s.modCore c fun k => { k with tlbUpper := cacheTouch 32 k.tlbUpper 0 key }, some (t.toNat * 4096))
  | none => (s, none)

/-- A core's walk: the level-2 and level-1 tables it read, to be cached with the leaf it finds. -/
def State.coreTables (s : State) (c : Fin 96) (ctx : BitVec 9) (dva : Nat) :
    State × List (Nat × Nat) × Option Leaf :=
  match s.upperFind c (upperKey2 dva) with
  | (s, some t3) =>
    let (s, l) := s.walk3 ctx t3 dva
    (s, [], l)
  | (s, none) =>
    let low (t3 : Option Nat) : List (Nat × Nat) := (t3.map fun t => (upperKey2 dva, t)).toList
    match s.upperFind c (upperKey1 dva) with
    | (s, some t2) =>
      let (s, t3, l) := s.walk2 ctx t2 dva
      (s, low t3, l)
    | (s, none) =>
      let (s, t2, t3, l) := s.walk ctx dva
      (s, (t2.map fun t => (upperKey1 dva, t)).toList ++ low t3, l)

/-- A walk started for a core: it uses the upper cache; what it read enters the caches where it finds a leaf, and a walk
that fails is not cached (R265). -/
def State.coreWalk (s : State) (c : Fin 96) (ctx : BitVec 9) (dva : Nat) : State × Option Leaf :=
  match s.coreTables c ctx dva with
  | (s, ts, some f) =>
    (s.modCore c fun k => { k with
      tlbUpper := ts.foldl (fun u e => (cacheFill 32 u 0 e.1 (BitVec.ofNat 36 (e.2 / 4096))).1) k.tlbUpper
      tlb := (cacheFill 8 k.tlb (dva / 0x200000 % 32) (dva / 0x200000) f).1 }, some f)
  | (s, _, none) => (s, none)

/-- The leaf the core's cache holds for a DVA. -/
def Core.tlbFind (k : Core) (dva : Nat) : Option Leaf := cacheFind 8 k.tlb (dva / 0x200000 % 32) (dva / 0x200000)

/-- The translation of a DVA for an access of a core; a demand walk is counted (R265, R267). -/
def State.coreXlate (s : State) (c : Fin 96) (dva : Nat) (counted : Bool) : State × Option Leaf :=
  match (s.core c).ctx with
  | none => (s, none)
  | some ctx =>
    match (s.core c).tlbFind dva with
    | some f =>
      (s.modCore c fun k => { k with tlb := cacheTouch 8 k.tlb (dva / 0x200000 % 32) (dva / 0x200000) }, some f)
    | none =>
      let s := if counted then s.modCore c fun k => { k with walks := k.walks + 1 } else s
      s.coreWalk c ctx dva

/-! ### Bytes of a context for the chip blocks (R310 masters 3, 4, 5 and 7) -/

/-- Why a block's access to a context's memory fails. -/
inductive BlockErr where
  | xlate
  | right
  | sealed
  | poison
deriving DecidableEq, Repr

/-- Split a DVA range at its pages. -/
def pageRuns : (fuel : Nat) → (dva len : Nat) → List (Nat × Nat)
  | 0, _, _ => []
  | _, _, 0 => []
  | f + 1, dva, len =>
    let n := Min.min len (0x200000 - dva % 0x200000)
    (dva, n) :: pageRuns f (dva + n) (len - n)

def pagesOf (dva len : Nat) : List (Nat × Nat) := pageRuns (len / 0x200000 + 2) dva len

/-- Check one page of a block's access: translation, right, and no sealed page (R264, R487). -/
def blockRight (write : Bool) (f : Leaf) : Option BlockErr :=
  if f.s then some .sealed else if (if write then !f.w else !f.r) then some .right else none

/-- Translate every page of a block's access, in order; the first failure ends it. -/
def State.blockPages (s : State) (c : BitVec 9) (write : Bool) (dva len : Nat) :
    State × Except BlockErr (List (Nat × Nat × Leaf)) :=
  (pagesOf dva len).foldl (fun a r =>
    match a.2 with
    | .error e => (a.1, .error e)
    | .ok l =>
      if r.1 ≥ 2 ^ 48 then (a.1, .error .xlate) else
      let (s, f) := a.1.xlate c r.1
      match f with
      | none => (s, .error .xlate)
      | some f => match blockRight write f with
        | some e => (s, .error e)
        | none => (s, .ok (l ++ [(r.1, r.2, f)]))) (s, .ok [])

/-- A block reads bytes of a context. -/
def State.blockRead (s : State) (mst : Master) (c : BitVec 9) (dva len : Nat) : State × Except BlockErr (List Byte) :=
  match s.blockPages c false dva len with
  | (s, .error e) => (s, .error e)
  | (s, .ok ps) =>
    ps.foldl (fun a p =>
      match a.2 with
      | .error e => (a.1, .error e)
      | .ok l =>
        let r := a.1.mem.readBytes mst (some p.2.2.owner) (leafDpa p.2.2 p.1) p.2.1 a.1.tick
        ({ a.1 with mem := r.1 }, if r.2.2 then .error .poison else .ok (l ++ r.2.1))) (s, .ok [])

/-- A block writes bytes of a context: nothing is written unless every page passes. -/
def State.blockWrite (s : State) (mst : Master) (c : BitVec 9) (dva : Nat) (bs : List Byte) :
    State × Except BlockErr Unit :=
  match s.blockPages c true dva bs.length with
  | (s, .error e) => (s, .error e)
  | (s, .ok ps) =>
    (ps.foldl (fun a p =>
      (a.1.modMem fun m => m.writeBytes mst p.2.2.owner (leafDpa p.2.2 p.1) (a.2.take p.2.1) a.1.tick,
       a.2.drop p.2.1)) (s, bs) |>.1, .ok ())

end Sys2Proof.Machine
end

