-- ==== Sys2Proof/Machine/HostOps.lean ====
section
/-! DEFINITION. What a command of a queue is, and how it ends: fields of the command words, references of fences,
completion and refusal (R344-R347, R355, R357). -/
namespace Sys2Proof.Machine

/-! ### Command words (R345, R346) -/

def cmdKind (ws : List Word) : Nat := nfld (ew ws 0) 56 8
def cmdCfen (ws : List Word) : Bool := (ew ws 0).getLsbD 55
def cmdCfence (ws : List Word) : BitVec 14 := (ew ws 0 >>> 40).setWidth 14
def cmdCvalue (ws : List Word) : Word := ew ws 1
def cmdEfence (ws : List Word) : BitVec 14 := (ew ws 0 >>> 10).setWidth 14
def cmdPlates (ws : List Word) : BitVec 16 := (ew ws 0 >>> 24).setWidth 16
def cmdWfence (ws : List Word) : BitVec 14 := (ew ws 0 >>> 26).setWidth 14
/-- CORE and STREAM of RESUME and ABORT. -/
def cmdCore (ws : List Word) : Nat := nfld (ew ws 0) 33 7
def cmdStream (ws : List Word) : Fin 4 := Fin.ofNat 4 (nfld (ew ws 0) 31 2)
/-- CONTEXT of MAP, UNMAP, REMAP and CONTEXT_DESTROY. -/
def cmdContext (ws : List Word) : BitVec 9 := (ew ws 0 >>> 31).setWidth 9

/-- Slots of a command: LAUNCH has two (R347). -/
def cmdSlots (ws : List Word) : BitVec 32 := if cmdKind ws = 1 then 2 else 1

/-- The fences a command names, one reference each (R355). -/
def cmdFences (ws : List Word) : List (BitVec 14) :=
  ((if cmdCfen ws then [cmdCfence ws] else []) ++ (if cmdKind ws = 1 then [cmdEfence ws] else []) ++
    (if cmdKind ws = 4 then [cmdWfence ws] else [])).eraseDups

/-! ### References (R355, R357) -/

def setFDevref (e : List Word) (n : Nat) : List Word := setEw e 1 (putFld (ew e 1) 0 16 n)

/-- A fence leaves LIVE. -/
def State.endLive (s : State) (f : BitVec 14) : State :=
  (s.setFenceE f (setFLive (s.fenceE f) false)).modHost fun h => { h with leaving := h.leaving.filter fun x => x.1 != f }

/-- A fence of a context destroyed under REFCOUNT leaves LIVE when no reference is left (R357). -/
def State.dropDead (s : State) (f : BitVec 14) : State :=
  let e := s.fenceE f
  if fLive e && s.host.leaving.contains (f, false) && fHostref e + fDevref e == 0 then s.endLive f else s

/-- The device takes a reference to a fence. -/
def State.refFence (s : State) (f : BitVec 14) : State :=
  let s := s.loadFence f
  s.setFenceE f (setFDevref (s.fenceE f) (fDevref (s.fenceE f) + 1))

/-- The device drops a reference. -/
def State.unrefFence (s : State) (f : BitVec 14) : State :=
  let s := s.loadFence f
  (s.setFenceE f (setFDevref (s.fenceE f) (fDevref (s.fenceE f) - 1))).dropDead f

def State.unrefAll (s : State) (ws : List Word) : State := (cmdFences ws).foldl (fun s f => s.unrefFence f) s

/-! ### The end of a command -/

/-- The command a queue has taken. -/
def State.takenOf (s : State) (q : BitVec 13) : Option QCmd := Tbl.find? s.host.taken q.toNat

def State.dropTaken (s : State) (q : BitVec 13) : State :=
  s.modHost fun h => { h with taken := Tbl.erase h.taken q.toNat }

/-- Change a queue's entry on chip. -/
def State.modQueue (s : State) (q : BitVec 13) (f : List Word → List Word) : State :=
  let s := s.loadQueue q
  s.setQueueE q (f (s.queueE q))

/-- HEAD passes a command, where it still stands at the command; a WAITING queue runs on. -/
def passHead (c : QCmd) (e : List Word) : List Word :=
  let e := if qHead e = c.pos then setQHead e (c.pos + cmdSlots c.words) else e
  if qState e = 2 then setQState e 1 else e

/-- A taken command completes: HEAD passes it, its references go, and CFENCE is signalled where CFEN is 1 (R345). -/
def State.completeCmd (s : State) (q : BitVec 13) (signal : Bool) : State :=
  match s.takenOf q with
  | none => s
  | some c =>
    let s := ((s.dropTaken q).modQueue q (passHead c)).unrefAll c.words
    if signal && cmdCfen c.words then s.send ⟨cmdCfence c.words, cmdCvalue c.words, false, .command⟩ else s

/-- Refusal codes that stop the queue (R344). -/
def stops (code : Nat) : Bool := (decide (1 ≤ code) && decide (code ≤ 5)) || code == 8

/-- A command is refused (R344): ERRCODE, ERRPOS and CMD_ERR, the error on a CFENCE that the context may
signal (R353), and the queue stops or goes on. -/
def State.refuseAt (s : State) (q : BitVec 13) (pos : BitVec 32) (ws : List Word) (code : Nat) : State :=
  let s := s.modQueue q fun e =>
    let e := setQErr e code pos
    if stops code then setQState e 0
    else
      let e := setQHead e (pos + cmdSlots ws)
      if qState e = 2 then setQState e 1 else e
  let s := s.modHost fun h => { h with cmdErr := true }
  if cmdCfen ws then
    let c := qCtx (s.queueE q)
    let s := (s.loadCtx c).loadFence (cmdCfence ws)
    if maySignal c (s.ctxE c) (s.fenceE (cmdCfence ws)) then s.send ⟨cmdCfence ws, cmdCvalue ws, true, .command⟩ else s
  else s

/-- A taken command is refused. -/
def State.refuseCmd (s : State) (q : BitVec 13) (code : Nat) : State :=
  match s.takenOf q with
  | none => s
  | some c => ((s.dropTaken q).refuseAt q c.pos c.words code).unrefAll c.words

/-- Change how far a queue's taken command has come. -/
def State.stageCmd (s : State) (q : BitVec 13) (x : QCmd) (g : CmdStage) : State :=
  s.modHost fun h => { h with taken := Tbl.put h.taken q.toNat { x with stage := g } }

/-- Taken commands that meet a test. -/
def State.takenWhere (s : State) (p : QCmd → Bool) : List (BitVec 13) :=
  (s.host.taken.filter fun e => p e.2).map fun e => BitVec.ofNat 13 e.1

/-- ABORT commands that wait for a stream to become IDLE complete (R345). -/
def State.finishAborts (s : State) (c : Fin 96) (t : Fin 4) : State :=
  (s.takenWhere fun x => x.stage == .running && cmdKind x.words == 6 && cmdCore x.words == c.val && cmdStream x.words == t).foldl
    (fun s q => s.completeCmd q true) s

/-- The LAUNCH of a queue was lost with its core: the queue stops at it and its fence references stay (R456). -/
def State.stopLaunch (s : State) (l : Option LaunchRec) : State :=
  match l with
  | none => s
  | some l =>
    let s := s.modQueue l.queue fun e => setQState (setQHead e l.pos) 0
    match s.takenOf l.queue with
    | some x => s.stageCmd l.queue x .parked
    | none => s

end Sys2Proof.Machine
end

