-- ==== Sys2Proof/Machine/Releases.lean ====
section
/-! DEFINITION. Completion of earlier work of a stream, and the signals it holds back (R173, R182, R186-R189). -/
namespace Sys2Proof.Machine

/-! ### Work not yet complete (R182, R186) -/

/-- Earlier instructions of stream t, with issue numbers below n, that are not complete, by target. -/
def Core.quadPending (k : Core) (t : Fin 4) (n : Nat) : Bool :=
  (k.tileQ.toList.any fun q => q.any fun x => x.stream == t && decide (x.seqNo < n)) ||
  (k.arrs.toList.any fun a => a.flights.any fun x => x.tile.stream == t && decide (x.tile.seqNo < n)) ||
  (k.outQ.toList.any fun q => q.any fun x => x.tile.stream == t && decide (x.tile.seqNo < n)) ||
  (k.wq.any fun w => w.stream == t && decide (w.seqNo < n) && w.eng == .quad) ||
  (match k.modeWait with
   | some (_, u, m) => u == t && decide (m < n)
   | none => false) ||
  (match (k.streams[t]).hscale with
   | some h => decide (h.seqNo < n)
   | none => false)

def Core.vecPending (k : Core) (t : Fin 4) (n : Nat) : Bool :=
  (k.wq.any fun w => w.stream == t && decide (w.seqNo < n) && w.eng == .vec) ||
  (match (k.streams[t]).vtake with
   | some v => decide (v.seqNo < n)
   | none => false) ||
  (k.vecQ.any fun v => v.stream == t && decide (v.seqNo < n))

def Core.dmaPending (k : Core) (t : Fin 4) (n : Nat) : Bool :=
  k.dmaQ.any fun d => decide (d.channel.val = t.val) && decide (d.seqNo < n)

/-- Scalar stores not yet accepted (R209). -/
def Core.seqPending (k : Core) (t : Fin 4) (n : Nat) : Bool :=
  k.wq.any fun w => w.stream == t && decide (w.seqNo < n) && w.eng == .seq

/-- The SYNC mask's work is pending; the PORT bit covers nothing, since a PORT instruction is complete at acceptance. -/
def Core.pending (k : Core) (t : Fin 4) (n : Nat) (o : SyncOps) : Bool :=
  (o.quad && k.quadPending t n) || (o.vec && k.vecPending t n) || (o.dma && k.dmaPending t n) ||
    (o.seq && k.seqPending t n)

def allTargets : SyncOps := ⟨true, true, true, true, true⟩

/-- Any earlier work of the stream is pending. -/
def Core.anyPending (k : Core) (t : Fin 4) (n : Nat) : Bool := k.pending t n allTargets

/-! ### Releases (R187-R189) -/

/-- Add to a semaphore, saturating (R189). -/
def Core.semAdd (k : Core) (i : BitVec 6) (n : BitVec 16) : Core :=
  let v := k.sems[i.toFin].toNat + n.toNat
  if v > 65535 then { k with sems := k.sems.set i.toFin 65535, semOvf := true }
  else { k with sems := k.sems.set i.toFin (BitVec.ofNat 16 v) }

/-- Perform a release. -/
def State.perform (s : State) (c : Fin 96) (x : SignalKind) : State :=
  match x with
  | .sem i n => s.modCore c fun k => k.semAdd i n
  | .fence f v => s.send ⟨f, v, false, .program⟩

/-- Perform the held releases of a stream whose earlier work is complete, in issue order (R187). -/
def State.performHeld (s : State) (c : Fin 96) (t : Fin 4) : State :=
  let st := s.stream c t
  match st.held with
  | [] => s
  | _ =>
    let ready := st.held.filter fun h => !(s.core c).anyPending t h.seqNo
    let s := s.modStream c t fun x => { x with held := x.held.filter fun h => (s.core c).anyPending t h.seqNo }
    ready.foldl (fun s h => s.perform c h.what) s

/-- After work of a core completes: the releases it held back are performed. -/
def State.settleHeld (s : State) (c : Fin 96) : State :=
  (List.finRange 4).foldl (fun s t => s.performHeld c t) s

/-- A release issued now is performed when its stream's earlier work is complete (R187). -/
def State.release (s : State) (c : Fin 96) (t : Fin 4) (seqNo : Nat) (x : SignalKind) : State :=
  (s.modStream c t fun st => { st with held := st.held ++ [⟨seqNo, x⟩] }).performHeld c t

end Sys2Proof.Machine
end

