-- ==== Sys2Proof/Machine/NearStore.lean ====
section
/-! DEFINITION. The near store of a core, its write queue, the acquire epochs and the stride prefetcher (R237-R253,
R264, R266). A demand miss is filled within the step that makes it; a prefetch is a fill entry until LINE_FILL. -/
namespace Sys2Proof

/-! ### Errors in the array (R239) -/

/-- What the SECDED check of one line read finds (R239). -/
inductive Flip where
  | none
  | single
  | double (word : Fin 32)
deriving DecidableEq, Repr, Inhabited

/-- The error that meets line read n of a command. -/
def Upset.at : Upset → Nat → Flip
  | .none, _ => .none
  | .single r m, n => if r = n then .single else Upset.at m n
  | .double r w m, n => if r = n then .double w else Upset.at m n

/-- What is left once a command has read n lines. -/
def Upset.drop : Upset → Nat → Upset
  | .none, _ => .none
  | .single r m, n => if r < n then Upset.drop m n else .single (r - n) (Upset.drop m n)
  | .double r w m, n => if r < n then Upset.drop m n else .double (r - n) w (Upset.drop m n)

end Sys2Proof

namespace Sys2Proof.Machine

/-- Why an access of a core's engine fails, with the DVA it met. -/
inductive AccErr where
  | xlate (dva : Nat)
  | right (dva : Nat)
  | poison (dva : Nat)
  | withheld
deriving DecidableEq, Repr

/-- The set and the tag of a line in a near store (R237). -/
def nsSet (l : Nat) : Nat := l % 2048
def nsTag (l : Nat) : Nat := l / 2048

/-- A line of the near store. -/
def Core.nsFind (k : Core) (l : Nat) : Option NsLine := cacheFind 8 k.ns (nsSet l) (nsTag l)

/-- The line is an unreferenced prefetched line (R244). -/
def NsLine.unref (x : NsLine) : Bool := x.pf && !x.ref

/-- Discard one line. -/
def Core.nsDrop (k : Core) (l : Nat) : Core :=
  { k with ns := cacheDrop k.ns fun st tg _ => st == nsSet l && tg == nsTag l }

/-! ### Write queue (R240, R241) -/

/-- The slice accepts the oldest sector write of the core; releases that waited for it alone are performed (R187). -/
def State.acceptOne (s : State) (c : Fin 96) : State :=
  match (s.core c).wq with
  | [] => s
  | w :: rest =>
    ((s.modCore c fun k => { k with wq := rest }).modMem fun m =>
      m.partialWrite .engine w.line.toNat w.owner w.bytes).settleHeld c

/-- Accept the first n. -/
def State.acceptN (s : State) (c : Fin 96) : Nat → State
  | 0 => s
  | n + 1 => (s.acceptOne c).acceptN c n

/-- Accept every queued write of a core: gating, a context switch, and the waits of NSWB (R240). -/
def State.acceptAll (s : State) (c : Fin 96) : State := s.acceptN c (s.core c).wq.length

/-- Accept the queue up to the last write to a line, so that a read of the line sees it (R184, log entry 13). -/
def State.acceptLine (s : State) (c : Fin 96) (l : Nat) : State :=
  let wq := (s.core c).wq
  let n := wq.length - (wq.reverse.findIdx fun w => w.line.toNat == l)
  s.acceptN c n

/-- One sector write enters the queue: the near store's copy changes at once, and a full queue first lets its oldest
write through (R240). -/
def State.pushSector (s : State) (c : Fin 96) (w : SectorW) : State :=
  let s := if (s.core c).wq.length ≥ 256 then s.acceptOne c else s
  let l := w.line.toNat
  s.modCore c fun k => { k with
    ns := cacheUpdate 8 k.ns (nsSet l) (nsTag l) fun x => { x with data := mergeBytes x.data w.bytes }
    wq := k.wq ++ [w] }

/-- The sectors of a run of bytes within one line. -/
def sectorRuns (bs : List (Nat × Byte)) : List (List (Nat × Byte)) :=
  ((List.range 8).map fun q => bs.filter fun b => b.1 / 32 = q).filter fun l => !l.isEmpty

/-! ### Prefetcher training (R250) -/

/-- The page beyond the boundary that the prefetches of an entry have come to. -/
def pfNextPage (e : PfEntry) : Int := if e.stride > 0 then e.issued / 8192 + 1 else e.issued / 8192 - 1

/-- An access of a pair trains its entry; one in the next page ends a hold at the page boundary (R252). -/
def pfTouch (e : PfEntry) (a : Int) (clock : Nat) : PfEntry :=
  let e := { e with hold := if a / 8192 = pfNextPage e then none else e.hold.map fun _ => false }
  let d := a - e.last
  let inPage := decide (a / 8192 = e.last / 8192)
  let small := decide (1 ≤ d.natAbs) && decide (d.natAbs ≤ 64)
  if e.trained then
    if d = e.stride then { e with last := a, breaks := 0, used := clock, issued := if e.stride > 0 then Max.max e.issued a else Min.min e.issued a }
    else if e.breaks + 1 ≥ 2 then
      { e with last := a, breaks := 0, used := clock, trained := false, hits := 1, stride := 0, hold := none }
    else { e with last := a, breaks := e.breaks + 1, used := clock }
  else if inPage && small then
    if d = e.stride ∧ e.hits ≥ 2 then
      { e with last := a, hits := e.hits + 1, used := clock, trained := true, issued := a, breaks := 0 }
    else { e with last := a, stride := d, hits := 2, used := clock }
  else { e with last := a, stride := 0, hits := 1, used := clock }

/-- Train on an access of a stream's engine at a DVA line: its entry, a new one, or the least recently used. -/
def Core.train (k : Core) (t : Fin 4) (eng : PfEngine) (a : Nat) : Core :=
  let clk := k.pfClock + 1
  let new : PfEntry := { stream := t, engine := eng, last := a, stride := 0, hits := 1, breaks := 0, trained := false,
                         issued := a, used := clk, hold := none }
  let k := { k with pfClock := clk }
  match k.pf.findIdx? fun e => e.stream = t ∧ e.engine = eng with
  | some i => { k with pf := k.pf.modify i fun e => pfTouch e a clk }
  | none =>
    if k.pf.length < 16 then { k with pf := k.pf ++ [new] }
    else
      let oldest := k.pf.foldl (fun n e => Min.min n e.used) clk
      match k.pf.findIdx? fun e => e.used = oldest with
      | some i => { k with pf := k.pf.set i new }
      | none => k

/-! ### Demand accesses (R238, R239, R245) -/

/-- Lines that a run of bytes touches. -/
def linesOf (dva len : Nat) : Nat := if len = 0 then 0 else (dva + len - 1) / 256 - dva / 256 + 1

/-- The SECDED check of a read: a double error invalidates the line and poisons the access (R239). -/
def Core.secded (k : Core) (l : Nat) : Flip → Core
  | .none => k
  | .single => { k with nsCe := true, nsCeCount := satAdd32 k.nsCeCount }
  | .double _ => { k.nsDrop l with nsUe := true, nsUeCount := satAdd16 k.nsUeCount }

/-- A demand read of one line by stream t: hit, or miss with its fill. `eng` trains the prefetcher where the access is
of a kind that does. -/
def State.nsRead (s : State) (c : Fin 96) (t : Fin 4) (eng : Option PfEngine) (dvaLine : Nat) (f : Leaf) (u : Flip) :
    State × LineRes :=
  let l := leafDpa f (256 * dvaLine) / 256
  let k := s.core c
  let usable : Bool := match k.nsFind l with
    | some x => if x.unref then x.pfStream == t && x.pfEpoch == k.epochs[t] else true
    | none => false
  let trains : Bool := match k.nsFind l with
    | some x => x.unref || !usable
    | none => true
  -- a full fill table stalls the access (R260)
  if !usable && decide (k.fills.length ≥ 1024) then (s, .withheld) else
  let s := match eng with
    | some e => if trains then s.modCore c fun k => k.train t e dvaLine else s
    | none => s
  let s := if usable then
      s.modCore c fun k => { k with
        dhit := k.dhit + 1
        ns := cacheTouch 8 (cacheUpdate 8 k.ns (nsSet l) (nsTag l) fun x => if x.pf then { x with ref := true } else x)
          (nsSet l) (nsTag l) }
    else
      let s := s.modCore c fun k => { k.nsDrop l with dmiss := k.dmiss + 1 }
      let s := s.acceptLine c l
      let (m, r) := s.mem.readLine .engine l (some f.owner) s.tick
      let s := { s with mem := m }
      match r with
      | .withheld => s
      | .data d p => s.modCore c fun k =>
          { k with ns := (cacheFill 8 k.ns (nsSet l) (nsTag l) ⟨d, p, false, 0, 0, false⟩).1 }
  match (s.core c).nsFind l with
  | none => (s, .withheld)
  | some x =>
    let s := s.modCore c fun k => k.secded l u
    (s, .data x.data x.poison)

/-- The error as a run of bytes of a line meets it: a double error elsewhere in the line is not read (R239). -/
def flipMet (u : Flip) (bs : List (Nat × Byte)) : Flip :=
  match u with
  | .double w => if bs.any fun b => b.1 / 8 == w.val then u else .none
  | u => u

/-- A byte of a line is marked poisoned: the line is, or its word met a double error. -/
def marked (poison : Bool) (u : Flip) (off : Nat) : Bool :=
  poison || match u with
    | .double w => off / 8 == w.val
    | _ => false

/-- An access that a full fill table stalls is made again whole, so nothing of it counts yet (R260), and its stream waits
for a fill entry (R251); after a tag failure the state shows the halt. -/
def State.stalled (s s' : State) (c : Fin 96) (t : Fin 4) : State :=
  if s'.mem.haltStage = s.mem.haltStage then s.modStream c t fun st => { st with missWaits := true } else s'

/-- A VTAKE copies. -/
def Core.vtakeRuns (k : Core) : Bool := k.streams.toList.any fun t => t.vtake.isSome

/-- A demand miss of the core waits for a fill entry: a stream's, or that of the instruction at the head of the vector
engine's queue, which nothing else holds up. -/
def Core.missWaiting (k : Core) : Bool :=
  (k.streams.toList.any fun st => st.missWaits) || (!k.vecQ.isEmpty && !k.vtakeRuns)

/-- The stream's access has been made. -/
def State.missServed (s : State) (c : Fin 96) (t : Fin 4) : State :=
  if (s.stream c t).missWaits then s.modStream c t fun st => { st with missWaits := false } else s

/-- Read bytes at a DVA line by line for an engine of a core under R (R264), each with its poison mark. -/
def State.loadLines (s : State) (c : Fin 96) (t : Fin 4) (eng : Option PfEngine) (dva len : Nat) (u : Upset) :
    State × Except AccErr (List (Byte × Bool)) :=
  (runsOf dva (List.replicate len 0)).zipIdx.foldl (fun a ri =>
    let r := ri.1
    match a.2 with
    | .error e => (a.1, .error e)
    | .ok bs =>
      let here := 256 * r.1 + (r.2.headD (0, 0)).1
      if here ≥ 2 ^ 48 then (a.1, .error (.xlate here)) else
      let (s, f) := a.1.coreXlate c here true
      match f with
      | none => (s, .error (.xlate here))
      | some f =>
        if !f.r then (s, .error (.right here)) else
        let u := flipMet (u.at ri.2) r.2
        let (s, x) := s.nsRead c t eng r.1 f u
        match x with
        | .withheld => (s, .error .withheld)
        | .data d p => (s, .ok (bs ++ r.2.map fun o => (d.getD o.1 0, marked p u o.1)))) (s, .ok [])

/-- Read bytes at a DVA as one access, which stalls as a whole. -/
def State.loadMarked (s : State) (c : Fin 96) (t : Fin 4) (eng : Option PfEngine) (dva len : Nat) (u : Upset) :
    State × Except AccErr (List (Byte × Bool)) :=
  match s.loadLines c t eng dva len u with
  | (s', .error .withheld) => (s.stalled s' c t, .error .withheld)
  | (s', r) => (s'.missServed c t, r)

/-- Read bytes of which none may be poisoned. -/
def State.loadBytes (s : State) (c : Fin 96) (t : Fin 4) (eng : Option PfEngine) (dva len : Nat) (u : Upset) :
    State × Except AccErr (List Byte) :=
  match s.loadMarked c t eng dva len u with
  | (s, .error e) => (s, .error e)
  | (s, .ok bs) =>
    if bs.any fun b => b.2 then (s, .error (.poison dva)) else (s, .ok (bs.map Prod.fst))

/-- Write bytes at a DVA for an engine of a core under W (R240, R264). DESIGN CHOICE (log entry 46): every page is checked before
any byte, so a row or image that runs into a page without translation or right writes nothing on the page before it either. -/
def State.storeBytes (s : State) (c : Fin 96) (t : Fin 4) (seqNo : Nat) (eng : Target) (dva : Nat) (bs : List Byte) :
    State × Except AccErr Unit :=
  let runs := runsOf dva bs
  let (s, fs) := runs.foldl (fun (a : State × Except AccErr (List Leaf)) r =>
    match a.2 with
    | .error e => (a.1, .error e)
    | .ok l =>
      let here := 256 * r.1 + (r.2.headD (0, 0)).1
      if here ≥ 2 ^ 48 then (a.1, .error (.xlate here)) else
      let (s, f) := a.1.coreXlate c here true
      match f with
      | none => (s, .error (.xlate here))
      | some f => if f.w then (s, .ok (l ++ [f])) else (s, .error (.right here))) (s, .ok [])
  match fs with
  | .error e => (s, .error e)
  | .ok fs =>
    ((runs.zip fs).foldl (fun s rf =>
      (sectorRuns rf.1.2).foldl (fun s b =>
        s.pushSector c { stream := t, seqNo := seqNo, eng := eng,
                         line := BitVec.ofNat 40 (leafDpa rf.2 (256 * rf.1.1) / 256), bytes := b,
                         owner := rf.2.owner }) s) s, .ok ())

/-! ### Epochs (R244-R246) -/

/-- Advance a stream's acquire epoch: its unreferenced prefetched lines are discarded (R246). -/
def Core.advanceEpoch (k : Core) (t : Fin 4) : Core :=
  { k with
    epochs := k.epochs.set t (k.epochs[t] + 1)
    ns := cacheDrop k.ns fun _ _ x => x.unref && x.pfStream == t }

/-- Every near-store line discarded, and prefetches in flight with it. -/
def Core.nsClear (k : Core) : Core := { k with ns := [], fills := [], fillQ := [] }

/-! ### Prefetches (R251-R253) -/

/-- A prefetch of a line takes a fill entry, or waits for one where the request may wait: demand misses go first (R251). -/
def Core.prefetch (k : Core) (x : Fill) (wait : Bool) : Core :=
  if k.pfmax = 0 then k
  else if k.fills.length < k.pfmax.toNat && !k.missWaiting then { k with fills := k.fills ++ [x] }
  else if wait then { k with fillQ := k.fillQ ++ [x] } else k

/-- Waiting NSPF lines move into free fill entries, unless a demand miss waits for one. -/
def Core.refill (k : Core) : Core :=
  let n := if k.missWaiting then 0 else k.pfmax.toNat - k.fills.length
  { k with fills := k.fills ++ k.fillQ.take n, fillQ := k.fillQ.drop n }

/-- Install what a prefetch brought, unless its stream's epoch has advanced (R246); a double error leaves nothing
(R266). A line the near store already holds stays as it is. -/
def State.installPrefetch (s : State) (c : Fin 96) (x : Fill) (u : Flip) : State :=
  let l := x.line.toNat
  if (s.core c).epochs[x.stream] ≠ x.epoch ∨ ((s.core c).nsFind l).isSome then s
  else
    let s := s.acceptLine c l
    let (m, r) := s.mem.readLine .engine l (some x.owner) s.tick
    let s := { s with mem := m }
    match r with
    | .withheld => s
    | .data d p =>
      (s.modCore c fun k =>
        { k with ns := (cacheFill 8 k.ns (nsSet l) (nsTag l) ⟨d, p, true, x.stream, x.epoch, false⟩).1 }).modCore c
        fun k => k.secded l u

end Sys2Proof.Machine
end

