-- ==== Sys2Proof/Machine/Issue.lean ====
section
/-! DEFINITION. Issue of an instruction and taking a trap (R173, R175, R177, R183, R187, R195-R202, R206). A trap is what this hardware has for an exception: it stops one stream. -/
namespace Sys2Proof.Machine

/-! ### Traps (R195-R202) -/

/-- Trap codes of R195. -/
inductive TrapCode where
  | illegal | fetchPoison | fetchXlate | quad | output | vector | dma | scalarMem | desc | fenceRight | waitLimit
  | port | software | pcAlign | aborted
deriving DecidableEq, Repr

def TrapCode.num : TrapCode → BitVec 8
  | .illegal => 0x01 | .fetchPoison => 0x02 | .fetchXlate => 0x03 | .quad => 0x04 | .output => 0x05
  | .vector => 0x06 | .dma => 0x07 | .scalarMem => 0x08 | .desc => 0x09 | .fenceRight => 0x0A
  | .waitLimit => 0x0B | .port => 0x0C | .software => 0x0D | .pcAlign => 0x0E | .aborted => 0x0F

/-- Stop a running or waiting stream with a trap: it enters DRAIN, and signals issued after the faulting instruction
are discarded (R187, R196). A stream already stopped records that another fault arose (R197 MULTI). -/
def Stream.trapWith (st : Stream) (x : TrapInfo) (seqNo : Nat) : Stream :=
  match st.mode with
  | .run => { st with mode := .drain, wait := .none, trap := some x, missWaits := false, held := st.held.filter fun h => h.seqNo < seqNo }
  | .wait => { st with mode := .drain, wait := .none, trap := some x, missWaits := false, held := st.held.filter fun h => h.seqNo < seqNo }
  | .drain => { st with held := st.held.filter fun h => h.seqNo < seqNo, trap := match st.trap with
      | some y => some { y with multi := true }
      | none => some { x with code := TrapCode.aborted.num, pc := st.pc, insn := 0, detail := 0, stoppc := st.pc,
                              addr := 0, multi := true } }
  | _ => st

/-- A waiting stream leaves its queue of semaphore waiters. -/
def Core.leaveSem (k : Core) (t : Fin 4) : Core := { k with semOrder := k.semOrder.filter (· ≠ t) }

/-- A trap found at issue: STOPPC is the instruction's own PC (R195). -/
def State.trapIssue (s : State) (c : Fin 96) (t : Fin 4) (code : TrapCode) (insn detail : Word) (addr : Addr) :
    State :=
  (s.modStream c t fun st =>
    st.trapWith { code := code.num, pc := st.pc, insn := insn, detail := detail, stoppc := st.pc, addr := addr,
                  multi := false } st.seqNo).modCore c fun k => k.leaveSem t

/-- A trap an engine reports after issue: the stream stops at its next instruction boundary (R195, R105). -/
def State.trapEngine (s : State) (c : Fin 96) (t : Fin 4) (code : TrapCode) (seqNo : Nat) (pc : Addr)
    (insn detail : Word) (addr : Addr) : State :=
  (s.modStream c t fun st =>
    st.trapWith { code := code.num, pc := pc, insn := insn, detail := detail, stoppc := st.pc, addr := addr,
                  multi := false } seqNo).modCore c fun k => k.leaveSem t

/-- The eight words of a trap record (R197). -/
def trapWords (seqN : BitVec 32) (ctx : BitVec 9) (c : Fin 96) (t : Fin 4) (x : TrapInfo) (l : Option LaunchRec)
    (tick : Word) : List Word :=
  [ (seqN.setWidth 64 <<< 32) ||| (x.code.setWidth 64 <<< 24) ||| (ctx.setWidth 64 <<< 15) ||| at' c.val 8 |||
      at' t.val 6 ||| flag x.multi 5,
    x.pc.setWidth 64, x.insn, x.detail, x.stoppc.setWidth 64, x.addr.setWidth 64,
    (match l with
     | some r => (r.pos.setWidth 64 <<< 32) ||| r.queue.setWidth 64
     | none => 0),
    tick ]

/-- Write a trap record into the context's ring and advance SEQ (R196 step 2, R197, R198). A ring whose slot has no
translation or no W right takes no record, as a full one does (log entry 21). -/
def State.writeTrap (s : State) (c : Fin 96) (t : Fin 4) (x : TrapInfo) : State :=
  match (s.core c).ctx with
  | none => s
  | some ctx =>
    let s := s.loadCtx ctx
    let e := s.ctxE ctx
    let seqN := ctxTrseq e
    let n := 2 ^ ctxTrlog e
    -- TRCONS is read from memory again before the ring is declared full (R338)
    let (s, cons) :=
      if (seqN - (ew e 4 >>> 32).setWidth 32).toNat ≥ n then
        let (s, e') := s.readEntry s.host.ctxbase 32 ctx.toNat
        (s, (ew e' 4 >>> 32).setWidth 32)
      else (s, ((ew e 4 >>> 32).setWidth 32 : BitVec 32))
    let e := setEw (s.ctxE ctx) 6 (putFld (ew (s.ctxE ctx) 6) 32 32 (seqN + 1).toNat)
    let s := s.setCtxE ctx e
    let drop (s : State) : State := s.modCore c fun k => { k with trapDrop := true }
    if (seqN - cons).toNat ≥ n then drop s
    else
      let dva := ctxTrbase e + 64 * (seqN.toNat % n)
      let ws := trapWords seqN ctx c t x (s.stream c t).launch s.tick
      match s.blockWrite .engine ctx dva (wordBytes ws) with
      | (s, .ok _) => s
      | (s, .error _) => drop s

/-- Signal the launch's error fence to its error value with the error flag (R196 step 3). -/
def State.signalError (s : State) (c : Fin 96) (t : Fin 4) : State :=
  match (s.stream c t).launch with
  | some l => s.send ⟨l.efence, l.evalue, true, .command⟩
  | none => s

/-! ### A stream becomes IDLE (R173, R181, R201) -/

/-- The LAUNCH of a stream's program is over: its queue goes on (R343, R345, R355). -/
def State.endLaunch (s : State) (l : Option LaunchRec) : State :=
  match l with
  | none => s
  | some l => s.completeCmd l.queue false

/-- Write the context's CRB words back once no stream of it is outside IDLE (R338). -/
def State.crbBack (s : State) (ctx : Option (BitVec 9)) : State :=
  match ctx with
  | none => s
  | some x =>
    if s.ctxBusy x then s
    else match Tbl.find? s.host.ctxs x.toNat with
      | some e => s.ctxWriteBack x.toNat e true
      | none => s

/-- The stream releases its plates and becomes IDLE; what the last PGIVE put in transfer to others stays with its
transfer (R173, R181). -/
def State.idleStream (s : State) (c : Fin 96) (t : Fin 4) : State :=
  let l := (s.stream c t).launch
  let s := s.modStream c t fun st => { st with
    mode := .idle, wait := .none, plates := 0, launch := none, trap := none, aborting := false,
    silent := false, ended := false, held := [], hscale := none, vtake := none, missWaits := false }
  let s := s.modCore c fun k => k.leaveSem t
  ((s.crbBack (s.core c).ctx).endLaunch l).finishAborts c t

/-! ### Issue (R177, R204, R206) -/

/-- Waits that end when the instruction is presented again: a full engine, a scalar operand, a fetch, a plate in
transfer, an engine not yet idle (R175, R180). -/
def WaitFor.retries : WaitFor → Bool
  | .full => true
  | .quadIdle _ => true
  | .plate _ => true
  | .scalar => true
  | .fetch => true
  | _ => false

/-- An instruction of the stream may be presented now: the core runs, no halt has arrived, the stream issues or retries
what an engine held back, and END has not issued. -/
def State.mayIssue (s : State) (p : Site) : Bool :=
  let st := s.stream p.core p.stream
  s.live && ((s.core p.core).mode == .active) && !(s.core p.core).draining && !st.ended &&
    (st.mode == .run || (st.mode == .wait && st.wait.retries))

/-- What an instruction does at issue. -/
inductive Issued where
  /-- It issues with this effect and the next in sequence follows. -/
  | done (s : State)
  /-- It issues into its engine's input queue, and its effect comes later. -/
  | queued (s : State)
  /-- It issues and the stream goes on at another address. -/
  | jump (s : State) (pc : Addr)
  /-- It issues, and its engine reports a fault: the stream stops at the boundary after it. -/
  | fault (s : State) (code : TrapCode) (detail : Word) (addr : Addr)
  /-- A cause found at issue: no effect, a trap with DETAIL and ADDR. -/
  | trap (s : State) (code : TrapCode) (detail : Word) (addr : Addr)
  /-- The instruction does not issue; the stream waits and it is presented again. -/
  | stall (s : State) (w : WaitFor)
  /-- It issues and the stream waits after it. -/
  | wait (s : State) (w : WaitFor)

/-- Bytes of an instruction (R204). -/
def insnLen (w : Word) : Addr := if hasExt w then 16 else 8

/-- The stream has issued an instruction: the counters advance, the stream runs on at `pc`. -/
def Stream.issuedAt (st : Stream) (pc : Addr) : Stream :=
  { st with mode := .run, wait := .none, missWaits := false, pc := pc, seqNo := st.seqNo + 1 }

/-- The cycle of an issue is one in which another stream has issued too, so that `dualcyc` counts it: timing decides,
but never for the core's first issue nor after an issue of the same stream (R178, R203, log entry 16). -/
def Core.dual (k : Core) (p : Site) (tick : Word) : Bool :=
  k.issued != 0 && k.rr != p.stream + 1 && Config.timing 0 p.core tick k.issued.toNat % 2 == 1

/-- Close an issue: the pc, the issue number, the issue counters (R203) and the arbitration pointer (R178) advance. -/
def State.retireTo (s : State) (p : Site) (pc : Addr) : State :=
  (s.modStream p.core p.stream fun st => st.issuedAt pc).modCore p.core
    fun k => { k with issued := k.issued + 1, dualcyc := k.dualcyc + (if k.dual p s.tick then 1 else 0), rr := p.stream + 1 }

/-! ### Cycles of the vector engine (R141, R169) -/

/-- Cycles in which the engine issues a row or a row pair of a vector instruction, and cycles in which a transcendental
unit gives a result: the table of R141. RSEED, RSAVE and RLOAD issue no rows (log entry 16). -/
def vecCycles (vl : Nat) : Instr → Option (Nat × Nat)
  | .vadd _ _ | .vsub _ _ | .vmul _ _ | .vfma _ _ | .vmax _ _ | .vmin _ _ | .vabs _ _ | .vneg _ _ | .vcmp _ _ | .vsel _ _
  | .vand _ _ | .vor _ _ | .vxor _ _ | .vnot _ _ | .vshl _ _ | .vshr _ _ | .vsra _ _ | .vsplat _ _ | .vmov _ _ | .vcvt _ _
  | .vredRow _ _ | .vredCol _ _ | .vscaleRun _ _ | .vrandU32 _ _ | .vrandF32 _ _ => some (32, 0)
  | .vpermRow _ _ | .vpermCol _ _ | .vld _ _ _ | .vst _ _ | .vstMx _ _ | .vtake _ _ => some (64, 0)
  | .vexp _ o | .vlog _ o | .vrcp _ o | .vrsq _ o =>
    let n := 64 * (((if o.fmt = 0 then vl else 2 * vl) + 31) / 32)
    some (n, n)
  | .vexpSub _ _ => some (64 * ((vl + 31) / 32), 64 * ((vl + 31) / 32))
  | .vmaxRun _ _ | .vlse _ _ => some (32, 32)
  | .vget _ _ => some (1, 0)
  | _ => none

/-- The engine's counters advance: by all cycles of an instruction that ran, by some of one that faulted; the results of two
instructions may share up to two cycles, their latencies being 12 and 14 (R141, log entry 16). -/
def Core.vecCount (k : Core) (c : Fin 96) (tick : Word) (n : Nat × Nat) (whole : Bool) : Core :=
  let free (i m : Nat) : Nat := Config.timing i c tick k.issued.toNat % (m + 1)
  { k with
    vxBusycyc := k.vxBusycyc + BitVec.ofNat 64 (if whole then n.1 else free 1 n.1)
    vxTcyc := k.vxTcyc + BitVec.ofNat 64 (if whole then n.2 - free 2 (Min.min 2 n.2) else free 2 n.2) }


/-- Scalar registers an instruction reads or writes (R183, R207). -/
def scalarRegs : Instr → List (BitVec 5)
  | .add _ o | .sub _ o | .mul _ o | .mulhu _ o | .and _ o | .or _ o | .xor _ o | .shl _ o | .shr _ o | .sra _ o
  | .slt _ o | .sltu _ o | .min _ o | .max _ o | .divu _ o | .remu _ o | .jr _ o => [o.rd, o.ra, o.rb]
  | .addi _ o | .andi _ o | .ori _ o | .xori _ o | .shli _ o | .shri _ o | .srai _ o | .slti _ o | .sltiu _ o
  | .movi _ o | .movhi _ o | .vsetvl _ o | .srd _ o | .sflag _ o | .crrd _ o | .crwr _ o => [o.rd, o.ra]
  | .ld64 _ o _ | .ld32 _ o _ | .st64 _ o | .st32 _ o => [o.rd, o.ra]
  | .beq _ o | .bne _ o | .blt _ o | .bge _ o | .bltu _ o | .bgeu _ o | .jal _ o => [o.ra, o.rb]
  | .dcopy _ o | .dcopy2d _ o _ _ | .dgather _ o | .dscatter _ o | .nspf _ o | .nswb _ o | .nsinv _ o
  | .nswbinv _ o => [o.r1, o.r2, o.r3, o.r4]
  | .stash _ o | .unstash _ o => [o.r1, o.r2, o.r3, o.r4]
  | .mmq _ o => [o.ra, o.rw, o.rsa, o.rsw]
  | .mocfg _ o _ => [o.ra]
  | .hscale _ o => [o.rd, o.ra, o.rt]
  | .vsplat _ o | .vget _ o => [o.r]
  | .vld _ o _ | .vst _ o | .vstMx _ o => [o.ra, o.rb, o.rc]
  | .rseed _ o => [o.rs]
  | .rsave _ ra => [ra]
  | .rload _ ra _ => [ra]
  | .fsig _ o => [o.rv, o.rf]
  | .fwait _ o => [o.rv, o.rf, 31#5]
  | .nput _ o | .nget _ o | .nsend _ o | .transitOut _ o | .transitPull _ o | .vaultSave _ o | .vaultCommit _ o
  | .vaultRestore _ o _ | .vaultDrain _ o => [o.rdesc, o.rf, o.rv]
  | _ => []

/-- It reads or writes the register of an HSCALE that runs (R183). -/
def Stream.scalarBusy (st : Stream) (i : Instr) : Bool :=
  match st.hscale with
  | some h => h.rd != 0#5 && (scalarRegs i).contains h.rd
  | none => false

/-- It reads or writes the register of a VGET that the vector engine has not reached (R183, R228). -/
def Core.vgetDue (k : Core) (t : Fin 4) (i : Instr) : Bool :=
  k.vecQ.any fun v => v.stream == t && match v.instr with
    | .vget _ o => o.r != 0#5 && (scalarRegs i).contains o.r
    | _ => false

/-- The instruction waits for a scalar result still outstanding. -/
def State.scalarDue (s : State) (p : Site) (i : Instr) : Bool :=
  (s.stream p.core p.stream).scalarBusy i || (s.core p.core).vgetDue p.stream i

/-- Where an instruction issues: its core, stream, DVA, issue number and first word. -/
structure At where
  c : Fin 96
  t : Fin 4
  pc : Addr
  seqNo : Nat
  insn : Word
deriving DecidableEq, Repr

def State.here (s : State) (p : Site) (w : Word) : At :=
  let st := s.stream p.core p.stream
  ⟨p.core, p.stream, st.pc, st.seqNo, w⟩

/-- The stream waits without its pc advancing. -/
def State.stallAt (s : State) (p : Site) (w : WaitFor) : State :=
  s.modStream p.core p.stream fun st => { st with mode := .wait, wait := w }

/-- Turn what an instruction does at issue into the next state. -/
def finish (p : Site) (a : At) : Issued → State
  | .done s => s.retireTo p (a.pc + insnLen a.insn)
  | .queued s => s.retireTo p (a.pc + insnLen a.insn)
  | .jump s pc => s.retireTo p pc
  | .fault s code detail addr =>
    (s.retireTo p (a.pc + insnLen a.insn)).trapEngine p.core p.stream code a.seqNo a.pc a.insn detail addr
  | .trap s code detail addr => s.trapIssue p.core p.stream code a.insn detail addr
  | .stall s w => s.stallAt p w
  | .wait s w => (s.retireTo p (a.pc + insnLen a.insn)).stallAt p w

/-- The instruction cache holds the line of a word. -/
def Core.inIcache (k : Core) (a : Addr) : Bool := k.icache.any fun x => x.1 == a.toNat / 256

/-- What an instruction does at issue, the cycles counted where it is a vector instruction. -/
def Issued.counted (x : Issued) (i : Instr) (a : At) (vl : Nat) : Issued :=
  match vecCycles vl i, x with
  | some n, .done s => .done (s.modCore a.c fun k => k.vecCount a.c s.tick n true)
  | some n, .fault s code detail addr => .fault (s.modCore a.c fun k => k.vecCount a.c s.tick n false) code detail addr
  | _, x => x

/-- The words of an instruction at the stream's pc have been fetched (R174, R177, R205). -/
def State.fetched (s : State) (p : Site) (w : Word) : Bool :=
  let k := s.core p.core
  let pc := (s.stream p.core p.stream).pc
  k.inIcache pc && (!hasExt w || k.inIcache (pc + 8))

/-- Present an instruction to its stream: its fetch, which a miss holds (R175), legality (R206), operands still
outstanding (R183), then its own effect. -/
def issue (p : Site) (i : Instr) (s : State) (body : At → State → Issued) : Out :=
  let ws := (encode i).getD (0, 0)
  let a := s.here p ws.1
  guard (s.mayIssue p) "the stream does not issue"
    (if !s.fetched p ws.1 then s.stallAt p .fetch else
     match illegalDetail ws.1 ws.2 with
     | some d => finish p a (.trap s .illegal (BitVec.ofNat 64 d) 0)
     | none => if s.scalarDue p i then s.stallAt p .scalar
       else finish p a ((body a s).counted i a (s.stream p.core p.stream).vl.toNat))

/-! ### Engine fault registers (R107, R134, R158, R259) -/

/-- Record a fault where VALID is 0; set OVERRUN where it is 1. -/
def faultReg (old new : Word) : Word := if old.getLsbD 63 then old ||| 0x4000000000000000#64 else new

/-- Clear the fault registers whose STREAM field names the stream, and restart its DMA channel (R200, R201, R259). -/
def Core.clearFaults (k : Core) (t : Fin 4) : Core :=
  { k with
    pfault := k.pfault.map fun w => if nfld w 58 2 = t.val then 0 else w
    opFault := if nfld k.opFault 60 2 = t.val then 0 else k.opFault
    vxFault := if nfld k.vxFault 60 2 = t.val then 0 else k.vxFault
    dmaFault := if nfld k.dmaFault 59 3 = t.val then 0 else k.dmaFault
    dmaFaddr := if nfld k.dmaFault 59 3 = t.val then 0 else k.dmaFaddr
    dmaHalted := k.dmaHalted &&& ~~~(1#5 <<< t.val) }

/-! ### ABORT of a stream (R201, R202) -/

/-- Work of the stream that has not started is discarded (R201 step 2). -/
def Core.discardUnstarted (k : Core) (t : Fin 4) : Core :=
  { k with
    tileQ := k.tileQ.map fun q => q.filter fun x => !(x.stream == t && x.rowsRead == 0)
    vecQ := k.vecQ.filter fun v => v.stream != t
    handoff := k.handoff.map fun h =>
      if k.vecQ.any fun v => v.stream == t && v.entry == some h.id then { h with claimed := false } else h
    dmaQ := k.dmaQ.filter fun d => !(d.channel.val == t.val && !d.started)
    modeWait := match k.modeWait with
      | some (m, u, n) => if u = t then none else some (m, u, n)
      | none => none }

/-- ABORT: a stream in RUN or WAIT drains; one in DRAIN finishes its trap first; one TRAPPED becomes IDLE at once. -/
def State.abortStream (s : State) (c : Fin 96) (t : Fin 4) (silent : Bool) : State :=
  match (s.stream c t).mode with
  | .idle => s
  | .trapped => (s.modCore c fun k => k.clearFaults t).idleStream c t
  | .drain => s.modStream c t fun st =>
    { st with aborting := true, silent := silent, held := if silent then [] else st.held }
  | _ =>
    (s.modCore c fun k => (k.discardUnstarted t).leaveSem t).modStream c t fun st =>
      { st with mode := .drain, wait := .none, missWaits := false, aborting := true, silent := silent, held := [] }

end Sys2Proof.Machine
end

