-- ==== Sys2Proof/Machine/Operands.lean ====
section
/-! DEFINITION. The operand forms of the instructions: register and immediate operands of the scalar layouts, effective
addresses, the fence operand, and the fields of vector layouts (R207-R212, R230). -/
namespace Sys2Proof.Machine

/-- A scalar register of the issuing stream. -/
def State.rx (s : State) (a : At) (r : BitVec 5) : Word := (s.stream a.c a.t).reg r

/-- Write a scalar register of the issuing stream. -/
def State.wx (s : State) (a : At) (r : BitVec 5) (v : Word) : State := s.modStream a.c a.t fun st => st.setReg r v

/-- Layout R: rd from ra and rb. -/
def opR (o : LayR) (f : Word → Word → Word) (a : At) (s : State) : Issued :=
  .done (s.wx a o.rd (f (s.rx a o.ra) (s.rx a o.rb)))

/-- Layout I: rd from ra and the sign-extended immediate (R208). -/
def opI (o : LayI) (f : Word → Word → Word) (a : At) (s : State) : Issued :=
  .done (s.wx a o.rd (f (s.rx a o.ra) (sext64 o.imm)))

/-- Effective address of layout M (R209): 48 bits of ra + OFF. -/
def eaM (o : LayM) (a : At) (s : State) : Addr := addr48 (s.rx a o.ra + sext64 o.off)

/-- The target of a taken branch (R210). -/
def branchTarget (a : At) (off : BitVec 32) : Addr := addr48 (a.pc.setWidth 64 + 8 * sext64 off)

/-- A conditional branch. -/
def opB (o : LayB) (f : Word → Word → Bool) (a : At) (s : State) : Issued :=
  if f (s.rx a o.ra) (s.rx a o.rb) then .jump s (branchTarget a o.off) else .done s

/-- The fence an F or P layout names: the field, or the whole of a register (R230). None at or beyond 16,384. -/
def fenceNo (s : State) (a : At) (fence : BitVec 14) (reg : Bool) (rf : BitVec 5) : Option (BitVec 14) :=
  if reg then
    if (s.rx a rf).toNat < 16384 then some ((s.rx a rf).setWidth 14) else none
  else some fence

/-- The number DETAIL shows for a fence that may not be named (R195). -/
def fenceDetail (s : State) (a : At) (fence : BitVec 14) (reg : Bool) (rf : BitVec 5) : Word :=
  if reg then s.rx a rf else fence.setWidth 64

/-- The context of the issuing core. -/
def State.ctxOf (s : State) (c : Fin 96) : BitVec 9 := (s.core c).ctx.getD 0

/-- Check a fence operand for a signal or a wait of the issuing context (R192, R353). -/
def State.checkFence (s : State) (a : At) (fence : BitVec 14) (reg : Bool) (rf : BitVec 5) (sig : Bool) :
    State × Option (BitVec 14) :=
  match fenceNo s a fence reg rf with
  | none => (s, none)
  | some f =>
    let c := s.ctxOf a.c
    let s := (s.loadCtx c).loadFence f
    let ok := if sig then maySignal c (s.ctxE c) (s.fenceE f) else mayWait c (s.ctxE c) (s.fenceE f)
    (s, if ok then some f else none)

/-- A failed scalar access as a trap at issue (R209). -/
def scalarErr (s : State) : AccErr → Issued
  | .xlate d => .trap s .scalarMem 1 (BitVec.ofNat 48 d)
  | .right d => .trap s .scalarMem 2 (BitVec.ofNat 48 d)
  | .poison d => .trap s .scalarMem 3 (BitVec.ofNat 48 d)
  | .withheld => .stall s .scalar

/-- A scalar load of n bytes (R209): address bits below the size are ignored. -/
def opLoad (o : LayM) (n : Nat) (u : Upset) (a : At) (s : State) : Issued :=
  let d := (eaM o a s).toNat / n * n
  match s.loadBytes a.c a.t (some .scalar) d n u with
  | (s, .ok bs) => .done (s.wx a o.rd (BitVec.ofNat 64 (leNat bs)))
  | (s, .error e) => scalarErr s e

/-- A scalar store of n bytes. -/
def opStore (o : LayM) (n : Nat) (a : At) (s : State) : Issued :=
  let d := (eaM o a s).toNat / n * n
  match s.storeBytes a.c a.t a.seqNo .seq d (leBytes n (s.rx a o.rd).toNat) with
  | (s, .ok _) => .done s
  | (s, .error e) => scalarErr s e

end Sys2Proof.Machine
end

