-- ==== Sys2Proof/Machine/Cores.lean ====
section
/-! DEFINITION. Core states, the mesh clock and the context switch (R32, R34-R38, R171, R202, R456). -/
namespace Sys2Proof.Machine

/-! ### Who may act now -/

/-- The module runs: power is good and no module reset holds it (R30, R520). -/
def State.on (s : State) : Bool := s.sup.power == .running

/-- The always-on domain runs: also while a trip stands (R30, R535). -/
def State.aon (s : State) : Bool := s.sup.power == .running || s.sup.power == .tripped

/-- A register write by this master reaches a block outside the always-on domain: none does in deep idle (R33); the
curator's own path lives through a halt (R307) but not through a curator restart (R503); a queue pair needs the fabric. -/
def State.busOpen (s : State) (m : RegMaster) : Bool :=
  s.on && match m with
    | .curator => !s.cur.restarting && !s.cur.deepIdle
    | .host => s.live && !s.cur.deepIdle

/-- The engines of a core do work: it is ACTIVE and not being quarantined, and no halt has arrived. -/
def State.runs (s : State) (c : Fin 96) : Bool := s.live && ((s.core c).mode == .active) && !(s.core c).draining

/-- Work already in the engines of a core completes, also while a QUARANTINE drains (R37, R107, R134, R266). -/
def State.completes (s : State) (c : Fin 96) : Bool := s.live && (s.core c).mode == .active

def State.ctlReject (s : State) : State := s.modGlob fun g => { g with ctlReject := true }

/-- A core number of a command (R43). -/
def coreOf (n : BitVec 7) : Option (Fin 96) := if h : n.toNat < 96 then some ⟨n.toNat, h⟩ else none

/-! ### What a core keeps (R34, R36, R171) -/

/-- Steps 3 to 5 of R171: semaphores, plates and masks, the quad, and the flags. -/
def Core.clearWork (k : Core) : Core :=
  { k with
    sems := Vector.replicate 64 0, plates := [], streams := k.streams.map fun t => { t with plates := 0, giving := [] },
    arrs := k.arrs.map fun a => { a with active := ⟨[], []⟩, shadow := ⟨[], []⟩, acc := [] },
    handoff := [], odesc := Vector.replicate 4 (Vector.replicate 8 0), chainFlags := [],
    tflags := 0, vflags := 0 }

/-- Step 6 of R171. DESIGN CHOICE (log entry 46): a held genlo write and a genhi capture are dropped. -/
def Core.seedGens (k : Core) : Core :=
  { k with gens := Vector.ofFn fun g => Gen.seeded 0 0 g.val, genHeld := [], genCapture := none }

/-- Steps 1 and 2 of R171, the writes having been accepted: near store, instruction cache and translation cache. -/
def Core.clearCaches (k : Core) : Core := { k.nsClear with icache := [], tlb := [], tlbUpper := [], pf := [] }

/-- A launch or a copy of context x on a core that serves x or no context: an unbound core that ran another context last
goes through R171 first. -/
def Core.bindCtx (k : Core) (x : BitVec 9) : Core :=
  { (if k.ctx = none ∧ k.lastCtx ≠ some x then k.clearCaches.clearWork.seedGens else k) with
    ctx := some x, lastCtx := some x, idleTicks := 0 }

/-- Power off: nothing of the streams and caches is kept; the generators and the number of the last context are, in
retention cells (R36, R166, R171). DESIGN CHOICE (log entry 45): the queue a stream last served is kept as well. -/
def Core.powerOff (k : Core) : Core :=
  { k.clearCaches with
    mode := .gated, draining := false,
    streams := k.streams.map fun t => { Stream.reset with lastQueue := t.lastQueue },
    lastCtx := match k.ctx with
      | some x => some x
      | none => k.lastCtx
    ctx := none, semOrder := [], modeBusy := false, modeWait := none, tileQ := Vector.replicate 4 [],
    arrs := k.arrs.map fun a => { a with flights := [], ramp := .steady, level := 0, credit := 0, noFill := false },
    outQ := Vector.replicate 4 [], handoff := [], vecQ := [], wq := [], dmaQ := [], dmaHalted := 0 }

/-- Every stream of the core is IDLE. -/
def Core.allIdle (k : Core) : Bool := k.streams.toList.all fun t => t.mode == .idle

/-- Tiles, rows or outputs are in the quad. -/
def Core.quadBusy (k : Core) : Bool :=
  (k.tileQ.toList.any fun q => !q.isEmpty) || (k.arrs.toList.any fun a => !a.flights.isEmpty) ||
    (k.outQ.toList.any fun q => !q.isEmpty)

/-! ### QUARANTINE, RELEASE, RETIRE (R37, R38, R202) -/

/-- Issue stops, waits are abandoned, signals not performed are dropped, queued tiles and vector instructions are discarded
(R107, R168), and the DMA engine starts nothing more. -/
def Core.stopIssue (k : Core) : Core :=
  { k with
    draining := true, semOrder := [], modeWait := none,
    streams := k.streams.map fun t => { t with
      mode := if t.mode = .wait then .run else t.mode
      wait := .none, held := [] }
    tileQ := k.tileQ.map fun q => q.filter fun x => decide (x.rowsRead > 0)
    outQ := k.outQ.map fun q => q.filter fun x => x.started
    vecQ := [], fills := [], fillQ := [] }

/-- The mesh runs for what needs it (R32). -/
def State.wakeMesh (s : State) : State := s.modGlob fun g => { g with meshRun := true, meshIdle := 0 }

/-- A `chip.glob.corectl` write with ACTION QUARANTINE. DESIGN CHOICE (log entry 45): a second one while the drain runs has
no effect and sets no CTL_REJECT. -/
def State.quarantineOp (s : State) (n : BitVec 7) : State :=
  match coreOf n with
  | none => s.ctlReject
  | some c =>
    match (s.core c).mode with
    | .gated => (s.modCore c fun k => { k with mode := .quarantined }).wakeMesh
    | .active => if (s.core c).draining then s else s.modCore c Core.stopIssue
    | _ => s.ctlReject

/-- A COPY that the core's channel 4 held stays in its queue until its core can run it (R38, R456). -/
def State.waitCopies (s : State) (c : Fin 96) : State :=
  (((s.core c).dmaQ.filter fun d => d.channel == 4).map fun d => d.queue).foldl (fun s q =>
    match s.takenOf q with
    | some x => s.stageCmd q x .waiting
    | none => s) s

/-- The stream state of a QUARANTINED core is discarded; the context's register block is written back with its
last streams (R338), the queues of its LAUNCHes stop, its COPYs wait again, and ABORTs that waited for its streams are
complete (R202, R456). -/
def State.discardCore (s : State) (c : Fin 96) : State :=
  let s := s.waitCopies c
  let ls := (s.core c).streams.toList.map fun t => t.launch
  let s := (s.modCore c Core.powerOff).crbBack (s.core c).ctx
  let s := ls.foldl (fun s l => s.stopLaunch l) s
  (List.finRange 4).foldl (fun s t => s.finishAborts c t) s

/-- ACTION RELEASE. -/
def State.releaseOp (s : State) (n : BitVec 7) : State :=
  match coreOf n with
  | none => s.ctlReject
  | some c => if (s.core c).mode = .quarantined then s.discardCore c else s.ctlReject

/-- Words 0 to 2 of a repair record, and bytes 0 to 7 of their digest (R512). -/
def RepairRec.words (r : RepairRec) : List Word :=
  [r.tick, (r.resetgen.setWidth 64 <<< 32) ||| (r.unit.setWidth 64 <<< 8) ||| r.kind.setWidth 64, r.value]
def RepairRec.digest (r : RepairRec) : Word := (leWords 1 (shaBytes (wordBytes r.words))).headD 0

/-- A record whose CHECK holds. -/
def RepairRec.good (r : RepairRec) : Bool := r.check == r.digest

/-- A record with its CHECK. -/
def RepairRec.sealed (r : RepairRec) : RepairRec := { r with check := r.digest }

/-- The curator appends a repair record (R457, R512); a full partition takes none. -/
def State.addRepair (s : State) (unit kind : Nat) (v : Word) : State :=
  let n := s.alm.repair.length
  let s := if n + 1 ≥ 131072 then s.modCur fun c => { c with repairFull := true } else s
  if n ≥ 131072 then s
  else s.modAlm fun a => { a with repair := a.repair ++
    [RepairRec.sealed
      { tick := s.tick, resetgen := s.reg.resetgen, unit := BitVec.ofNat 8 unit, kind := BitVec.ofNat 8 kind, value := v
        check := 0 }] }

/-- ACTION RETIRE; the curator's next scan writes the repair record (R457). -/
def State.retireOp (s : State) (n : BitVec 7) : State :=
  match coreOf n with
  | none => s.ctlReject
  | some c =>
    if (s.core c).mode = .quarantined then
      (s.discardCore c).modCore c fun k => { k with mode := .retired }
    else s.ctlReject

def execQuarantine (m : RegMaster) (n : BitVec 7) (s : State) : Out :=
  guard (s.busOpen m) "no register path" (s.quarantineOp n)
def execRelease (m : RegMaster) (n : BitVec 7) (s : State) : Out :=
  guard (s.busOpen m) "no register path" (s.releaseOp n)
def execRetire (m : RegMaster) (n : BitVec 7) (s : State) : Out :=
  guard (s.busOpen m) "no register path" (s.retireOp n)

/-- The last write is accepted and the state reads QUARANTINED (R37); tiles cut off by it are gone (R107). -/
def execQuarantineDrainDone (c : Fin 96) (s : State) : Out :=
  let k := s.core c
  guard (s.live && k.mode == .active && k.draining && (k.arrs.toList.all fun a => a.flights.isEmpty) &&
      (k.outQ.toList.all fun q => q.isEmpty)) "no quarantine drains"
    ((s.acceptAll c).modCore c fun k => { k with
      mode := .quarantined, draining := false, tileQ := Vector.replicate 4 [] })

/-! ### Waking and gating (R35, R36, R38) -/

/-- A taken LAUNCH, COPY or QUERY waits for core c, to which its queue is bound (R35, R343). -/
def State.demand (s : State) (c : Fin 96) : Bool :=
  (s.takenWhere fun x => x.stage == .waiting && (cmdKind x.words == 1 || cmdKind x.words == 2 || cmdKind x.words == 7)).any
    fun q => qCore (s.queueV q) == c.val

/-- Start-up has released the cores, and the mesh can run. -/
def State.coresUp (s : State) : Bool := s.on && s.live && s.glob.released && !s.cur.deepIdle

/-- A GATED core with a demand becomes ACTIVE with steps 3 to 5 of R171, once the mesh runs (R32); step 6 follows at the
launch that names another context. -/
def execCoreWake (c : Fin 96) (s : State) : Out :=
  guard (s.coresUp && s.glob.meshRun && (s.core c).mode == .gated && s.demand c) "no demand on a gated core"
    (s.modCore c fun k => { k.clearWork with mode := .active, idleTicks := 0 })

/-- Nothing of the core runs or waits (R36); while fillers run the quad is busy (R100). -/
def Core.idle (k : Core) : Bool :=
  k.allIdle && k.dmaQ.isEmpty && k.handoff.isEmpty && k.semOrder.isEmpty && !k.quadBusy &&
    k.arrs.toList.all fun a => a.level == 0

/-- A core that has been idle for DELAY ticks is gated: the near store is written back first. DELAY = 0 disables it. -/
def execCoreGate (c : Fin 96) (s : State) : Out :=
  let k := s.core c
  guard (s.live && k.mode == .active && !k.draining && k.idle && !s.demand c && s.glob.gatedelay != 0 &&
      decide (k.idleTicks ≥ s.glob.gatedelay.toNat)) "the core has not been idle for DELAY ticks"
    ((s.acceptAll c).modCore c Core.powerOff)

/-- A tick passes at a core: its idle ticks are counted, and a demand restarts the count (R36, R38). -/
def State.coreTick (s : State) (c : Fin 96) : Core :=
  let k := s.core c
  { k with idleTicks := if k.mode = .active && k.idle && !s.demand c then k.idleTicks + 1 else 0 }

/-! ### Mesh clock (R32) -/

/-- A core runs, or a transfer of DMA, fabric, vault or transit is in flight. -/
def State.meshBusy (s : State) : Bool :=
  (s.cores.toList.any fun k => k.mode == .active || k.mode == .quarantined) ||
    ((List.finRange 96).any fun c => s.demand c) || !s.fab.reqs.isEmpty || !s.host.inbox.isEmpty ||
    !s.host.mirrors.isEmpty || (s.fab.qps.any fun q => !q.2.out.isEmpty) || (s.fab.sess.any fun x => !x.2.out.isEmpty) ||
    !s.vault.jobs.isEmpty || s.vault.drain.isSome || (s.tr.exch.any fun x => x.phase != .finished) || s.tr.pull.isSome

/-- The mesh clock stops after 250 ticks in which nothing has needed it. -/
def execMeshClockStop (s : State) : Out :=
  guard (s.on && s.glob.meshRun && !s.meshBusy && decide (s.glob.meshIdle ≥ 250)) "the mesh is needed"
    (s.modGlob fun g => { g with meshRun := false })

def execMeshClockStart (s : State) : Out :=
  guard (s.on && !s.glob.meshRun && s.glob.serviceRun && !s.cur.deepIdle) "the mesh runs or is held"
    s.wakeMesh

/-! ### Launches that wait, and the context switch (R171, R179, R343) -/

/-- Queues with a LAUNCH waiting for stream t of core c: RUNNING entries on chip whose command has been taken. -/
def State.launchQueues (s : State) (c : Fin 96) (t : Fin 4) : List (BitVec 13) :=
  (s.takenWhere fun x => x.stage == .waiting && cmdKind x.words == 1).filter fun q =>
    let e := s.queueV q
    qCore e == c.val && qStream e == t

/-- The next of them in ascending order after the last served (R343). -/
def State.nextLaunch (s : State) (c : Fin 96) (t : Fin 4) : Option (BitVec 13) :=
  let qs := s.launchQueues c t
  match qs.find? fun q => decide ((s.stream c t).lastQueue.toNat < q.toNat) with
  | some q => some q
  | none => qs.head?

/-- COPY commands that wait for channel 4 of core c. -/
def State.copyQueues (s : State) (c : Fin 96) : List (BitVec 13) :=
  (s.takenWhere fun x => x.stage == .waiting && cmdKind x.words == 2).filter fun q => qCore (s.queueV q) == c.val

/-- The context of a launch, or of a copy command, that waits on the core for another context. -/
def State.switchTo (s : State) (c : Fin 96) : Option (BitVec 9) :=
  (((List.finRange 4).filterMap fun t => s.nextLaunch c t) ++ s.copyQueues c).findSome? fun q =>
    let x := qCtx (s.queueV q)
    match (s.core c).ctx with
    | some y => if x ≠ y then some x else none
    | none => none

/-- The whole of R171. -/
def State.switchCtx (s : State) (c : Fin 96) (x : Option (BitVec 9)) : State :=
  let s := s.acceptAll c
  s.modCore c fun k => { (k.clearCaches.clearWork.seedGens) with
    ctx := x
    lastCtx := match x with
      | some y => some y
      | none => k.ctx }

def execContextSwitch (c : Fin 96) (s : State) : Out :=
  match s.switchTo c with
  | some x => guard (s.runs c && (s.core c).allIdle && !(s.core c).quadBusy && (s.core c).dmaQ.isEmpty) "a stream of the core is not IDLE"
      (s.switchCtx c (some x))
  | none => .refused (.notEnabled "no launch for another context waits")

end Sys2Proof.Machine
end

