-- ==== Sys2Proof/Machine/Aes.lean ====
section
/-! DEFINITION. The AES-256 block function (FIPS 197), which the rules name for the stacks, NCT, transit and the registrar
(R299, R300, R379, R408, R482). The spec names the standard; its contents are the standard's (PRESUMED, log entry 49). -/
namespace Sys2Proof.Machine

/-- The S-box: the substitute of byte b in bits [8b + 7:8b]. -/
def aesSbox : Nat := 0x16bb54b00f2d99416842e6bf0d89a18cdf2855cee9871e9b948ed9691198f8e19e1dc186b95735610ef6034866b53e708a8bbd4b1f74dde8c6b4a61c2e2578ba08ae7a65eaf4566ca94ed58d6d37c8e779e4959162acd3c25c2406490a3a32e0db0b5ede14b8ee4688902a22dc4f816073195d643d7ea7c41744975fec130ccdd2f3ff1021dab6bcf5389d928f40a351a89f3c507f02f94585334d43fbaaefd0cf584c4a39becb6a5bb1fc20ed00d153842fe329b3d63b52a05a6e1b1a2c830975b227ebe28012079a059618c323c7041531d871f1e5a534ccf73f362693fdb7c072a49cafa2d4adf04759fa7dc982ca76abd7fe2b670130c56f6bf27b777c63

/-- SubBytes of one byte. -/
def aesSub (b : Nat) : Nat := (aesSbox >>> (8 * b)) % 256
/-- Multiplication by x in GF(2^8). -/
def aesXt (a : Nat) : Nat := (2 * a) ^^^ (a / 128 * 0x11B)

/-- Add byte strings. -/
def aesXor (a b : List Nat) : List Nat := List.zipWith (· ^^^ ·) a b

/-- Round keys of 16 bytes, two for each step of the schedule: `k` holds the latest eight words as bytes. -/
def aesKeys : (n : Nat) → (rc : Nat) → List Nat → List (List Nat)
  | 0, _, _ => []
  | n + 1, rc, k =>
    let t := ((k.drop 29 ++ [k.getD 28 0]).map aesSub)
    let w0 := aesXor (k.take 4) (aesXor t [rc, 0, 0, 0])
    let w1 := aesXor ((k.drop 4).take 4) w0
    let w2 := aesXor ((k.drop 8).take 4) w1
    let w3 := aesXor ((k.drop 12).take 4) w2
    let w4 := aesXor ((k.drop 16).take 4) (w3.map aesSub)
    let w5 := aesXor ((k.drop 20).take 4) w4
    let w6 := aesXor ((k.drop 24).take 4) w5
    let w7 := aesXor ((k.drop 28).take 4) w6
    let k' := w0 ++ w1 ++ w2 ++ w3 ++ w4 ++ w5 ++ w6 ++ w7
    (k.take 16) :: (k.drop 16) :: aesKeys n (aesXt rc) k'

/-- MixColumns. -/
def aesMix : List Nat → List Nat
  | a :: b :: c :: d :: t =>
    let x := a ^^^ b ^^^ c ^^^ d
    (a ^^^ x ^^^ aesXt (a ^^^ b)) :: (b ^^^ x ^^^ aesXt (b ^^^ c)) :: (c ^^^ x ^^^ aesXt (c ^^^ d)) ::
      (d ^^^ x ^^^ aesXt (d ^^^ a)) :: aesMix t
  | _ => []

/-- ShiftRows. -/
def aesShift (s : List Nat) : List Nat := (List.range 16).map fun i => s.getD (5 * i % 16) 0

/-- The rounds after the first key is added; the last mixes no columns. -/
def aesRounds : List (List Nat) → List Nat → List Nat
  | [], s => s
  | [k], s => aesXor (aesShift (s.map aesSub)) k
  | k :: t, s => aesRounds t (aesXor (aesMix (aesShift (s.map aesSub))) k)

/-- The k lowest bytes of a number, first byte most significant. -/
def natBytes (n : Nat) : (k : Nat) → List Nat
  | 0 => []
  | k + 1 => (n >>> (8 * k)) % 256 :: natBytes n k

/-- The number bytes spell, first byte most significant. -/
def bytesNat (l : List Nat) : Nat := l.foldl (fun n b => n * 256 + b) 0

/-- AES-256 of a block, byte 0 of key and block being the most significant. -/
def aes256 (key : BitVec 256) (b : BitVec 128) : BitVec 128 :=
  match (aesKeys 8 1 (natBytes key.toNat 32)).take 15 with
  | k :: t => BitVec.ofNat 128 (bytesNat (aesRounds t (aesXor (natBytes b.toNat 16) k)))
  | [] => b

end Sys2Proof.Machine
end

