-- ==== Sys2Proof/Machine/Crypto.lean ====
section
/-! DEFINITION. The ciphers the rules name, over the AES-256 block function: GHASH and GCM of NIST SP 800-38D,
XTS of IEEE 1619, and the tag of R300 (R299, R300, R488). Blocks are held with byte 0 as the most significant byte. -/
namespace Sys2Proof.Machine

/-- Bytes as a number, first byte most significant. -/
def beNat (bs : List Byte) : Nat := bs.foldl (fun n b => n * 256 + b.toNat) 0

/-- A 16-byte block; a shorter tail is padded with zeros on the right. -/
def blockOf (bs : List Byte) : BitVec 128 := BitVec.ofNat 128 (beNat ((bs ++ List.replicate 16 0).take 16))

/-- The bytes of a block. -/
def blockBytes (b : BitVec 128) : List Byte := beBytes 16 b.toNat

/-- Blocks of a byte string. -/
def blocksOf : (n : Nat) → List Byte → List (BitVec 128)
  | 0, _ => []
  | n + 1, bs => if bs.isEmpty then [] else blockOf (bs.take 16) :: blocksOf n (bs.drop 16)

/-! ### GHASH -/

/-- Multiplication in the field of GCM, bit 0 being the most significant bit of a block. -/
def gcmMulGo (x : BitVec 128) : (n : Nat) → (z v : BitVec 128) → BitVec 128
  | 0, z, _ => z
  | n + 1, z, v =>
    let z := if x.getLsbD n then z ^^^ v else z
    gcmMulGo x n z ((v >>> 1) ^^^ (if v.getLsbD 0 then 0xE1#128 <<< 120 else 0))

def gcmMul (x y : BitVec 128) : BitVec 128 := gcmMulGo x 128 0 y

def ghash (h : BitVec 128) (xs : List (BitVec 128)) : BitVec 128 := xs.foldl (fun y x => gcmMul (y ^^^ x) h) 0

/-! ### AES-256-GCM with a 96-bit nonce -/

/-- The counter block n of a nonce. -/
def gcmCtr (nonce : List Byte) (n : Nat) : BitVec 128 := blockOf (nonce.take 12 ++ beBytes 4 n)

/-- Encrypt or decrypt: the key stream from counter 2 on. -/
def gcmStream (key : BitVec 256) (nonce : List Byte) : (blocks i : Nat) → List Byte → List Byte
  | 0, _, _ => []
  | n + 1, i, bs =>
    if bs.isEmpty then []
    else
      let k := blockBytes (aes256 key (gcmCtr nonce i))
      List.zipWith (· ^^^ ·) (bs.take 16) k ++ gcmStream key nonce n (i + 1) (bs.drop 16)

def gcmCrypt (key : BitVec 256) (nonce bs : List Byte) : List Byte := gcmStream key nonce (bs.length / 16 + 1) 2 bs

/-- The tag over additional data and ciphertext. -/
def gcmTag (key : BitVec 256) (nonce aad ct : List Byte) : List Byte :=
  let h := aes256 key 0
  let len := BitVec.ofNat 128 (8 * aad.length * 2 ^ 64 + 8 * ct.length)
  let xs := blocksOf (aad.length / 16 + 1) aad ++ blocksOf (ct.length / 16 + 1) ct ++ [len]
  blockBytes (ghash h xs ^^^ aes256 key (gcmCtr nonce 1))

/-- Open a sealed string: nothing where the tag fails. -/
def gcmOpen (key : BitVec 256) (nonce aad ct tag : List Byte) : Option (List Byte) :=
  if gcmTag key nonce aad ct = tag then some (gcmCrypt key nonce ct) else none

/-! ### XTS-AES-256 of a line (R299) -/

/-- The block with byte 0 least significant, as IEEE 1619 multiplies by α. -/
def xtsDouble (b : BitVec 128) : BitVec 128 :=
  let n := leNat (blockBytes b)
  blockOf (leBytes 16 (((2 * n) % 2 ^ 128) ^^^ (if n ≥ 2 ^ 127 then 0x87 else 0)))

/-- The tweaks T_0, T_1, … of the data unit with sequence number A. -/
def xtsTweaks : (n : Nat) → BitVec 128 → List (BitVec 128)
  | 0, _ => []
  | n + 1, t => t :: xtsTweaks n (xtsDouble t)

/-- The ciphertext of a line under K1 and K2. -/
def xtsLine (k1 k2 : BitVec 256) (a : Nat) (x : Line) : List Byte :=
  let ts := xtsTweaks 16 (aes256 k2 (blockOf (leBytes 16 a)))
  (List.zipWith (fun b t => blockBytes (aes256 k1 (b ^^^ t) ^^^ t)) (blocksOf 16 x.toList) ts).flatten

/-- The integrity tag of R300 over a line's ciphertext, its address value and its owner class: bytes 0 to 11. -/
def lineTag (k3 : BitVec 256) (ct : List Byte) (a : Nat) (owner : BitVec 4) : List Byte :=
  let h := aes256 k3 0
  let last := blockOf (beBytes 8 a ++ [owner.setWidth 8])
  (blockBytes (aes256 k3 (ghash h (blocksOf 16 ct ++ [last])))).take 12

/-- The ciphertext the stacks hold for a line: under the boot key and the address value it was written under, which a
copy in the vault keeps from its source (R299, R314). -/
def Mem.cipher (m : Mem) (l : Nat) : List Byte :=
  let x := m.sideKey l
  xtsLine (Config.bootK1 x.keyGen) (Config.bootK2 x.keyGen) x.a (m.lineText l)

/-- The tag beside it. -/
def Mem.tagOf (m : Mem) (l : Nat) : List Byte :=
  let x := m.sideKey l
  lineTag (Config.bootK3 x.keyGen) (m.cipher l) x.a x.owner

/-! ### A line as its group holds it (R272, R273) -/

/-- The sideband bits of a line: tag, poison, owner class (R272). -/
def Mem.sideband (m : Mem) (l : Nat) : BitVec 256 :=
  let x := m.sideKey l
  BitVec.ofNat 256 (leNat (m.tagOf l) + x.poison.toNat * 2 ^ 96 + x.owner.toNat * 2 ^ 97)

/-- The inverse of α + 1 in GF(2^16). -/
def gfInv3 : BitVec 16 := 0xF006#16

/-- Multiplication in GF(2^16) with the polynomial of R273. -/
def gfMul (a b : BitVec 16) : BitVec 16 :=
  (List.range 16).foldl (fun z i => if b.getLsbD i then z ^^^ gfAlpha a i else z) 0

/-- The eleven symbols of beat b of a line: eight data symbols, the sideband symbol, and P0 and P1, which make both
conditions of R273 hold. -/
def Mem.symbols (m : Mem) (l : Nat) (b : Fin 16) : List (BitVec 16) :=
  let ct := m.cipher l
  let d := (List.range 8).map fun j => BitVec.ofNat 16 (leNat ((ct.drop (16 * b.val + 2 * j)).take 2))
  let xs := d ++ [(m.sideband l).extractLsb' (16 * b.val) 16]
  let s0 := xs.foldl (fun a x => a ^^^ x) 0
  let s1 := xs.zipIdx.foldl (fun a x => a ^^^ gfAlpha x.1 (10 - x.2)) 0
  let p0 := gfMul (s0 ^^^ s1) gfInv3
  xs ++ [p0, s0 ^^^ p0]

end Sys2Proof.Machine
end

