-- ==== Sys2Proof/Machine/Slh.lean ====
section
/-! DEFINITION. SLH-DSA of FIPS 205 as far as the module uses it: key generation from three seeds and the deterministic pure
signature with an empty context of SLH-DSA-SHA2-128f, and the verification of both parameter sets of R12 (R439, R468, R478,
R481, R493, R513; PRESUMED, log entry 49). -/
namespace Sys2Proof.Machine

/-- An address: layer, tree, type, and its last three words (key pair; chain or height; hash or index). -/
structure SlhAdrs where
  layer : Nat
  tree : Nat
  typ : Nat
  kp : Nat
  hi : Nat
  lo : Nat
deriving DecidableEq, Repr

/-- The 22 compressed bytes of an address. -/
def SlhAdrs.bytes (a : SlhAdrs) : List Byte :=
  beBytes 1 a.layer ++ beBytes 8 a.tree ++ beBytes 1 a.typ ++ beBytes 4 a.kp ++ beBytes 4 a.hi ++ beBytes 4 a.lo

/-- The seeds of a key pair. -/
structure SlhKey where
  skSeed : List Byte
  skPrf : List Byte
  pkSeed : List Byte

/-- The tweakable hash of all four roles (PRF, F, H, T) in security category 1. -/
def SlhKey.hash (k : SlhKey) (a : SlhAdrs) (m : List Byte) : List Byte :=
  (shaBytes (k.pkSeed ++ List.replicate 48 0 ++ a.bytes ++ m)).take 16

/-- n digits of b bits of a byte string, most significant first. -/
def slhDigits (bs : List Byte) (b n : Nat) : List Nat :=
  let x := bs.foldl (fun n c => n * 256 + c.toNat) 0
  (List.range n).map fun i => x / 2 ^ (8 * bs.length - b * (i + 1)) % 2 ^ b

/-! ### WOTS+ -/

/-- n steps of a chain from step i. -/
def SlhKey.chain (k : SlhKey) (a : SlhAdrs) : (n i : Nat) → List Byte → List Byte
  | 0, _, x => x
  | n + 1, i, x => k.chain a n (i + 1) (k.hash { a with lo := i } x)

/-- The secret value of chain i of a key pair. -/
def SlhKey.wotsSk (k : SlhKey) (a : SlhAdrs) (i : Nat) : List Byte :=
  k.hash { a with typ := 5, hi := i, lo := 0 } k.skSeed

/-- The public key of key pair `a.kp`. -/
def SlhKey.wotsPk (k : SlhKey) (a : SlhAdrs) : List Byte :=
  k.hash { a with typ := 1, hi := 0, lo := 0 }
    ((List.range 35).flatMap fun i => k.chain { a with typ := 0, hi := i } 15 0 (k.wotsSk a i))

/-- The 35 digits of a 16-byte message with its checksum. -/
def wotsDigits (m : List Byte) : List Nat :=
  let ds := slhDigits m 4 32
  ds ++ slhDigits (beBytes 2 (16 * (ds.map fun d => 15 - d).sum)) 4 3

/-- Sign 16 bytes with key pair `a.kp`. -/
def SlhKey.wotsSign (k : SlhKey) (a : SlhAdrs) (m : List Byte) : List Byte :=
  ((wotsDigits m).mapIdx fun i d => k.chain { a with typ := 0, hi := i } d 0 (k.wotsSk a i)).flatten

/-! ### XMSS trees of height 3, in 22 layers -/

/-- Node i at height z. -/
def SlhKey.xmssNode (k : SlhKey) (a : SlhAdrs) : (z i : Nat) → List Byte
  | 0, i => k.wotsPk { a with kp := i }
  | z + 1, i =>
    k.hash { a with typ := 2, kp := 0, hi := z + 1, lo := i } (k.xmssNode a z (2 * i) ++ k.xmssNode a z (2 * i + 1))

/-- Sign 16 bytes with leaf i of a tree. -/
def SlhKey.xmssSign (k : SlhKey) (a : SlhAdrs) (m : List Byte) (i : Nat) : List Byte :=
  k.wotsSign { a with kp := i } m ++ (List.range 3).flatMap fun j => k.xmssNode a j ((i / 2 ^ j) ^^^ 1)

/-- The signatures of n layers, from layer j on: each signs the root of the layer below. -/
def SlhKey.htSign (k : SlhKey) : (n j tree leaf : Nat) → List Byte → List Byte
  | 0, _, _, _, _ => []
  | n + 1, j, tree, leaf, m =>
    let a : SlhAdrs := { layer := j, tree := tree, typ := 0, kp := 0, hi := 0, lo := 0 }
    k.xmssSign a m leaf ++ k.htSign n (j + 1) (tree / 8) (tree % 8) (k.xmssNode a 3 0)

/-! ### FORS: 33 trees of height 6 -/

/-- The secret value of leaf i. -/
def SlhKey.forsSk (k : SlhKey) (a : SlhAdrs) (i : Nat) : List Byte := k.hash { a with typ := 6, hi := 0, lo := i } k.skSeed

/-- Node i at height z. -/
def SlhKey.forsNode (k : SlhKey) (a : SlhAdrs) : (z i : Nat) → List Byte
  | 0, i => k.hash { a with typ := 3, hi := 0, lo := i } (k.forsSk a i)
  | z + 1, i => k.hash { a with typ := 3, hi := z + 1, lo := i } (k.forsNode a z (2 * i) ++ k.forsNode a z (2 * i + 1))

/-- Sign the digits of a message digest. -/
def SlhKey.forsSign (k : SlhKey) (a : SlhAdrs) (ds : List Nat) : List Byte :=
  (ds.mapIdx fun i d => k.forsSk a (64 * i + d) ++ (List.range 6).flatMap fun j =>
    k.forsNode a j (i * 2 ^ (6 - j) + ((d / 2 ^ j) ^^^ 1))).flatten

/-- The FORS public key. -/
def SlhKey.forsPk (k : SlhKey) (a : SlhAdrs) : List Byte :=
  k.hash { a with typ := 4, hi := 0, lo := 0 } ((List.range 33).flatMap fun i => k.forsNode a 6 i)

/-! ### Keys and signatures -/

/-- PK.root. -/
def SlhKey.root (k : SlhKey) : List Byte :=
  k.xmssNode { layer := 21, tree := 0, typ := 0, kp := 0, hi := 0, lo := 0 } 3 0

/-- The pure signature with an empty context; the randomiser is PK.seed, the deterministic variant (log entry 5). -/
def SlhKey.sign (k : SlhKey) (msg : List Byte) : List Byte :=
  let m := [0, 0] ++ msg
  let r := (hmac k.skPrf (k.pkSeed ++ m)).take 16
  let d := mgf1 (r ++ k.pkSeed ++ shaBytes (r ++ k.pkSeed ++ k.root ++ m)) 34
  let num (bs : List Byte) : Nat := bs.foldl (fun n c => n * 256 + c.toNat) 0
  let tree := num ((d.drop 25).take 8) % 2 ^ 63
  let leaf := num (d.drop 33) % 8
  let a : SlhAdrs := { layer := 0, tree := tree, typ := 3, kp := leaf, hi := 0, lo := 0 }
  r ++ k.forsSign a (slhDigits (d.take 25) 6 33) ++ k.htSign 22 0 tree leaf (k.forsPk a)

/-- Bytes of a 256-bit digest or key, first byte most significant. -/
def keyBytes (k : BitVec 256) : List Byte := beBytes 32 k.toNat

/-- The module's identity key pair (R468). -/
def slhIdentity : SlhKey :=
  let seed (label : Byte) : List Byte := (shaBytes (label :: keyBytes Config.dieSecret)).take 16
  { skSeed := seed 1, skPrf := seed 2, pkSeed := seed 3 }

/-- IDKEY: PK.seed followed by PK.root (R468). -/
def identityKey : BitVec 256 :=
  BitVec.ofNat 256 ((slhIdentity.pkSeed ++ slhIdentity.root).foldl (fun n b => n * 256 + b.toNat) 0)

/-- The module's signature over a message (R439, R478, R513): 17,088 B. -/
def slhSig (msg : List Byte) : List Byte := slhIdentity.sign msg

/-! ### Verification -/

/-- A parameter set: height and layers of the hypertree, height of one tree, height and number of the FORS trees, and bytes of
the message digest. -/
structure SlhSet where
  h : Nat
  d : Nat
  hp : Nat
  a : Nat
  k : Nat
  m : Nat

/-- SLH-DSA-SHA2-128f and SLH-DSA-SHA2-128s (R12). -/
def slh128f : SlhSet := { h := 66, d := 22, hp := 3, a := 6, k := 33, m := 34 }
def slh128s : SlhSet := { h := 63, d := 7, hp := 9, a := 12, k := 14, m := 30 }

/-- Bytes of a signature: randomiser, FORS, and a WOTS+ signature with its path for each layer. -/
def SlhSet.sigLen (p : SlhSet) : Nat := 16 * (1 + p.k * (1 + p.a) + p.h + 35 * p.d)

/-- Block i of 16 bytes. -/
def block16 (bs : List Byte) (i : Nat) : List Byte := (bs.drop (16 * i)).take 16

/-- The root a path of n nodes leads to from a node: index i at height z, its siblings in the blocks from `at'` on. -/
def SlhKey.climb (k : SlhKey) (a : SlhAdrs) (sig : List Byte) : (n z i at' : Nat) → List Byte → List Byte
  | 0, _, _, _, x => x
  | n + 1, z, i, at', x =>
    let y := block16 sig at'
    k.climb a sig n (z + 1) (i / 2) (at' + 1)
      (k.hash { a with hi := z + 1, lo := i / 2 } (if i % 2 = 0 then x ++ y else y ++ x))

/-- The WOTS+ public key a signature in the blocks from `at'` on leads to. -/
def SlhKey.wotsFrom (k : SlhKey) (a : SlhAdrs) (m sig : List Byte) (at' : Nat) : List Byte :=
  k.hash { a with typ := 1, hi := 0, lo := 0 }
    (((wotsDigits m).mapIdx fun i d => k.chain { a with typ := 0, hi := i } (15 - d) d (block16 sig (at' + i))).flatten)

/-- The root that n layers lead to, from layer j on. -/
def SlhKey.htFrom (k : SlhKey) (p : SlhSet) (sig : List Byte) : (n j tree leaf at' : Nat) → List Byte → List Byte
  | 0, _, _, _, _, m => m
  | n + 1, j, tree, leaf, at', m =>
    let a : SlhAdrs := { layer := j, tree := tree, typ := 0, kp := leaf, hi := 0, lo := 0 }
    let x := k.climb { a with typ := 2, kp := 0 } sig p.hp 0 leaf (at' + 35) (k.wotsFrom a m sig at')
    k.htFrom p sig n (j + 1) (tree / 2 ^ p.hp) (tree % 2 ^ p.hp) (at' + 35 + p.hp) x

/-- The FORS public key the digits of a digest lead to. -/
def SlhKey.forsFrom (k : SlhKey) (p : SlhSet) (a : SlhAdrs) (ds : List Nat) (sig : List Byte) : List Byte :=
  k.hash { a with typ := 4, hi := 0, lo := 0 } ((ds.mapIdx fun i d =>
    let leaf := 2 ^ p.a * i + d
    let at' := 1 + i * (1 + p.a)
    k.climb a sig p.a 0 leaf (at' + 1) (k.hash { a with hi := 0, lo := leaf } (block16 sig at'))).flatten)

/-- A pure signature with an empty context verifies under a public key, PK.seed and PK.root (R493, R481, R513). -/
def slhVerify (p : SlhSet) (key : BitVec 256) (msg sig : List Byte) : Bool :=
  let seed := (keyBytes key).take 16
  let root := (keyBytes key).drop 16
  let k : SlhKey := { skSeed := [], skPrf := [], pkSeed := seed }
  let r := block16 sig 0
  let d := mgf1 (r ++ seed ++ shaBytes (r ++ seed ++ root ++ [0, 0] ++ msg)) p.m
  let num (bs : List Byte) : Nat := bs.foldl (fun n c => n * 256 + c.toNat) 0
  let md := (p.k * p.a + 7) / 8
  let tl := (p.h - p.hp + 7) / 8
  let tree := num ((d.drop md).take tl) % 2 ^ (p.h - p.hp)
  let leaf := num (d.drop (md + tl)) % 2 ^ p.hp
  let a : SlhAdrs := { layer := 0, tree := tree, typ := 3, kp := leaf, hi := 0, lo := 0 }
  sig.length == p.sigLen &&
    k.htFrom p sig p.d 0 tree leaf (1 + p.k * (1 + p.a)) (k.forsFrom p a (slhDigits (d.take md) p.a p.k) sig) == root

end Sys2Proof.Machine
end

