-- ==== Sys2Proof/Machine/Frames.lean ====
section
/-! DEFINITION. The bytes of the frames the fabric ports send: Ethernet, IP and UDP headers (R365-R367), RoCEv2 packets
with their ICRC (R368), and the NCT and transit packets, sealed with AES-256-GCM (R13, R377, R379, R407, R408). The
layouts of Ethernet, IP, UDP and RoCEv2 are those of their standards (PRESUMED, log entry 50). -/
namespace Sys2Proof.Machine

/-! ### Checks -/

/-- One bit of the CRC of IEEE 802.3, reflected. -/
def crcBit (c : Nat) : Nat := if c % 2 = 1 then (c / 2) ^^^ 0xEDB88320 else c / 2

/-- CRC-32 of a byte string. -/
def crc32 (bs : List Byte) : Nat :=
  (bs.foldl (fun c b => crcBit (crcBit (crcBit (crcBit (crcBit (crcBit (crcBit (crcBit (c ^^^ b.toNat))))))))) 0xFFFFFFFF) ^^^
    0xFFFFFFFF

/-- The sum of the 16-bit words of a byte string. -/
def sum16 : List Byte → Nat
  | a :: b :: t => a.toNat * 256 + b.toNat + sum16 t
  | [a] => a.toNat * 256
  | [] => 0

/-- The Internet checksum: the complement of the ones' complement sum. -/
def inetSum (bs : List Byte) : Nat :=
  let n := sum16 bs
  let n := n / 65536 + n % 65536
  let n := n / 65536 + n % 65536
  65535 - n

/-! ### NCT packets (R377, R379) -/

/-- The 32-byte header, in network order. -/
def nctHdrBytes (p : NctPkt) : List Byte :=
  [p.ver ++ p.typ, BitVec.ofNat 8 (p.kepoch.toNat * 128 + p.role.toNat * 64 + p.port.toNat * 8)] ++
  beBytes 2 p.pgen.toNat ++ beBytes 2 p.dsess.toNat ++ beBytes 2 p.payload.length ++ beBytes 6 p.psn.toNat ++
  (if p.typ = 1 then
     beBytes 2 p.ce.toNat ++ beBytes 6 p.cum.toNat ++ beBytes 2 p.newc.toNat ++ beBytes 8 p.sack.toNat
   else
     [0, 0] ++ (if p.typ = 4 then List.replicate 4 0 else beBytes 4 p.msgid.toNat) ++
     (if p.typ = 0 then beBytes 6 p.addr.toNat ++ [0, 0] ++ beBytes 4 p.mpkts.toNat
      else if p.typ = 5 then p.code :: List.replicate 11 0
      else List.replicate 12 0))

/-- The 12-byte nonce. -/
def nctNonce (p : NctPkt) : List Byte :=
  [0, 0, 0, 0, if p.typ = 1 then 1 else 0, if p.role then 1 else 0] ++ beBytes 6 p.psn.toNat

/-- Encrypt a packet's payload under a key and set its tag. -/
def nctSeal (key : BitVec 256) (p : NctPkt) : NctPkt :=
  let ct := gcmCrypt key (nctNonce p) p.payload
  { p with payload := ct, tag := gcmTag key (nctNonce p) (nctHdrBytes p) ct }

/-- The packet with its payload in the clear; nothing where the tag does not verify. -/
def nctOpen (key : BitVec 256) (p : NctPkt) : Option NctPkt :=
  (gcmOpen key (nctNonce p) (nctHdrBytes p) p.payload p.tag).map fun bs => { p with payload := bs }

/-- The packet as UDP carries it. -/
def nctBytes (p : NctPkt) : List Byte := nctHdrBytes p ++ p.payload ++ p.tag

/-! ### Transit packets (R407, R408) -/

/-- The 48-byte header, in network order. -/
def trHdrBytes (p : TrPkt) : List Byte :=
  [p.ver ++ p.typ, BitVec.ofNat 8 (p.kslot.toNat * 128)] ++ beBytes 2 p.job.toNat ++
  [p.src.setWidth 8, p.dst.setWidth 8, p.slice, p.route.setWidth 8] ++ beBytes 8 p.ostep.toNat ++
  [BitVec.ofNat 8 (p.known.toNat + 2 * p.listen.toNat)] ++ beBytes 3 p.group.toNat ++ [p.fidx, p.k, p.m, p.qfmt] ++
  beBytes 4 p.nsteps.toNat ++ beBytes 4 p.ngroups.toNat ++ beBytes 8 p.len.toNat ++ beBytes 8 p.acc.toNat

/-- The 12-byte nonce: SRC, DST, SLICE, TYPE, FIDX, GROUP, OSTEP[31:0]. -/
def trNonce (p : TrPkt) : List Byte :=
  [p.src.setWidth 8, p.dst.setWidth 8, p.slice, p.typ.setWidth 8, p.fidx] ++ beBytes 3 p.group.toNat ++
  beBytes 4 (p.ostep.toNat % 2 ^ 32)

def trSeal (key : BitVec 256) (p : TrPkt) : TrPkt :=
  let ct := gcmCrypt key (trNonce p) p.payload
  { p with payload := ct, tag := gcmTag key (trNonce p) (trHdrBytes p) ct }

def trOpen (key : BitVec 256) (p : TrPkt) : Option TrPkt :=
  (gcmOpen key (trNonce p) (trHdrBytes p) p.payload p.tag).map fun bs => { p with payload := bs }

def trBytes (p : TrPkt) : List Byte := trHdrBytes p ++ p.payload ++ p.tag

/-! ### Ethernet, IP and UDP (R366) -/

/-- Bytes of a MAC header with its tag. -/
def FrameHdr.ethernet (h : FrameHdr) : List Byte :=
  beBytes 6 h.dmac.toNat ++ beBytes 6 h.smac.toNat ++
  (match h.vlan with
   | some (pcp, vid) => beBytes 2 0x8100 ++ beBytes 2 (pcp.toNat * 8192 + vid.toNat)
   | none => []) ++ beBytes 2 (if h.v6 then 0x86DD else 0x0800)

/-- The traffic class octet: DSCP and ECT(0). -/
def FrameHdr.tc (h : FrameHdr) : Nat := h.dscp.toNat * 4 + 2

/-- The IP header of a datagram of n bytes; the IPv4 checksum field as given. -/
def FrameHdr.ipWith (h : FrameHdr) (n sum : Nat) : List Byte :=
  if h.v6 then
    beBytes 4 (6 * 2 ^ 28 + h.tc * 2 ^ 20 + Config.flowLabel.toNat) ++ beBytes 2 n ++ [17, Config.ipTtl] ++
      beBytes 16 h.src.toNat ++ beBytes 16 h.dst.toNat
  else
    [0x45, BitVec.ofNat 8 h.tc] ++ beBytes 2 (20 + n) ++ beBytes 2 Config.ipId.toNat ++ beBytes 2 (Config.ipDf.toNat * 16384) ++
      [Config.ipTtl, 17] ++ beBytes 2 sum ++ beBytes 4 (h.src.toNat % 2 ^ 32) ++ beBytes 4 (h.dst.toNat % 2 ^ 32)

/-- The IP header with its checksum. -/
def FrameHdr.ip (h : FrameHdr) (n : Nat) : List Byte := h.ipWith n (inetSum (h.ipWith n 0))

/-- The UDP header of a payload: checksum 0 on IPv4, computed on IPv6 (R366). -/
def FrameHdr.udp (h : FrameHdr) (bs : List Byte) : List Byte :=
  let n := 8 + bs.length
  let ports := beBytes 2 h.sport.toNat ++ beBytes 2 h.dport.toNat
  let pseudo := beBytes 16 h.src.toNat ++ beBytes 16 h.dst.toNat ++ beBytes 4 n ++ [0, 0, 0, 17]
  let c := inetSum (pseudo ++ ports ++ beBytes 2 n ++ [0, 0] ++ bs)
  ports ++ beBytes 2 n ++ beBytes 2 (if h.v6 then (if c = 0 then 65535 else c) else 0)

/-- A frame with its frame check sequence, padded to the 64 bytes Ethernet needs. -/
def FrameHdr.frame (h : FrameHdr) (bs : List Byte) : List Byte :=
  let x := h.ethernet ++ h.ip (8 + bs.length) ++ h.udp bs ++ bs
  let x := x ++ List.replicate (60 - x.length) 0
  x ++ leBytes 4 (crc32 x)

/-! ### RoCEv2 (R368) -/

/-- First, Middle, Last and Only of an operation. -/
def posCode (first last : Bool) (f m l o : Nat) : Nat := if first then (if last then o else f) else if last then l else m

/-- Opcode of the base transport header. -/
def RocePkt.opcode : RocePkt → Nat
  | .request _ .send f l _ _ => posCode f l 0 1 2 4
  | .request _ (.write _ _) f l _ _ => posCode f l 6 7 8 10
  | .readResp _ f l _ _ => posCode f l 13 14 15 16
  | .answer _ _ _ => 17
  | .cnp => 0x81

def RocePkt.psn : RocePkt → BitVec 24
  | .request n _ _ _ _ _ => n
  | .readResp n _ _ _ _ => n
  | .answer _ n _ => n
  | .cnp => 0

def RocePkt.data : RocePkt → List Byte
  | .request _ _ _ _ _ d => d
  | .readResp _ _ _ _ d => d
  | .answer _ _ _ => []
  | .cnp => List.replicate 16 0

/-- The last packet of a request asks for an acknowledgement. -/
def RocePkt.ackReq : RocePkt → Bool
  | .request _ _ _ l _ _ => l
  | _ => false

/-- Syndrome of an acknowledgement. -/
def AckOut.syndrome : AckOut → Nat
  | .ack => 0x1F
  | .rnr => 0x20 + Config.rnrTimer.toNat
  | .nakSeq => 0x60
  | .nakInvalid => 0x61
  | .nakAccess => 0x62

/-- Bytes to a whole number of words. -/
def padTo4 (n : Nat) : Nat := (4 - n % 4) % 4

/-- The base transport header; its fifth byte as given. -/
def RocePkt.bth (p : RocePkt) (dqpn : BitVec 24) (fecn : Byte) : List Byte :=
  [BitVec.ofNat 8 p.opcode, BitVec.ofNat 8 (64 + 16 * padTo4 p.data.length), 0xFF, 0xFF, fecn] ++ beBytes 3 dqpn.toNat ++
    [if p.ackReq then 0x80 else 0] ++ beBytes 3 p.psn.toNat

/-- The extension header. -/
def RocePkt.ext : RocePkt → List Byte
  | .request _ (.write va rkey) true _ n _ => beBytes 8 va.toNat ++ beBytes 4 rkey.toNat ++ beBytes 4 n
  | .readResp _ f l msn _ => if f || l then 0x1F :: beBytes 3 msn.toNat else []
  | .answer k _ msn => BitVec.ofNat 8 k.syndrome :: beBytes 3 msn.toNat
  | _ => []

/-- What follows the base transport header, but for the ICRC. -/
def RocePkt.rest (p : RocePkt) : List Byte := p.ext ++ p.data ++ List.replicate (padTo4 p.data.length) 0

/-- A header with what may change on the way set to ones, as the ICRC takes it. -/
def FrameHdr.invariant (h : FrameHdr) (n : Nat) : List Byte :=
  let ip := h.ipWith n 0xFFFF
  let ip := if h.v6 then [0x6F, 0xFF, 0xFF, 0xFF] ++ (ip.drop 4).take 3 ++ [0xFF] ++ ip.drop 8
    else [0x45, 0xFF] ++ (ip.drop 2).take 6 ++ [0xFF] ++ ip.drop 9
  ip ++ beBytes 2 h.sport.toNat ++ beBytes 2 h.dport.toNat ++ beBytes 2 n ++ [0xFF, 0xFF]

/-- The packet as UDP carries it, with its ICRC. -/
def RocePkt.bytes (p : RocePkt) (h : FrameHdr) (dqpn : BitVec 24) : List Byte :=
  let x := p.bth dqpn (if p = .cnp then 0x40 else 0) ++ p.rest
  let n := 8 + x.length + 4
  x ++ leBytes 4 (crc32 (List.replicate 8 0xFF ++ h.invariant n ++ p.bth dqpn 0xFF ++ p.rest))

/-- The bytes of a packet's frame on the wire. -/
def Packet.frame (p : Packet) (h : FrameHdr) : List Byte :=
  match p with
  | .roce _ dqpn p => h.frame (p.bytes h dqpn)
  | .nct p => h.frame (nctBytes p)
  | .transit p => h.frame (trBytes p)

end Sys2Proof.Machine
end

