-- ==== Sys2Proof/Machine/Format.lean ====
section
/-! DEFINITION. The sixteen number formats, exact values and conversion (R44-R65, R71-R77). An exact finite value is
a sign, a magnitude and a power of two. -/
namespace Sys2Proof.Machine

/-- The formats of R44. -/
inductive Fmt where
  | fp32 | fp24 | bf16 | fp16 | fp12 | e4m3 | e5m2 | e3m2 | e2m3 | e2m1 | int32 | int16 | int8 | uint8 | int4 | e8m0
deriving DecidableEq, Repr, Inhabited

/-- The format a code names; codes 0x10 and above are reserved (R44). -/
def Fmt.ofCode (c : BitVec 5) : Option Fmt :=
  match c.toNat with
  | 0x00 => some .fp32
  | 0x01 => some .fp24
  | 0x02 => some .bf16
  | 0x03 => some .fp16
  | 0x04 => some .fp12
  | 0x05 => some .e4m3
  | 0x06 => some .e5m2
  | 0x07 => some .e3m2
  | 0x08 => some .e2m3
  | 0x09 => some .e2m1
  | 0x0A => some .int32
  | 0x0B => some .int16
  | 0x0C => some .int8
  | 0x0D => some .uint8
  | 0x0E => some .int4
  | 0x0F => some .e8m0
  | _ => none

/-- The code of a format (R44). -/
def Fmt.code : Fmt → Nat
  | .fp32 => 0 | .fp24 => 1 | .bf16 => 2 | .fp16 => 3 | .fp12 => 4 | .e4m3 => 5 | .e5m2 => 6 | .e3m2 => 7
  | .e2m3 => 8 | .e2m1 => 9 | .int32 => 10 | .int16 => 11 | .int8 => 12 | .uint8 => 13 | .int4 => 14 | .e8m0 => 15

/-- Bits of one element in its memory form (R48). -/
def Fmt.bits : Fmt → Nat
  | .fp32 | .fp24 | .int32 => 32
  | .bf16 | .fp16 | .int16 => 16
  | .fp12 => 12
  | .e4m3 | .e5m2 | .int8 | .uint8 | .e8m0 => 8
  | .e3m2 | .e2m3 => 6
  | .e2m1 | .int4 => 4

/-- Elements of a group of a packed format, 1 for the others (R49). -/
def Fmt.group : Fmt → Nat
  | .fp12 | .e2m1 | .int4 => 2
  | .e3m2 | .e2m3 => 4
  | _ => 1

/-- The layout of a floating format (R45): exponent and fraction widths, bias, the encodings (sign clear) of the
largest finite value, infinity and the canonical NaN, and how far up its container the value sits. -/
structure FSpec where
  e : Nat
  m : Nat
  bias : Int
  maxFin : Nat
  inf : Option Nat
  nan : Option Nat
  shift : Nat
deriving DecidableEq, Repr

def Fmt.fspec : Fmt → Option FSpec
  | .fp32 => some ⟨8, 23, 127, 0x7F7FFFFF, some 0x7F800000, some 0x7FC00000, 0⟩
  | .fp24 => some ⟨8, 15, 127, 0x7F7FFF, some 0x7F8000, some 0x7FC000, 8⟩
  | .bf16 => some ⟨8, 7, 127, 0x7F7F, some 0x7F80, some 0x7FC0, 0⟩
  | .fp16 => some ⟨5, 10, 15, 0x7BFF, some 0x7C00, some 0x7E00, 0⟩
  | .fp12 => some ⟨5, 6, 15, 0x7BF, some 0x7C0, some 0x7E0, 0⟩
  | .e4m3 => some ⟨4, 3, 7, 0x7E, none, some 0x7F, 0⟩
  | .e5m2 => some ⟨5, 2, 15, 0x7B, some 0x7C, some 0x7E, 0⟩
  | .e3m2 => some ⟨3, 2, 3, 0x1F, none, none, 0⟩
  | .e2m3 => some ⟨2, 3, 1, 0x1F, none, none, 0⟩
  | .e2m1 => some ⟨2, 1, 1, 0x7, none, none, 0⟩
  | _ => none

def Fmt.isFloat (f : Fmt) : Bool := f.fspec.isSome
def Fmt.isInt : Fmt → Bool
  | .int32 | .int16 | .int8 | .uint8 | .int4 => true
  | _ => false

/-- Lowest and highest value of an integer format (R46). -/
def Fmt.irange : Fmt → Int × Int
  | .int32 => (-2147483648, 2147483647)
  | .int16 => (-32768, 32767)
  | .int8 => (-128, 127)
  | .uint8 => (0, 255)
  | .int4 => (-8, 7)
  | _ => (0, 0)

/-! ### Exact values -/

/-- An exact value: a NaN with its sign, an infinity, or ±m × 2^e. -/
inductive Val where
  | nan (neg : Bool)
  | inf (neg : Bool)
  | fin (neg : Bool) (m : Nat) (e : Int)
deriving DecidableEq, Repr, Inhabited

def Val.isNan : Val → Bool
  | .nan _ => true
  | _ => false
def Val.isInf : Val → Bool
  | .inf _ => true
  | _ => false
def Val.neg : Val → Bool
  | .nan s => s
  | .inf s => s
  | .fin s _ _ => s
def Val.isZero : Val → Bool
  | .fin _ m _ => m == 0
  | _ => false
def Val.zero : Val := .fin false 0 0
/-- An integer as an exact value. -/
def Val.ofInt (i : Int) : Val := .fin (decide (i < 0)) i.natAbs 0

/-- The exact value of an encoding, the low bits of a word, in a floating layout (R45). -/
def FSpec.toVal (sp : FSpec) (b : Nat) : Val :=
  let b := b >>> sp.shift
  let neg := b.testBit (sp.e + sp.m)
  let mag := b % 2 ^ (sp.e + sp.m)
  let ef := mag / 2 ^ sp.m
  let fr := mag % 2 ^ sp.m
  let special : Option Val :=
    match sp.inf with
    | some i => if mag = i then some (.inf neg) else if mag > i then some (.nan neg) else none
    | none => match sp.nan with
      | some n => if mag = n then some (.nan neg) else none
      | none => none
  match special with
  | some v => v
  | none =>
    if ef = 0 then .fin neg fr (1 - sp.bias - sp.m)
    else .fin neg (2 ^ sp.m + fr) (ef - sp.bias - sp.m)

/-- The two's complement value of the low bits of a word. -/
def signedOf (bits b : Nat) : Int :=
  let v := b % 2 ^ bits
  if v ≥ 2 ^ (bits - 1) then (v : Int) - 2 ^ bits else v

/-- The exact value of an element (R45-R47). -/
def Fmt.toVal (f : Fmt) (b : W32) : Val :=
  match f.fspec with
  | some sp => sp.toVal b.toNat
  | none =>
    match f with
    | .uint8 => Val.ofInt (b.toNat % 256 : Nat)
    | .e8m0 => if b.toNat % 256 = 255 then .nan false else .fin false 1 ((b.toNat % 256 : Nat) - 127)
    | _ => Val.ofInt (signedOf f.bits b.toNat)

/-! ### Rounding (R54, R64) -/

/-- A rounding with the 16 random bits an element draws (R64). -/
inductive Rnd where
  | rne
  | rtz
  | sr (u : Nat)
deriving DecidableEq, Repr, Inhabited

/-- The rounding a RND field names; 3 is reserved and illegal at issue, and reads as RNE here. -/
def Rnd.ofField (r : BitVec 2) (u : Nat) : Rnd :=
  if r = 1#2 then .rtz else if r = 2#2 then .sr u else .rne

/-- `m × 2^e` rounded to a whole number of quanta `2^q`. -/
def roundQ (r : Rnd) (m : Nat) (e q : Int) : Nat :=
  if q ≤ e then m * 2 ^ (e - q).toNat
  else
    let k := (q - e).toNat
    let lo := m / 2 ^ k
    let rest := m % 2 ^ k
    match r with
    | .rtz => lo
    | .rne => if 2 * rest > 2 ^ k ∨ (2 * rest = 2 ^ k ∧ lo % 2 = 1) then lo + 1 else lo
    | .sr u => if rest * 65536 / 2 ^ k + u ≥ 65536 then lo + 1 else lo

/-- floor(log2 (m × 2^e)) of a positive magnitude. -/
def flog2 (m : Nat) (e : Int) : Int := (Nat.log2 m : Int) + e

/-- An element's converted bits with its indications (R63). -/
structure Conv where
  bits : W32
  nan : Bool
  ovf : Bool
deriving DecidableEq, Repr, Inhabited

/-- Sign and magnitude put into the container of a floating format. -/
def FSpec.pack (sp : FSpec) (neg : Bool) (mag : Nat) : W32 :=
  BitVec.ofNat 32 ((mag + if neg then 2 ^ (sp.e + sp.m) else 0) * 2 ^ sp.shift)

/-- The magnitude encoding of a rounded positive value, on a scale unbounded above: encodings beyond the largest
finite one stand for values beyond it (R56). -/
def FSpec.encodeMag (sp : FSpec) (r : Rnd) (m : Nat) (e : Int) : Nat :=
  if m = 0 then 0
  else
    let q := Max.max (flog2 m e) (1 - sp.bias) - sp.m
    (q + sp.m + sp.bias - 1).toNat * 2 ^ sp.m + roundQ r m e q

/-- The result of an overflow (R57). -/
def FSpec.overflow (sp : FSpec) (r : Rnd) (ieee neg : Bool) : W32 :=
  if ieee ∧ r ≠ .rtz then
    match sp.inf, sp.nan with
    | some i, _ => sp.pack neg i
    | none, some n => sp.pack false n
    | none, none => sp.pack neg sp.maxFin
  else sp.pack neg sp.maxFin

/-- Conversion to a floating format (R53, R56-R58). -/
def FSpec.conv (sp : FSpec) (r : Rnd) (ieee : Bool) (v : Val) : Conv :=
  match v with
  | .nan neg =>
    match sp.nan with
    | some n => ⟨sp.pack false n, true, false⟩
    | none => ⟨sp.pack neg sp.maxFin, true, false⟩
  | .inf neg =>
    match sp.inf with
    | some i => ⟨sp.pack neg i, false, false⟩
    | none => ⟨sp.overflow r ieee neg, false, true⟩
  | .fin neg m e =>
    let mag := sp.encodeMag r m e
    if mag > sp.maxFin then ⟨sp.overflow r ieee neg, false, true⟩ else ⟨sp.pack neg mag, false, false⟩

/-- An integer in the low bits of a word. -/
def Fmt.packInt (f : Fmt) (i : Int) : W32 := BitVec.ofNat 32 ((BitVec.ofInt f.bits i).toNat)

/-- Conversion to an integer format (R58, R59). -/
def Fmt.convInt (f : Fmt) (r : Rnd) (v : Val) : Conv :=
  let (lo, hi) := f.irange
  match v with
  | .nan _ => ⟨0, true, false⟩
  | .inf neg => ⟨f.packInt (if neg then lo else hi), false, true⟩
  | .fin neg m e =>
    let n : Int := roundQ r m e 0
    let i := if neg then -n else n
    if i < lo then ⟨f.packInt lo, false, true⟩
    else if i > hi then ⟨f.packInt hi, false, true⟩
    else ⟨f.packInt i, false, false⟩

/-- Conversion to E8M0 (R60). -/
def convE8M0 (ieee : Bool) (v : Val) : Conv :=
  match v with
  | .nan _ => ⟨0xFF, true, false⟩
  | .inf _ => ⟨if ieee then 0xFF else 0xFE, false, true⟩
  | .fin _ m e =>
    if m = 0 ∨ flog2 m e < -127 then ⟨0x00, false, false⟩
    else if flog2 m e ≥ 128 then ⟨if ieee then 0xFF else 0xFE, false, true⟩
    else ⟨BitVec.ofNat 32 (flog2 m e + 127).toNat, false, false⟩

/-- Conversion of an exact value to a format (R56-R61). -/
def Fmt.conv (f : Fmt) (r : Rnd) (ieee : Bool) (v : Val) : Conv :=
  match f.fspec with
  | some sp => sp.conv r ieee v
  | none => if f = .e8m0 then convE8M0 ieee v else f.convInt r v

/-- Conversion between two formats; between equal integer formats the bits pass (R62). -/
def convert (src dst : Fmt) (r : Rnd) (ieee : Bool) (b : W32) : Conv := dst.conv r ieee (src.toVal b)

/-- The canonical NaN of a floating format (R52). -/
def Fmt.canonNan (f : Fmt) : W32 := (f.conv .rne true (.nan false)).bits

/-! ### Exact arithmetic -/

/-- A finite value over a fixed exponent at or below its own. -/
def scaleTo (neg : Bool) (m : Nat) (e q : Int) : Int :=
  let a : Int := m * 2 ^ (e - q).toNat
  if neg then -a else a

/-- Negation. -/
def Val.negate : Val → Val
  | .nan s => .nan s
  | .inf s => .inf !s
  | .fin s m e => .fin (!s) m e

/-- Magnitude. -/
def Val.abs : Val → Val
  | .nan s => .nan s
  | .inf _ => .inf false
  | .fin _ m e => .fin false m e

/-- The exact product; NaN for 0 × infinity. -/
def Val.mul : Val → Val → Val
  | .nan s, _ => .nan s
  | _, .nan s => .nan s
  | .inf s, .inf t => .inf (s != t)
  | .inf s, .fin t m _ => if m = 0 then .nan false else .inf (s != t)
  | .fin s m _, .inf t => if m = 0 then .nan false else .inf (s != t)
  | .fin s m e, .fin t n f => .fin (s != t) (m * n) (e + f)

/-- The exact sum of two values; NaN for infinity − infinity. An exact zero sum is +0 unless both terms are −0
(log entry 10). -/
def Val.add : Val → Val → Val
  | .nan s, _ => .nan s
  | _, .nan s => .nan s
  | .inf s, .inf t => if s = t then .inf s else .nan false
  | .inf s, .fin _ _ _ => .inf s
  | .fin _ _ _, .inf t => .inf t
  | .fin s m e, .fin t n f =>
    let q := Min.min e f
    let i := scaleTo s m e q + scaleTo t n f q
    if i = 0 then .fin (s && t && m == 0 && n == 0) 0 q else .fin (decide (i < 0)) i.natAbs q

/-- The exact sum of a list of terms, by the specials of R113: NaN wins, opposite infinities give NaN. -/
def Val.sum : List Val → Val
  | [] => Val.zero
  | [v] => v
  | v :: t => v.add (Val.sum t)

/-- Value times a power of two. -/
def Val.scale (k : Int) : Val → Val
  | .fin s m e => .fin s m (e + k)
  | v => v

/-- Comparison of two values that are no NaN; the zeros are equal. -/
def Val.lt : Val → Val → Bool
  | .nan _, _ => false
  | _, .nan _ => false
  | .inf s, .inf t => s && !t
  | .inf s, .fin _ _ _ => s
  | .fin _ _ _, .inf t => !t
  | .fin s m e, .fin t n f =>
    let q := Min.min e f
    decide (scaleTo s m e q < scaleTo t n f q)

def Val.eq (a b : Val) : Bool := !a.isNan && !b.isNan && !a.lt b && !b.lt a

/-- Maximum with NaN where either input is NaN and +0 above −0 (R142). -/
def Val.max (a b : Val) : Val :=
  if a.isNan then a else if b.isNan then b
  else if a.lt b then b else if b.lt a then a
  else if a.neg then b else a

/-- Minimum, likewise (R142). -/
def Val.min (a b : Val) : Val :=
  if a.isNan then a else if b.isNan then b
  else if a.lt b then a else if b.lt a then b
  else if a.neg then a else b

/-- RNE with infinity on overflow: how the vector engine rounds an exact result (R142). -/
def Fmt.rne (f : Fmt) (v : Val) : Conv := f.conv .rne true v

/-! ### MX blocks (R71-R77) -/

/-- emax of an MX element format (R74). -/
def Fmt.emax : Fmt → Int
  | .e4m3 => 8
  | .e5m2 => 15
  | .e3m2 => 4
  | .e2m3 => 2
  | .e2m1 => 2
  | _ => 0

/-- The value of an MX element before its scale: MXINT8 is i × 2^−6 (R71). -/
def Fmt.mxVal (f : Fmt) (b : W32) : Val :=
  if f = .int8 then (f.toVal b).scale (-6) else f.toVal b

/-- Position of the largest magnitude among finite values, none without a finite non-zero value (R74, R76). -/
def blockExp (vs : List Val) : Option Int :=
  vs.foldl (fun acc v =>
    match v with
    | .fin _ m e => if m = 0 then acc else
        match acc with
        | none => some (flog2 m e)
        | some x => some (Max.max x (flog2 m e))
    | _ => acc) none

/-- The scale exponent X of a block whose largest magnitude has the logarithm given, clamped to −127 … 127 (R74). -/
def scaleExp (f : Fmt) (l : Int) : Int :=
  let x := l - f.emax
  if x < -127 then -127 else if x > 127 then 127 else x

/-- A block formed from wider values with one rounding per element: the scale byte and the elements' bits with the
block's indications (R74-R77). -/
def mxBlock (f : Fmt) (ieee : Bool) (rs : List Rnd) (vs : List Val) : Byte × List W32 × Bool × Bool :=
  let k : Int := if f = .int8 then 6 else 0
  let x := match blockExp vs with
    | none => -127
    | some l => scaleExp f l
  let cs := (vs.zip rs).map fun p => f.conv p.2 ieee (p.1.scale (k - x))
  if vs.any Val.isNan then
    let ovf := ((vs.zip cs).any fun p => !p.1.isNan && !p.1.isInf && p.2.ovf)
    (0xFF, vs.map fun _ => 0, true, ovf)
  else (BitVec.ofNat 8 (x + 127).toNat, cs.map Conv.bits, cs.any Conv.nan, cs.any Conv.ovf)

end Sys2Proof.Machine
end

