-- ==== Sys2Proof/Machine/Pack.lean ====
section
/-! DEFINITION. Elements in memory: every format of R48 is a run of equal fields, the first in the lowest bits. -/
namespace Sys2Proof.Machine

/-- Bytes that n elements take (R48). -/
def Fmt.bytesOf (f : Fmt) (n : Nat) : Nat := (n * f.bits + 7) / 8

/-- The fields of a number, low first. -/
def fieldsOf (bits : Nat) : (n : Nat) → Nat → List W32
  | 0, _ => []
  | n + 1, v => BitVec.ofNat 32 (v % 2 ^ bits) :: fieldsOf bits n (v / 2 ^ bits)

/-- Read n elements from bytes. -/
def unpackElems (f : Fmt) (n : Nat) (bs : List Byte) : List W32 := fieldsOf f.bits n (leNat bs)

/-- Fields put together into a number. -/
def joinFields (bits : Nat) : List W32 → Nat
  | [] => 0
  | x :: t => x.toNat % 2 ^ bits + 2 ^ bits * joinFields bits t

/-- The bytes of elements; bits [7:0] of an FP24 are zero in its container. -/
def packElems (f : Fmt) (xs : List W32) : List Byte := leBytes (f.bytesOf xs.length) (joinFields f.bits xs)

end Sys2Proof.Machine
end

