-- ==== Sys2Proof/Machine/Streams.lean ====
section
/-! DEFINITION. Launch, completion, instruction fetch, semaphores, fences, SYNC, traps and aborts of streams (R172-R175,
R179-R202, R229-R231, R235). -/
namespace Sys2Proof.Machine

/-! ### Launch and end (R172, R173, R179) -/

/-- Plates in the masks of other streams of the core, or in transfer to one. -/
def Core.platesElsewhere (k : Core) (t : Fin 4) : BitVec 16 :=
  (List.finRange 4).foldl (fun m u =>
    let st := k.streams[u]
    let m := if u = t then m else m ||| st.plates
    st.giving.foldl (fun m x => if x.target = t then m else m ||| x.mask) m) 0

/-- The registers a program starts with: s1 to s8 from the command, the others zero. -/
def launchRegs (ws : List Word) : Vector Word 32 :=
  Vector.ofFn fun i => if 1 ≤ i.val ∧ i.val ≤ 8 then ew ws (i.val + 3) else 0

/-- The stream as a LAUNCH starts it; plates given while it was IDLE stay with it (R180). -/
def Stream.launched (st : Stream) (q : BitVec 13) (x : QCmd) : Stream :=
  { st with
    mode := .run, wait := .none, regs := launchRegs x.words, pc := addr48 (ew x.words 2), vl := 64,
    plates := st.plates ||| cmdPlates x.words,
    launch := some { queue := q, pos := x.pos, cfence := cmdCfence x.words, cvalue := cmdCvalue x.words,
                     efence := cmdEfence x.words, evalue := ew x.words 3 },
    trap := none, aborting := false, silent := false, ended := false, held := [], lastQueue := q }

/-- LAUNCH_START: the stream is IDLE, the core has no other context, and no plate of the mask belongs elsewhere. -/
def execLaunchStart (p : Site) (s : State) : Out :=
  let c := p.core
  let t := p.stream
  match s.nextLaunch c t with
  | none => .refused (.notEnabled "no launch waits for the stream")
  | some q =>
    match s.takenOf q with
    | none => .refused (.notEnabled "no launch waits for the stream")
    | some x =>
      let k := s.core c
      let ctx := qCtx (s.queueV q)
      guard (s.runs c && (k.streams[t]).mode == .idle && (k.ctx == none || k.ctx == some ctx) &&
          (k.platesElsewhere t &&& cmdPlates x.words) == 0) "context or plates are not free"
        (let s := s.modCore c fun k =>
           ((k.bindCtx ctx).advanceEpoch t).modStream t fun st => st.launched q x
         s.stageCmd q x .running)

/-- PROGRAM_COMPLETE: END has issued and everything before it is complete. -/
def execProgramComplete (p : Site) (s : State) : Out :=
  let st := s.stream p.core p.stream
  guard (s.runs p.core && st.mode == .run && st.ended && !(s.core p.core).anyPending p.stream st.seqNo)
    "the program has not ended"
    (let s := match st.launch with
       | some l => s.send ⟨l.cfence, l.cvalue, false, .command⟩
       | none => s
     s.idleStream p.core p.stream)

/-- END. -/
def execEndProg (p : Site) (s : State) : Out :=
  issue p (.endProg p) s fun a s => .done (s.modStream a.c a.t fun st => { st with ended := true })

/-! ### Instruction cache (R174, R197, R205) -/

/-- Lines of the 64 KiB instruction cache. -/
def icLines : Nat := 256

/-- A fetched line enters the cache; beyond its size the oldest goes (log entry 12). -/
def Core.icFill (k : Core) (dvaLine : Nat) (d : Line) : Core :=
  let l := (k.icache.filter fun x => x.1 ≠ dvaLine) ++ [(dvaLine, d)]
  { k with icache := l.drop (l.length - icLines) }

/-- A double error. -/
def isDouble : Flip → Bool
  | .double _ => true
  | _ => false

/-- ICACHE_FILL: the line of the next word, or of its extension word, returns or traps. -/
def execIcacheFill (p : Site) (ext : Bool) (u : Upset) (s : State) : Out :=
  let c := p.core
  let t := p.stream
  let st := s.stream c t
  let word : Addr := if ext then st.pc + 8 else st.pc
  let line := word.toNat / 256
  guard (s.mayIssue p && !((s.core c).icache.any fun x => x.1 == line)) "no instruction fetch misses"
    (let s0 := s
     let (s, f) := s.coreXlate c word.toNat true
     match f with
     | none => s.trapIssue c t .fetchXlate 0 0 word
     | some f =>
       if !f.x then s.trapIssue c t .fetchXlate 0 0 word
       else
         let (s, r) := s.nsRead c t none line f (u.at 0)
         match r with
         | .withheld => s0.stalled s c t
         | .data d bad =>
           if bad || isDouble (u.at 0) then s.trapIssue c t .fetchPoison 0 0 word
           else ((s.missServed c t).modCore c fun k => k.icFill line d).modStream c t fun st =>
             if st.wait = .fetch then { st with mode := .run, wait := .none } else st)

/-- ICINV. -/
def execIcinv (p : Site) (s : State) : Out :=
  issue p (.icinv p) s fun a s => .done (s.modCore a.c fun k => { k with icache := [] })

/-! ### Semaphores (R188-R190, R229) -/

/-- SEMINIT: no release. -/
def execSeminit (p : Site) (o : SemOps) (s : State) : Out :=
  issue p (.seminit p o) s fun a s => .done (s.modCore a.c fun k => { k with sems := k.sems.set o.k.toFin o.val })

/-- SEMSIG: a release. -/
def execSemsig (p : Site) (o : SemOps) (s : State) : Out :=
  issue p (.semsig p o) s fun a s => .done (s.release a.c a.t a.seqNo (.sem o.k o.val))

/-- A stream waits on semaphore k for n. -/
def Stream.waitsSem (st : Stream) (k : BitVec 6) : Option (BitVec 16) :=
  match st.wait with
  | .semacq j n => if j = k then some n else none
  | _ => none

/-- An earlier waiter in the order of R190 could take its amount now. -/
def Core.semAhead (k : Core) (i : BitVec 6) (before : List (Fin 4)) : Bool :=
  before.any fun u => match (k.streams[u]).waitsSem i with
    | some n => decide (n.toNat ≤ k.sems[i.toFin].toNat)
    | none => false

/-- Subtract what an acquire takes. -/
def Core.semTake (k : Core) (i : BitVec 6) (n : BitVec 16) : Core :=
  { k with sems := k.sems.set i.toFin (k.sems[i.toFin] - n) }

/-- A SEMACQ or FWAIT begins to wait at a tick (R194). -/
def Core.waitFrom (k : Core) (t : Fin 4) (tick : Word) : Core := k.modStream t fun st => { st with waitSince := tick }

/-- SEMACQ: satisfied at once, or the stream joins the waiters. It issues when it is satisfied. -/
def execSemacq (p : Site) (o : SemOps) (s : State) : Out :=
  issue p (.semacq p o) s fun a s =>
    let k := s.core a.c
    if o.val.toNat ≤ k.sems[o.k.toFin].toNat ∧ !k.semAhead o.k k.semOrder then
      .done (s.modCore a.c fun k => (k.semTake o.k o.val).advanceEpoch a.t)
    else .stall (s.modCore a.c fun k => (({ k with semOrder := k.semOrder ++ [a.t] } : Core).waitFrom a.t s.tick)) (.semacq o.k o.val)

/-- The waiters that began to wait before stream t. -/
def Core.semBefore (k : Core) (t : Fin 4) : List (Fin 4) := k.semOrder.takeWhile fun u => u != t

/-- A waiting SEMACQ can be served now. -/
def Core.semReady (k : Core) (t : Fin 4) (i : BitVec 6) (n : BitVec 16) : Bool :=
  decide (n.toNat ≤ k.sems[i.toFin].toNat) && !k.semAhead i (k.semBefore t)

/-- SEMACQ_SATISFIED. -/
def execSemacqSatisfied (p : Site) (s : State) : Out :=
  let st := s.stream p.core p.stream
  match st.wait with
  | .semacq i n =>
    guard (s.runs p.core && st.mode == .wait && (s.core p.core).semReady p.stream i n) "the semaphore is too low"
      ((s.modCore p.core fun k => ((k.semTake i n).leaveSem p.stream).advanceEpoch p.stream).retireTo p (st.pc + 8))
  | _ => .refused (.notEnabled "the stream does not wait at a SEMACQ")

/-! ### Fences (R191-R194, R230) -/

/-- FSIG: a release that signals the fence to rv. -/
def execFsig (p : Site) (o : LayF) (s : State) : Out :=
  issue p (.fsig p o) s fun a s =>
    match s.checkFence a o.fence o.reg o.rf true with
    | (s, some f) => .done (s.release a.c a.t a.seqNo (.fence f (s.rx a o.rv)))
    | (s, none) => .trap s .fenceRight (fenceDetail s a o.fence o.reg o.rf) 0

/-- A wait for v is satisfied by the fence entry (R350). -/
def fenceMet (e : List Word) (v : Word) : Bool := reached v (fValue e) || fError e

/-- What a satisfied FWAIT writes to s31. -/
def fenceFlag (e : List Word) : Word := if fError e then 1 else 0

/-- FWAIT: an acquire; it issues when it is satisfied. -/
def execFwait (p : Site) (o : LayF) (s : State) : Out :=
  issue p (.fwait p o) s fun a s =>
    match s.checkFence a o.fence o.reg o.rf false with
    | (s, some f) =>
      let v := s.rx a o.rv
      let e := s.fenceE f
      if fenceMet e v then
        .done ((s.wx a 31#5 (fenceFlag e)).modCore a.c fun k => k.advanceEpoch a.t)
      else .stall (s.modCore a.c fun k => k.waitFrom a.t s.tick) (.fwait f v a.insn)
    | (s, none) => .trap s .fenceRight (fenceDetail s a o.fence o.reg o.rf) 0

/-- FWAIT_SATISFIED. -/
def execFwaitSatisfied (p : Site) (s : State) : Out :=
  let st := s.stream p.core p.stream
  match st.wait with
  | .fwait f v _ =>
    let s := s.loadFence f
    let e := s.fenceE f
    guard (s.runs p.core && st.mode == .wait && fenceMet e v) "the fence has not reached the value"
      (((s.modStream p.core p.stream fun st => st.setReg 31#5 (fenceFlag e)).modCore p.core
        fun k => k.advanceEpoch p.stream).retireTo p (st.pc + 8))
  | _ => .refused (.notEnabled "the stream does not wait at an FWAIT")

/-- WAIT_LIMIT: the wait has lasted LIMIT ticks and is not satisfied in the tick that ends them (R194). -/
def execWaitLimit (p : Site) (s : State) : Out :=
  let st := s.stream p.core p.stream
  let k := s.core p.core
  let up := s.runs p.core && st.mode == .wait && k.waitlimit != 0 &&
    decide ((s.tick - st.waitSince).toNat ≥ k.waitlimit.toNat)
  match st.wait with
  | .semacq i n =>
    guard (up && !k.semReady p.stream i n) "the limit is not reached, or the wait is satisfied"
      (s.trapIssue p.core p.stream .waitLimit (((encode (.semacq p ⟨i, n⟩)).getD (0, 0)).1) (i.setWidth 64) 0)
  | .fwait f v w =>
    let s := s.loadFence f
    guard (up && !fenceMet (s.fenceE f) v) "the limit is not reached, or the wait is satisfied"
      (s.trapIssue p.core p.stream .waitLimit w (f.setWidth 64) 0)
  | _ => .refused (.notEnabled "the stream does not wait at a SEMACQ or FWAIT")

/-! ### SYNC (R186, R231) -/

/-- SYNC: complete at issue where nothing named is outstanding, else the stream waits after it. -/
def execSync (p : Site) (o : SyncOps) (s : State) : Out :=
  issue p (.sync p o) s fun a s =>
    if (s.core a.c).pending a.t a.seqNo o then .wait s (.sync o a.seqNo) else .done s

def execSyncDone (p : Site) (s : State) : Out :=
  let st := s.stream p.core p.stream
  match st.wait with
  | .sync o n =>
    guard (s.runs p.core && st.mode == .wait && !(s.core p.core).pending p.stream n o) "work of the SYNC is outstanding"
      (s.modStream p.core p.stream fun st => { st with mode := .run, wait := .none })
  | _ => .refused (.notEnabled "the stream does not wait at a SYNC")

/-! ### Traps and aborts (R195-R201) -/

/-- TRAP: SOFTWARE with the immediate. -/
def execTrap (p : Site) (imm : BitVec 32) (s : State) : Out :=
  issue p (.trap p imm) s fun _ s => .trap s .software (imm.setWidth 64) 0

/-- Steps 2 and 3 of R196; none of them where a context's teardown aborts the stream (R356). -/
def State.report (s : State) (c : Fin 96) (t : Fin 4) (x : TrapInfo) : State :=
  if (s.stream c t).silent then s else (s.writeTrap c t x).signalError c t

/-- ABORT takes effect: the fault registers clear, the plates go, and the stream is IDLE. -/
def State.finishAbort (s : State) (c : Fin 96) (t : Fin 4) : State := (s.modCore c fun k => k.clearFaults t).idleStream c t

/-- A stream drains and its earlier work is complete. -/
def State.drained (s : State) (p : Site) : Bool :=
  let st := s.stream p.core p.stream
  s.runs p.core && st.mode == .drain && !(s.core p.core).anyPending p.stream st.seqNo

/-- TRAP_DRAIN_COMPLETE: record, error fence, TRAPPED; an ABORT that came meanwhile then takes effect (R202). -/
def execTrapDrainComplete (p : Site) (s : State) : Out :=
  match (s.stream p.core p.stream).trap with
  | some x =>
    guard (s.drained p && x.code != TrapCode.aborted.num) "no trap drains"
      (let s := s.report p.core p.stream x
       if (s.stream p.core p.stream).aborting then s.finishAbort p.core p.stream
       else s.modStream p.core p.stream fun st => { st with mode := .trapped })
  | none => .refused (.notEnabled "no trap drains")

/-- The record of an ABORT; MULTI where running work met a fault. -/
def Stream.abortInfo (st : Stream) : TrapInfo :=
  { code := TrapCode.aborted.num, pc := st.pc, insn := 0, detail := 0, stoppc := st.pc, addr := 0,
    multi := match st.trap with
      | some x => x.multi
      | none => false }

/-- ABORT_DRAIN_COMPLETE. -/
def execAbortDrainComplete (p : Site) (s : State) : Out :=
  let st := s.stream p.core p.stream
  guard (s.drained p && st.aborting && (match st.trap with
      | some x => x.code == TrapCode.aborted.num
      | none => true)) "no abort drains"
    ((s.report p.core p.stream st.abortInfo).finishAbort p.core p.stream)

end Sys2Proof.Machine
end

