-- ==== Sys2Proof/Machine/Dma.lean ====
section
/-! DEFINITION. The DMA engine: acceptance, the transfers, maintenance, faults and completion (R215, R216, R253-R259,
R488, R489). A channel's oldest instruction is the one it executes; what it moves is moved when DMA_COMPLETE retires
it. -/
namespace Sys2Proof.Machine

/-- Fault codes of R258. -/
inductive DmaCode where
  | srcXlate | dstXlate | srcRight | dstRight | sealed | poison | stashFormat
deriving DecidableEq, Repr

def DmaCode.num : DmaCode → Nat
  | .srcXlate => 1 | .dstXlate => 2 | .srcRight => 3 | .dstRight => 4 | .sealed => 5 | .poison => 6 | .stashFormat => 7

/-- How a transfer's access ends. -/
inductive DmaErr where
  | fault (code : DmaCode) (addr : Nat)
  | withheld
deriving DecidableEq, Repr

/-! ### Pieces of a transfer -/

/-- Cut a run at the line boundaries of its source and its destination: (offset, bytes). -/
def pieces : (fuel src dst off len : Nat) → List (Nat × Nat)
  | 0, _, _, _, _ => []
  | f + 1, src, dst, off, len =>
    if len = 0 then []
    else
      let n := Min.min len (Min.min (256 - src % 256) (256 - dst % 256))
      (off, n) :: pieces f (src + n) (dst + n) (off + n) (len - n)

def piecesOf (src dst len : Nat) : List (Nat × Nat) := pieces (2 * (len / 256) + 4) src dst 0 len

/-- Bytes on their way to a DPA under an owner class. -/
structure Placed where
  dpa : Nat
  owner : BitVec 4
  bytes : List Byte
deriving DecidableEq, Repr

/-- Put neighbouring pieces of one line together, so that whole lines are full-line writes. -/
def joinPlaced : List Placed → List Placed
  | [] => []
  | p :: t =>
    match joinPlaced t with
    | [] => [p]
    | q :: r =>
      if p.dpa + p.bytes.length = q.dpa ∧ p.owner = q.owner ∧ p.dpa / 256 = q.dpa / 256 then
        { p with bytes := p.bytes ++ q.bytes } :: r
      else p :: q :: r

/-- Write what has been gathered and count it (R256, R267). -/
def State.place (s : State) (c : Fin 96) (ps : List Placed) : State :=
  let s := s.modMem fun m => (joinPlaced ps).foldl (fun m p => m.writeBytes .dma p.owner p.dpa p.bytes s.tick) m
  s.modCore c fun k => { k with
    dmaBytes := k.dmaBytes + BitVec.ofNat 64 (ps.foldl (fun n p => n + p.bytes.length) 0) }

/-! ### One access -/

/-- Read bytes that lie within one line, for a destination whose leaf is known (R258, R487). -/
def State.dmaRead (s : State) (c : Fin 96) (src n : Nat) (dst : Option Leaf) : State × Except DmaErr (List Byte) :=
  if src ≥ 2 ^ 48 then (s, .error (.fault .srcXlate src)) else
  let (s, f) := s.coreXlate c src false
  match f with
  | none => (s, .error (.fault .srcXlate src))
  | some f =>
    if !f.r then (s, .error (.fault .srcRight src))
    else if f.s && !(match dst with
        | some d => d.s && d.owner == f.owner
        | none => false) then (s, .error (.fault .sealed src))
    else
      let a := leafDpa f src
      let (m, r) := s.mem.readLine .dma (a / 256) (some f.owner) s.tick
      let s := { s with mem := m }
      match r with
      | .withheld => (s, .error .withheld)
      | .data _ true => (s, .error (.fault .poison src))
      | .data d false => (s, .ok ((List.range n).map fun i => d.getD (a % 256 + i) 0))

/-- The leaf of a destination (R258). -/
def State.dmaDst (s : State) (c : Fin 96) (dst : Nat) : State × Except DmaErr Leaf :=
  if dst ≥ 2 ^ 48 then (s, .error (.fault .dstXlate dst)) else
  let (s, f) := s.coreXlate c dst false
  match f with
  | none => (s, .error (.fault .dstXlate dst))
  | some f => (s, if f.w then .ok f else .error (.fault .dstRight dst))

/-- What a transfer runs under: the core, the owner keys it captured, the destination ranges its source may meet, and
the free draw for bytes that do. -/
structure XferCtx where
  c : Fin 96
  keys : List (Nat × BitVec 256)
  dsts : List (Nat × Nat)
  free : Nat
deriving DecidableEq, Repr

/-- The state of a running transfer: what is gathered and how it stands. -/
abbrev Xfer := State × List Placed × Option DmaErr

/-- An address lies in one of the destination ranges. -/
def overlaps (dsts : List (Nat × Nat)) (a : Nat) : Bool := dsts.any fun d => decide (d.1 ≤ a) && decide (a < d.1 + d.2)

/-- A byte whose source lies in the destination of the same transfer is ordered against none of its writes: it is free
(log entry 3). -/
def freeOverlap (x : XferCtx) : (src : Nat) → List Byte → List Byte
  | _, [] => []
  | a, b :: t => (if overlaps x.dsts a then Config.freeByte x.free a else b) :: freeOverlap x (a + 1) t

/-- One piece: source, destination, rights, sealed pages, poison. The source's own faults come before the
destination's. -/
def xferPiece (k : XferCtx) (src dst n : Nat) (x : Xfer) : Xfer :=
  match x.2.2 with
  | some _ => x
  | none =>
    let (s, f) := if src ≥ 2 ^ 48 then (x.1, none) else x.1.coreXlate k.c src false
    match f with
    | none => (s, x.2.1, some (.fault .srcXlate src))
    | some f =>
      if !f.r then (s, x.2.1, some (.fault .srcRight src))
      else
        match s.dmaDst k.c dst with
        | (s, .error e) => (s, x.2.1, some e)
        | (s, .ok d) =>
          match s.dmaRead k.c src n (some d) with
          | (s, .error e) => (s, x.2.1, some e)
          | (s, .ok bs) => (s, x.2.1 ++ [⟨leafDpa d dst, d.owner, freeOverlap k src bs⟩], none)

/-- A run of bytes. -/
def xferRun (k : XferCtx) (src dst len : Nat) (x : Xfer) : Xfer :=
  (piecesOf src dst len).foldl (fun x p => xferPiece k (src + p.1) (dst + p.1) p.2 x) x

/-! ### Imports (R488, R489) -/

/-- The owner key of a class among those a copy captured. -/
def ownerKey (keys : List (Nat × BitVec 256)) (cls : Nat) : Option (BitVec 256) :=
  (keys.find? fun k => k.1 = cls).map Prod.snd

/-- Read one chunk's bytes for an import; the source lies on pages without S. -/
def State.readChunk (s : State) (c : Fin 96) (src n : Nat) : State × Except DmaErr (List Byte) :=
  (piecesOf src src n).foldl (fun a p =>
    match a.2 with
    | .error e => (a.1, .error e)
    | .ok bs =>
      match a.1.dmaRead c (src + p.1) p.2 none with
      | (s, .error e) => (s, .error e)
      | (s, .ok b) => (s, .ok (bs ++ b))) (s, .ok [])

/-- Open chunk i of an import; `first` is the CHUNK value of the first. -/
def importChunk (keys : List (Nat × BitVec 256)) (owner : BitVec 4) (seq : Option Nat) (src : Nat) (bs : List Byte) :
    Except DmaErr (Nat × List Byte) :=
  let chunk := leNat ((bs.drop 8).take 4)
  let own := ((bs.getD 12 0).toNat) % 16
  if own ≠ owner.toNat then .error (.fault .sealed src)
  else match ownerKey keys own with
    | none => .error (.fault .sealed src)
    | some key =>
      let ok := match seq with
        | some n => chunk == n % 2 ^ 32
        | none => true
      if !ok then .error (.fault .poison src)
      else match gcmOpen key (bs.take 12) (bs.take 16) ((bs.drop 16).take 4096) (bs.drop 4112) with
        | some pt => .ok (chunk, pt)
        | none => .error (.fault .poison src)

/-- The chunks of one import in order. -/
def importRun (k : XferCtx) : (n : Nat) → (src dst len : Nat) → (seq : Option Nat) →
    Xfer → Xfer
  | 0, _, _, _, _, x => x
  | n + 1, src, dst, len, seq, x =>
    if len = 0 then x
    else if len < 4128 ∨ dst % 4096 ≠ 0 then (x.1, x.2.1, some (.fault .poison src))
    else
      match x.1.readChunk k.c src 4128 with
      | (s, .error e) => (s, x.2.1, some e)
      | (s, .ok bs) =>
        let (s, f) := if dst ≥ 2 ^ 48 then (s, none) else s.coreXlate k.c dst false
        match f with
        | none => (s, x.2.1, some (.fault .dstXlate dst))
        | some f =>
          if !f.i then (s, x.2.1, some (.fault .dstRight dst))
          else match importChunk k.keys f.owner seq src bs with
            | .error e => (s, x.2.1, some e)
            | .ok (n0, pt) =>
              importRun k n (src + 4128) (dst + 4096) (len - 4128) (some (n0 + 1))
                (s, x.2.1 ++ [⟨leafDpa f dst, f.owner, pt⟩], none)

/-- A copy row: an import where its destination page has I, else a plain run. -/
def copyRow (k : XferCtx) (src dst len : Nat) (x : Xfer) : Xfer :=
  match x.2.2 with
  | some _ => x
  | none =>
    if len = 0 then x else
    let (s, f) := if dst ≥ 2 ^ 48 then (x.1, none) else x.1.coreXlate k.c dst false
    let imp := match f with
      | some f => f.i
      | none => false
    if imp then importRun k (len / 4128 + 1) src dst len none (s, x.2.1, none)
    else xferRun k src dst len (s, x.2.1, none)

/-! ### The operations -/

/-- Index i of an index list. -/
def State.readIdx (s : State) (c : Fin 96) (list i : Nat) : State × Except DmaErr Nat :=
  match s.readChunk c (list + 4 * i) 4 with
  | (s, .ok bs) => (s, .ok (leNat bs))
  | (s, .error e) => (s, .error e)

/-- DGATHER and DSCATTER, sector by sector in ascending i (R215, R257). -/
def gatherRun (k : XferCtx) (scatter : Bool) (dst src idx : Nat) (n : Nat) (x : Xfer) : Xfer :=
  (List.range n).foldl (fun x i =>
    match x.2.2 with
    | some _ => x
    | none =>
      match x.1.readIdx k.c idx i with
      | (s, .error e) => (s, x.2.1, some e)
      | (s, .ok j) =>
        let a := if scatter then src + 32 * i else src + 32 * j
        let b := if scatter then dst + 32 * j else dst + 32 * i
        xferRun k a b 32 (s, x.2.1, none)) x

/-- The sectors of an address: bits [4:0] are ignored. -/
def sectorBase (a : Addr) : Nat := a.toNat / 32 * 32

/-- The sectors a DSCATTER names, as far as its index list can be read. -/
def scatterDsts (s : State) (c : Fin 96) (dst idx n : Nat) : List (Nat × Nat) :=
  (List.range n).filterMap fun i => match (s.readIdx c idx i).2 with
    | .ok k => some (dst + 32 * k, 32)
    | .error _ => none

/-- Lines that a range touches. -/
def rangeLines (dva : Addr) (len : Nat) : List Nat :=
  if len = 0 then [] else
  let a := dva.toNat / 256
  let b := (dva.toNat + len - 1) / 256
  (List.range (b - a + 1)).map (· + a)

/-- NSWB, NSINV, NSWBINV on one DVA line: lines without a translation are skipped (R253). -/
def State.nsMaint (s : State) (c : Fin 96) (wb inv : Bool) (dl : Nat) : State :=
  if 256 * dl ≥ 2 ^ 48 then s else
  match s.coreXlate c (256 * dl) false with
  | (s, none) => s
  | (s, some f) =>
    let l := leafDpa f (256 * dl) / 256
    let s := if wb then s.acceptLine c l else s
    if inv then s.modCore c fun k => k.nsDrop l else s

/-- Destination ranges of a copy, none where every row copies onto itself. -/
def copyDsts (dst src rows len dstride sstride : Nat) : List (Nat × Nat) :=
  if dst = src ∧ (dstride = sstride ∨ rows ≤ 1) then [] else (List.range rows).map fun i => (dst + i * dstride, len)

/-- Run a transfer; what was gathered before a fault is written (R259 step 3). -/
def runXfer (s : State) (c : Fin 96) (keys : List (Nat × BitVec 256)) (dsts : List (Nat × Nat))
    (f : XferCtx → Xfer → Xfer) : State × Option DmaErr :=
  let k : XferCtx := { c := c, keys := keys, dsts := dsts, free := s.glob.free }
  let s := if dsts.isEmpty then s else s.modGlob fun g => { g with free := g.free + 1 }
  let x := f k (s, [], none)
  (x.1.place c x.2.1, x.2.2)

/-! ### Stash (R320-R326) -/

/-- The format a stash form has in memory. -/
def stashUlen (sfmt : BitVec 2) (n : Nat) : Nat :=
  if sfmt = 0#2 then 3 * n / 2 else if sfmt = 1#2 then n + n / 32 else n / 8

/-- Cut a list into runs of k. -/
def chunksOf {α : Type} (k : Nat) : (fuel : Nat) → List α → List (List α)
  | 0, _ => []
  | n + 1, l => if l.isEmpty then [] else l.take k :: chunksOf k n (l.drop k)

/-- Bits to a byte, the first in bit 0. -/
def bitByte (l : List Bool) : Byte := BitVec.ofNat 8 (l.foldr (fun b n => (if b then 1 else 0) + 2 * n) 0)

/-- The sign-mask bit of an element: greater than zero (R321). -/
def posBit (v : Val) : Bool := Val.lt Val.zero v

/-- The uncompressed stash data of elements, with the NAN and OVF indications of all (R321). -/
def stashData (o : LayS) (f : Fmt) (xs : List W32) : List Byte × Bool × Bool :=
  let r := Rnd.ofField o.rnd 0
  if o.sfmt = 0#2 then
    let cs := xs.map fun x => convert f .fp12 r o.ovfm x
    (packElems .fp12 (cs.map Conv.bits), cs.any Conv.nan, cs.any Conv.ovf)
  else if o.sfmt = 1#2 then
    let bs := (chunksOf 32 (xs.length / 32 + 1) xs).map fun b =>
      mxBlock .e4m3 o.ovfm (b.map fun _ => r) (b.map f.toVal)
    ((bs.flatMap fun b => packElems .e4m3 b.2.1) ++ bs.map Prod.fst, bs.any fun b => b.2.2.1, bs.any fun b => b.2.2.2)
  else
    ((chunksOf 8 (xs.length / 8 + 1) xs).map fun b => bitByte (b.map fun x => posBit (f.toVal x)),
     xs.any fun x => (f.toVal x).isNan, false)

/-- Words of 4 bytes, the last padded with zeros (R322). -/
def zrcWords (bs : List Byte) : List (List Byte) :=
  (chunksOf 4 (bs.length / 4 + 1) bs).map fun w => (w ++ List.replicate 4 0).take 4

def zeroWord (w : List Byte) : Bool := w.all (· == 0)

/-- Zero tokens for n zero words. -/
def zeroTokens (n : Nat) : List Byte :=
  List.replicate (n / 128) 0xFF ++ (if n % 128 = 0 then [] else [BitVec.ofNat 8 (0x80 + n % 128 - 1)])

/-- Literal tokens of words. -/
def litTokens (ws : List (List Byte)) : List Byte :=
  (chunksOf 128 (ws.length / 128 + 1) ws).flatMap fun l => BitVec.ofNat 8 (l.length - 1) :: l.flatten

/-- Words of a literal run: up to two zero words in a row (R322). -/
def litRun : List (List Byte) → Nat
  | [] => 0
  | [_] => 1
  | a :: b :: t => if zeroWord a && zeroWord b then 0 else litRun (b :: t) + 1

/-- The fixed encoding of R322: the stream, and the words its zero tokens carry. -/
def zrcEncode : (fuel : Nat) → List (List Byte) → List Byte × Nat
  | 0, _ => ([], 0)
  | n + 1, ws =>
    if ws.isEmpty then ([], 0)
    else
      let z := (ws.takeWhile zeroWord).length
      if z ≥ 2 then
        let r := zrcEncode n (ws.drop z)
        (zeroTokens z ++ r.1, z + r.2)
      else
        let j := litRun ws
        let r := zrcEncode n (ws.drop j)
        (litTokens (ws.take j) ++ r.1, r.2)

/-- Decode a stream: the words, and those carried by zero tokens; none where a token runs past the end. -/
def zrcDecode : (fuel : Nat) → List Byte → Option (List Byte × Nat)
  | 0, bs => if bs.isEmpty then some ([], 0) else none
  | _ + 1, [] => some ([], 0)
  | n + 1, b :: t =>
    let k := b.toNat % 128 + 1
    if b.getLsbD 7 then (zrcDecode n t).map fun r => (List.replicate (4 * k) 0 ++ r.1, k + r.2)
    else if t.length < 4 * k then none
    else (zrcDecode n (t.drop (4 * k))).map fun r => (t.take (4 * k) ++ r.1, r.2)

/-- The stash record (R324). -/
def stashRecord (o : LayS) (n clen zwords : Nat) (nan ovf : Bool) : List Word :=
  [ 0x8000000000000000#64 ||| at' o.fmt.toNat 58 ||| at' o.sfmt.toNat 56 ||| flag o.zrc 55 ||| at' o.rnd.toNat 53 |||
      flag o.ovfm 52 ||| flag nan 51 ||| flag ovf 50 ||| at' n 0,
    BitVec.ofNat 64 (stashUlen o.sfmt n), BitVec.ofNat 64 clen, BitVec.ofNat 64 zwords, 0, 0, 0, 0 ]

/-- Read a run whose destination ranges decide the seal: every piece of a sealed source needs the leaf of the first
destination byte (R258, R328). -/
def State.readSealed (s : State) (c : Fin 96) (src n : Nat) (dst : Option Leaf) : State × Except DmaErr (List Byte) :=
  (piecesOf src src n).foldl (fun a p =>
    match a.2 with
    | .error e => (a.1, .error e)
    | .ok bs =>
      match a.1.dmaRead c (src + p.1) p.2 dst with
      | (s, .error e) => (s, .error e)
      | (s, .ok b) => (s, .ok (bs ++ b))) (s, .ok [])

/-- Gather bytes for a destination, every page checked; a sealed source's class must be every page's. -/
def placeRun (c : Fin 96) (sealCls : Option (BitVec 4)) (src dst : Nat) (bs : List Byte) (x : Xfer) : Xfer :=
  ((piecesOf dst dst bs.length).foldl (fun (a : Xfer × List Byte) p =>
    match a.1.2.2 with
    | some _ => a
    | none =>
      match a.1.1.dmaDst c (dst + p.1) with
      | (s, .error e) => ((s, a.1.2.1, some e), a.2)
      | (s, .ok d) =>
        let bad := match sealCls with
          | some o => !(d.s && d.owner == o)
          | none => false
        if bad then ((s, a.1.2.1, some (.fault .sealed src)), a.2)
        else ((s, a.1.2.1 ++ [⟨leafDpa d (dst + p.1), d.owner, a.2.take p.2⟩], none), a.2.drop p.2)) (x, bs)).1

/-- The owner class of the first sealed page of a range, none where no page is sealed. -/
def State.sealAt (s : State) (c : Fin 96) (dva len : Nat) : State × Option (BitVec 4) :=
  (pagesOf dva len).foldl (fun a p =>
    match a.2 with
    | some o => (a.1, some o)
    | none =>
      if p.1 ≥ 2 ^ 48 then a else
      match a.1.coreXlate c p.1 false with
      | (s, some f) => (s, if f.s then some f.owner else none)
      | (s, none) => (s, none)) (s, none)

/-- The leaf of a destination byte as far as it has one. -/
def State.leafAt (s : State) (c : Fin 96) (dva : Nat) : State × Option Leaf :=
  if dva ≥ 2 ^ 48 then (s, none) else s.coreXlate c dva false

/-- Bytes to write at once. -/
def State.placeAll (s : State) (c : Fin 96) (sc : Option (BitVec 4)) (src dst : Nat) (bs : List Byte) :
    State × Option DmaErr :=
  let x := placeRun c sc src dst bs (s, [], none)
  (x.1.place c x.2.1, x.2.2)

/-- STASH (R321-R324): word 0 of the record as zero, which carries nothing of the source and no seal, the data, then the
whole record. -/
def runStash (s : State) (c : Fin 96) (dst src record : Addr) (n : Nat) (o : LayS) : State × Option DmaErr :=
  let f := (Fmt.ofCode o.fmt).getD .fp32
  let rec0 := record.toNat / 64 * 64
  let (s, sc) := s.sealAt c src.toNat (f.bytesOf n)
  let (s, e) := s.placeAll c none src.toNat rec0 (List.replicate 8 0)
  match e with
  | some e => (s, some e)
  | none =>
    let (s, d) := s.leafAt c dst.toNat
    match s.readSealed c src.toNat (f.bytesOf n) d with
    | (s, .error e) => (s, some e)
    | (s, .ok bs) =>
      let (data, nan, ovf) := stashData o f (unpackElems f n bs)
      let (stored, z) := if o.zrc then zrcEncode (data.length + 1) (zrcWords data) else (data, 0)
      let (s, e) := s.placeAll c sc src.toNat dst.toNat stored
      match e with
      | some e => (s, some e)
      | none => s.placeAll c sc src.toNat rec0 (wordBytes (stashRecord o n stored.length z nan ovf))

/-- The element of a stash form as a value (R325). -/
def unstashBits (o : LayS) (f : Fmt) (n : Nat) (data : List Byte) : List W32 :=
  if o.sfmt = 0#2 then (unpackElems .fp12 n data).map fun x => (convert .fp12 f .rne false x).bits
  else if o.sfmt = 1#2 then
    (unpackElems .e4m3 n data).mapIdx fun i x =>
      let sc := data.getD (n + i / 32) 0
      if sc = 0xFF then f.canonNan
      else (f.conv .rne false ((Fmt.e4m3.toVal x).scale ((sc.toNat : Int) - 127))).bits
  else (List.range n).map fun i =>
    if (data.getD (i / 8) 0).getLsbD (i % 8) then (f.conv .rne false (Val.ofInt 1)).bits else 0

/-- ULEN is the value R320 gives, which is no whole number for some counts. -/
def ulenOk (sfmt : BitVec 2) (n ulen : Nat) : Bool :=
  if sfmt = 0#2 then 2 * ulen == 3 * n else if sfmt = 1#2 then 32 * ulen == 33 * n else 8 * ulen == n

/-- The record names what the instruction asks for (R326). -/
def recordOk (o : LayS) (n : Nat) (ws : List Word) : Bool :=
  let w := ew ws 0
  w.getLsbD 63 && nfld w 40 10 == 0 && nfld (ew ws 1) 48 16 == 0 && nfld (ew ws 2) 48 16 == 0 &&
    nfld (ew ws 3) 48 16 == 0 && ((ws.drop 4).all (· == 0)) && nfld w 56 2 != 3 &&
    (nfld w 58 5 == 0 || nfld w 58 5 == 2 || nfld w 58 5 == 3) && decide (nfld w 53 2 ≤ 1) && nfld w 0 40 == n &&
    nfld w 58 5 == o.fmt.toNat && ulenOk (BitVec.ofNat 2 (nfld w 56 2)) n (ew ws 1).toNat &&
    (w.getLsbD 55 || ew ws 2 == ew ws 1)

/-- UNSTASH (R325, R326): the form and the compression are the record's. -/
def runUnstash (s : State) (c : Fin 96) (dst src record : Addr) (n : Nat) (o : LayS) : State × Option DmaErr :=
  let rec0 := record.toNat / 64 * 64
  let (s, d) := s.leafAt c dst.toNat
  match s.readSealed c rec0 64 d with
  | (s, .error e) => (s, some e)
  | (s, .ok bs) =>
    let ws := leWords 8 bs
    if !recordOk o n ws then (s, some (.fault .stashFormat rec0))
    else
      let o := { o with sfmt := BitVec.ofNat 2 (nfld (ew ws 0) 56 2), zrc := (ew ws 0).getLsbD 55 }
      let (s, sc) := s.sealAt c src.toNat (ew ws 2).toNat
      match s.readSealed c src.toNat (ew ws 2).toNat d with
      | (s, .error e) => (s, some e)
      | (s, .ok data) =>
        let ulen := (ew ws 1).toNat
        let words := 4 * ((ulen + 3) / 4)
        let dec := if o.zrc then
            (zrcDecode (data.length + 1) data).bind fun r =>
              if r.1.length = words ∧ r.2 = (ew ws 3).toNat then some (r.1.take ulen) else none
          else some data
        match dec with
        | none => (s, some (.fault .stashFormat rec0))
        | some data =>
          let f := (Fmt.ofCode o.fmt).getD .fp32
          s.placeAll c sc src.toNat dst.toNat (packElems f (unstashBits o f n data))

/-! ### Execution of a channel's head (R254, R255, R259) -/

/-- Run one operation. -/
def runDma (s : State) (c : Fin 96) (d : DmaEntry) : State × Option DmaErr :=
  match d.op with
  | .copy dst src rows len ds ss _ =>
    runXfer s c d.keys (copyDsts dst.toNat src.toNat rows len ds ss) fun k x =>
      (List.range rows).foldl (fun x i => copyRow k (src.toNat + i * ss) (dst.toNat + i * ds) len x) x
  | .gather dst src idx n =>
    runXfer s c d.keys [(sectorBase dst, 32 * n)] fun k x =>
      gatherRun k false (sectorBase dst) (sectorBase src) idx.toNat n x
  | .scatter dst src idx n =>
    runXfer s c d.keys (scatterDsts s c (sectorBase dst) idx.toNat n) fun k x => gatherRun k true (sectorBase dst) (sectorBase src) idx.toNat n x
  | .nswb dva len => ((rangeLines dva len).foldl (fun s l => s.nsMaint c true false l) s, none)
  | .nsinv dva len => ((rangeLines dva len).foldl (fun s l => s.nsMaint c false true l) s, none)
  | .nswbinv dva len => ((rangeLines dva len).foldl (fun s l => s.nsMaint c true true l) s, none)
  | .stash dst src r n o => runStash s c dst src r n o
  | .unstash dst src r n o => runUnstash s c dst src r n o

/-- The oldest entry of a channel. -/
def Core.dmaHead (k : Core) (ch : Fin 5) : Option DmaEntry := k.dmaQ.find? fun d => d.channel == ch

/-- Remove the oldest entry of a channel; the next one starts. -/
def dropHead (ch : Fin 5) : List DmaEntry → List DmaEntry
  | [] => []
  | d :: t => if d.channel = ch then startHead ch t else d :: dropHead ch t
where
  startHead (ch : Fin 5) : List DmaEntry → List DmaEntry
    | [] => []
    | d :: t => if d.channel = ch then { d with started := true } :: t else d :: startHead ch t

/-- The fault record of an operation (R267). -/
def dmaRecord (d : DmaEntry) (code : DmaCode) (discard : Nat) : Word :=
  0x8000000000000000#64 ||| at' d.channel.val 59 ||| at' code.num 55 |||
    (if d.channel = 4 then at' 2 43 else at' (nfld d.insn 58 6) 49 ||| at' (nfld d.insn 52 6) 43) ||| at' discard 38

/-- A fault halts the channel, discards what is behind, and reports (R259). On channel 4 the copies behind are commands of
other queues: each is refused with COPY_FAULT as the faulting one is, and DISCARD stays at its greatest value (DEDUCED,
log entry 45). -/
def State.dmaFault (s : State) (c : Fin 96) (d : DmaEntry) (code : DmaCode) (addr : Nat) : State :=
  let k := s.core c
  let behind := (k.dmaQ.filter fun x => x.channel == d.channel).length - 1
  let s := s.modCore c fun k => { k with
    dmaQ := k.dmaQ.filter fun x => x.channel != d.channel
    dmaHalted := k.dmaHalted ||| (1#5 <<< d.channel.val)
    dmaFaddr := if k.dmaFault.getLsbD 63 then k.dmaFaddr else BitVec.ofNat 48 addr
    dmaFault := faultReg k.dmaFault (dmaRecord d code (Min.min behind 15)) }
  if h : d.channel.val < 4 then
    s.trapEngine c ⟨d.channel.val, h⟩ .dma d.seqNo d.pc d.insn (s.core c).dmaFault (s.core c).dmaFaddr
  else (k.dmaQ.filter fun x => x.channel == d.channel).foldl (fun s x => s.refuseCmd x.queue 7) s

/-- Take the oldest entry of a channel away; while a QUARANTINE drains no further one starts (R266). -/
def Core.dmaDrop (k : Core) (ch : Fin 5) : Core :=
  { k with dmaQ := if k.draining then (match k.dmaHead ch with
      | some d => k.dmaQ.erase d
      | none => k.dmaQ) else dropHead ch k.dmaQ }

/-- DMA_COMPLETE: the channel's head runs to its end or to its fault, also while a QUARANTINE drains where it had started,
its requests being all in flight (R266). -/
def execDmaComplete (c : Fin 96) (ch : Fin 5) (s : State) : Out :=
  match (s.core c).dmaHead ch with
  | none => .refused (.notEnabled "the channel holds no work")
  | some d =>
    guard (s.completes c && (d.started || !(s.core c).draining)) "the core does not run, or the work had not started"
      (match runDma s c d with
       | (s, some .withheld) => s
       | (s, some (.fault code addr)) => (s.dmaFault c d code addr).settleHeld c
       | (s, none) =>
         let s := s.modCore c fun k => k.dmaDrop ch
         if ch = 4 then s.completeCmd d.queue true else s.settleHeld c)

/-! ### Acceptance (R215-R217, R254) -/

/-- Instructions of channels 0-3 in the queue. -/
def Core.dmaDepth (k : Core) : Nat := (k.dmaQ.filter fun d => d.channel != 4).length

/-- The instruction's count or length reads zero (the near-store and DMA instructions of chapter 7). -/
def DmaOp.empty : DmaOp → Bool
  | .copy _ _ rows len _ _ _ => rows == 0 || len == 0
  | .gather _ _ _ n | .scatter _ _ _ n => n == 0
  | .nswb _ len | .nsinv _ len | .nswbinv _ len => len == 0
  | .stash _ _ _ n _ | .unstash _ _ _ n _ => n == 0

/-- An instruction enters the queue, or waits for a place; with nothing to move it is complete at acceptance. -/
def opDma (op : DmaOp) (a : At) (s : State) : Issued :=
  let k := s.core a.c
  if k.dmaDepth ≥ 16 then .stall s .full
  else if op.empty then .done s
  else
    let ch : Fin 5 := a.t.castSucc
    let keys := (Tbl.get CtxSec.none s.reg.ctxs (s.ctxOf a.c).toNat).ownerKeys
    .done (s.modCore a.c fun k => { k with
      dmaQ := k.dmaQ ++ [{ channel := ch, seqNo := a.seqNo, pc := a.pc, insn := a.insn, op := op, keys := keys,
                           started := (k.dmaHead ch).isNone, queue := 0 }] })

def execDcopy (p : Site) (o : LayD) (s : State) : Out :=
  issue p (.dcopy p o) s fun a s =>
    opDma (.copy (addr48 (s.rx a o.r1)) (addr48 (s.rx a o.r2)) 1 (s.rx a o.r3).toNat 0 0 false) a s

def execDcopy2d (p : Site) (o : LayD) (ds ss : BitVec 32) (s : State) : Out :=
  issue p (.dcopy2d p o ds ss) s fun a s =>
    opDma (.copy (addr48 (s.rx a o.r1)) (addr48 (s.rx a o.r2)) (s.rx a o.r4).toNat (s.rx a o.r3).toNat ds.toNat ss.toNat
      true) a s

def execDgather (p : Site) (o : LayD) (s : State) : Out :=
  issue p (.dgather p o) s fun a s =>
    opDma (.gather (addr48 (s.rx a o.r1)) (addr48 (s.rx a o.r2)) (addr48 (s.rx a o.r3)) (s.rx a o.r4).toNat) a s

def execDscatter (p : Site) (o : LayD) (s : State) : Out :=
  issue p (.dscatter p o) s fun a s =>
    opDma (.scatter (addr48 (s.rx a o.r1)) (addr48 (s.rx a o.r2)) (addr48 (s.rx a o.r3)) (s.rx a o.r4).toNat) a s

/-- NSPF requests every line of its range and is complete at acceptance (R216, R253). -/
def nspfLines (a : At) (lines : List Nat) (s : State) : State :=
  lines.foldl (fun s dl =>
    if 256 * dl ≥ 2 ^ 48 then s else
    match s.coreXlate a.c (256 * dl) true with
    | (s, none) => s
    | (s, some f) =>
      if !f.r then s
      else s.modCore a.c fun k => k.prefetch
        { line := BitVec.ofNat 40 (leafDpa f (256 * dl) / 256), stream := a.t, epoch := k.epochs[a.t], owner := f.owner }
        true) s

def execNspf (p : Site) (o : LayD) (s : State) : Out :=
  issue p (.nspf p o) s fun a s =>
    if (s.core a.c).dmaDepth ≥ 16 then .stall s .full
    else .done (nspfLines a (rangeLines (addr48 (s.rx a o.r1)) (s.rx a o.r2).toNat) s)

def execNswb (p : Site) (o : LayD) (s : State) : Out :=
  issue p (.nswb p o) s fun a s => opDma (.nswb (addr48 (s.rx a o.r1)) (s.rx a o.r2).toNat) a s
def execNsinv (p : Site) (o : LayD) (s : State) : Out :=
  issue p (.nsinv p o) s fun a s => opDma (.nsinv (addr48 (s.rx a o.r1)) (s.rx a o.r2).toNat) a s
def execNswbinv (p : Site) (o : LayD) (s : State) : Out :=
  issue p (.nswbinv p o) s fun a s => opDma (.nswbinv (addr48 (s.rx a o.r1)) (s.rx a o.r2).toNat) a s

/-- The count of a stash form is checked at issue (R217, R324). -/
def stashCountOk (o : LayS) (n : Nat) : Bool :=
  decide (n < 2 ^ 40) && n % (if o.sfmt = 0#2 then 2 else if o.sfmt = 1#2 then 32 else 8) == 0

def execStash (p : Site) (o : LayS) (s : State) : Out :=
  issue p (.stash p o) s fun a s =>
    let n := (s.rx a o.r3).toNat
    if !stashCountOk o n then .trap s .illegal 37 0
    else opDma (.stash (addr48 (s.rx a o.r1)) (addr48 (s.rx a o.r2)) (addr48 (s.rx a o.r4)) n o) a s

def execUnstash (p : Site) (o : LayS) (s : State) : Out :=
  issue p (.unstash p o) s fun a s =>
    let n := (s.rx a o.r3).toNat
    if !stashCountOk o n then .trap s .illegal 37 0
    else opDma (.unstash (addr48 (s.rx a o.r1)) (addr48 (s.rx a o.r2)) (addr48 (s.rx a o.r4)) n o) a s

/-! ### Prefetches, write queue, evictions, walks (R240, R243, R246, R251, R252, R265) -/

/-- The line a trained entry prefetches next, within its distance. -/
def pfLine (k : Core) (e : PfEntry) : Option Nat :=
  let a := e.issued + e.stride
  let ahead := if e.stride > 0 then decide (a ≤ e.last + k.pfdist.toNat * e.stride)
    else decide (e.last + k.pfdist.toNat * e.stride ≤ a)
  if e.trained && ahead && decide (0 ≤ a) && decide (a < 2 ^ 40) then some a.toNat else none

/-- The next line lies beyond a page boundary. -/
def pfCrosses (e : PfEntry) (a : Nat) : Bool := decide (e.issued / 8192 ≠ (a : Int) / 8192)

/-- The translation the prefetcher may use for a line. -/
def pfLeaf (k : Core) (a : Nat) : Option Leaf := (k.tlbFind (256 * a)).filter fun f => f.r

/-- The next line of a trained entry that may be prefetched now: at a page boundary an entry that holds waits (R252). -/
def pfNext (k : Core) (e : PfEntry) : Option (Nat × Leaf) :=
  (pfLine k e).bind fun a => if e.hold.isSome && pfCrosses e a then none else (pfLeaf k a).map fun f => (a, f)

/-- A trained entry meets a page boundary without a translation, and holds (R252). -/
def pfHolds (k : Core) (e : PfEntry) : Bool :=
  match pfLine k e with
  | some a => pfCrosses e a && e.hold.isNone && (pfLeaf k a).isNone
  | none => false

/-- STRIDE_PREFETCH: a trained entry issues its next prefetch, or holds at a page boundary. -/
def execStridePrefetch (c : Fin 96) (i : Fin 16) (s : State) : Out :=
  let k := s.core c
  match (k.pf[i.val]?).bind fun e => (pfNext k e).map fun x => (e, x) with
  | none =>
    guard (s.runs c && k.pfen && (k.pf[i.val]?).any (pfHolds k)) "the entry has no line to prefetch"
      (s.modCore c fun k => { k with pf := k.pf.modify i.val fun e => { e with hold := some true } })
  | some (e, a, f) =>
    guard (s.runs c && k.pfen && decide (k.fills.length < k.pfmax.toNat) && !k.missWaiting) "the prefetcher is held"
      (s.modCore c fun k => { k with
        pf := k.pf.modify i.val fun e => { e with issued := a, hold := none }
        fills := k.fills ++ [{ line := BitVec.ofNat 40 (leafDpa f (256 * a) / 256), stream := e.stream,
                               epoch := k.epochs[e.stream], owner := f.owner }] })

/-- SECTOR_WRITE: the slice accepts the core's oldest sector write. -/
def execSectorWrite (c : Fin 96) (s : State) : Out :=
  guard (s.completes c && !(s.core c).wq.isEmpty) "no sector write waits"
    (s.acceptOne c)

/-- SLICE_EVICTION: a slice writes a line back and drops it. -/
def execSliceEviction (line : BitVec 40) (s : State) : Out :=
  guard (s.live && s.glob.meshRun && (s.mem.sliceFind line.toNat).isSome) "the slice does not hold the line"
    (s.modMem fun m => m.sliceEvict line.toNat)

/-- A walk installs a leaf: prefetcher entries that hold at its page, and whose pair has made no access since, go on
(R266). -/
def pfRelease (page : Nat) (e : PfEntry) : PfEntry :=
  if e.hold = some true ∧ (e.issued + e.stride) / 8192 = page then { e with hold := none } else e

/-- TRANSLATION_WALK: a walk of the core's context installs the leaf it finds. -/
def execTranslationWalk (c : Fin 96) (dva : Addr) (s : State) : Out :=
  let k := s.core c
  match k.ctx with
  | none => .refused (.notEnabled "the core has no context")
  | some x =>
    guard (s.runs c && (k.tlbFind dva.toNat).isNone) "the translation cache holds the page"
      (match (s.modCore c fun k => { k with walks := k.walks + 1 }).coreWalk c x dva.toNat with
       | (s, some _) => s.modCore c fun k => { k with pf := k.pf.map (pfRelease (dva.toNat / 0x200000)) }
       | (s, none) => s)

end Sys2Proof.Machine
end

