-- ==== Sys2Proof/Machine/Approx.lean ====
section
/-! DEFINITION. Results the rules bound without fixing them (R121, R149): a part's own function gives the result wherever
it keeps the bound, which is checked against a rational enclosure of the exact value. The functions are opaque constants
of Config (log entry 4). -/
namespace Sys2Proof.Machine

/-- Fractional bits of the fixed-point numbers below. -/
def apxBits : Nat := 320

/-- A real number between `lo` and `hi`, both in units of 2^−apxBits. -/
structure Encl where
  lo : Int
  hi : Int
deriving DecidableEq, Repr

/-- A quotient of naturals, enclosed. -/
def Encl.quot (n d : Nat) : Encl := ⟨(n * 2 ^ apxBits / d : Nat), (n * 2 ^ apxBits / d + 1 : Nat)⟩

/-- The magnitude of a finite value as a fraction. -/
def fracOf (m : Nat) (e : Int) : Nat × Nat := if e ≥ 0 then (m * 2 ^ e.toNat, 1) else (m, 2 ^ (-e).toNat)

/-! ### e^x -/

/-- The Taylor series of e^(n/d) from term i on; n/d is at most 1/32. The terms after the last are less than it. -/
def expSeries (n d : Nat) : (k i : Nat) → (lo hi sumLo sumHi : Nat) → Nat × Nat
  | 0, _, _, hi, a, b => (a, b + hi + 1)
  | k + 1, i, lo, hi, a, b =>
    let lo := lo * n / (d * i)
    let hi := hi * n / (d * i) + 1
    expSeries n d k (i + 1) lo hi (a + lo) (b + hi)

/-- Square n times. -/
def squares : (n : Nat) → Nat × Nat → Nat × Nat
  | 0, x => x
  | n + 1, x => squares n (x.1 * x.1 / 2 ^ apxBits, x.2 * x.2 / 2 ^ apxBits + 1)

/-- e^(n/d) for n/d at most 128. -/
def expUp (n d : Nat) : Nat × Nat :=
  squares 12 (expSeries n (d * 4096) 60 1 (2 ^ apxBits) (2 ^ apxBits) (2 ^ apxBits) (2 ^ apxBits))

/-- e^(±n/d). -/
def expEncl (neg : Bool) (n d : Nat) : Encl :=
  let x := expUp n d
  if neg then ⟨(2 ^ (2 * apxBits) / x.2 : Nat), (2 ^ (2 * apxBits) / x.1 + 1 : Nat)⟩ else ⟨x.1, x.2⟩

/-! ### ln x -/

/-- 2 · artanh(n/d) for n/d at most 1/3. -/
def lnSeries (n d : Nat) : (k i : Nat) → (lo hi sumLo sumHi : Nat) → Nat × Nat
  | 0, _, _, hi, a, b => (a, b + hi + 1)
  | k + 1, i, lo, hi, a, b =>
    let a := a + 2 * lo / (2 * i + 1)
    let b := b + 2 * hi / (2 * i + 1) + 1
    lnSeries n d k (i + 1) (lo * n * n / (d * d)) (hi * n * n / (d * d) + 1) a b

/-- ln(n/d) for n/d from 1 to 2. -/
def lnUnit (n d : Nat) : Nat × Nat :=
  let q := Encl.quot (n - d) (n + d)
  lnSeries (n - d) (n + d) 220 0 q.lo.toNat q.hi.toNat 0 0

/-- ln of m·2^e, m positive. -/
def lnEncl (m : Nat) (e : Int) : Encl :=
  let b := Nat.log2 m
  let k : Int := b + e
  let x := lnUnit m (2 ^ b)
  let l2 := lnUnit 2 1
  if k ≥ 0 then ⟨x.1 + k * l2.1, x.2 + k * l2.2⟩ else ⟨x.1 + k * l2.2, x.2 + k * l2.1⟩

/-! ### 1/√x -/

/-- The integer square root, bit by bit from bit k down. -/
def isqrtGo (n : Nat) : (k r : Nat) → Nat
  | 0, r => r
  | k + 1, r => isqrtGo n k (if (r + 2 ^ k) * (r + 2 ^ k) ≤ n then r + 2 ^ k else r)

/-- 1/√(n/d), for n/d at least 2^−160. -/
def rsqEncl (n d : Nat) : Encl :=
  let r := isqrtGo (d * 2 ^ (2 * apxBits) / n) 420 0
  ⟨r, r + 1⟩

/-! ### x · σ(z): SiLU, and GELU in its tanh form (R120) -/

/-- ±n/d times 1/(1 + e^(−z)), z = ±zn/zd with the same sign. -/
def sigmoidEncl (neg : Bool) (n d zn zd : Nat) : Encl :=
  let t := expEncl (!neg) zn zd
  let one : Nat := 2 ^ apxBits
  let lo := one * one / (one + t.hi.toNat) * n / d
  let hi := (one * one / (one + t.lo.toNat) + 1) * n / d + 1
  if neg then ⟨-hi, -lo⟩ else ⟨lo, hi⟩

/-- GELU of ±n/d. -/
def geluEncl (neg : Bool) (n d : Nat) : Encl :=
  -- 2 × 0.797884561 × (x + 0.044715 × x³), over 10^15 d³
  sigmoidEncl neg n d (2 * 797884561 * (1000000 * n * d * d + 44715 * n * n * n)) (1000000000 * 1000000 * d * d * d)

def siluEncl (neg : Bool) (n d : Nat) : Encl := sigmoidEncl neg n d n d

/-! ### The bound -/

/-- The spacing of FP32 at a value, in units of 2^−apxBits. -/
def ulpOf (x : Encl) : Int :=
  ((2 ^ Max.max (Nat.log2 (Max.max x.lo.natAbs x.hi.natAbs) - 23) (apxBits - 149) : Nat) : Int)

/-- A finite FP32 word lies within a bound of an enclosed value. -/
def near (y : W32) (x : Encl) (bound : Int) : Bool :=
  match Fmt.fp32.toVal y with
  | .fin neg m e =>
    let a : Int := (m * 2 ^ (e + apxBits).toNat : Nat)
    let a := if neg then -a else a
    decide (x.lo - bound ≤ a) && decide (a ≤ x.hi + bound)
  | _ => false

/-- The part's result where it keeps the bound; any other is replaced by the exact value rounded once, which keeps it.
DESIGN CHOICE (log entry 4): where no finite word keeps it (VEXP of 0x42B17218, which R150 does not count as an overflow), the
rounding gives +infinity and OVF. -/
def bounded (raw : W32) (x : Encl) (bound : Int) : Conv :=
  if near raw x bound then ⟨raw, false, false⟩
  else Fmt.fp32.rne (.fin (decide (x.lo < 0)) x.lo.natAbs (-(apxBits : Int)))

/-- Within k units in the last place (R149). -/
def ulps (raw : W32) (x : Encl) (k : Int) : Conv := bounded raw x (k * ulpOf x)

/-- Within 2^−16 × max(1, |x|) of a value at ±n/d (R121). -/
def within16 (raw : W32) (x : Encl) (n d : Nat) : W32 :=
  (bounded raw x (Max.max (2 ^ (apxBits - 16)) (n * 2 ^ (apxBits - 16) / d) : Nat)).bits

end Sys2Proof.Machine
end

