-- ==== Sys2Proof/Machine/Clamp.lean ====
section
/-! DEFINITION. The array clamp over core cycles: its level, and what an array meets of it (R102, R528, R529, R531). -/
namespace Sys2Proof.Machine

/-- The clamp level after n core cycles of the present movement: the fall of R528 from the value it began at, or the rise
of R529. -/
def Supply.clampAt (u : Supply) (n : Nat) : Nat :=
  match u.clamp with
  | .normal => 256
  | .held => if n ≥ u.clampDur then 102 else u.clampFrom - (u.clampFrom - 102) * n / u.clampDur
  | .rising => 102 + 154 * Min.min n 256 / 256

/-- The clamp level now. -/
def Supply.clampLevel (u : Supply) : Nat := u.clampAt u.clampJ

/-- The value the present movement began at. -/
def Supply.clampStart (u : Supply) : Nat :=
  match u.clamp with
  | .normal => 256
  | .held => u.clampFrom
  | .rising => 102

/-- A movement begins; its first cycle is the one in which the event is seen. -/
def Supply.moveClamp (u : Supply) (c : Clamp) (from' dur : Nat) : Supply :=
  { u with clamp := c, clampFrom := from', clampDur := dur, clampJ := 1, clampSeq := u.clampSeq + 1 }

/-- The clamp falls from its current value towards 0x66 (R528, R531). -/
def Supply.clampFall (u : Supply) : Supply :=
  u.moveClamp .held u.clampLevel ((32 * (u.clampLevel - 102) + 153) / 154)

/-- The clamp at 256, with no movement. -/
def Supply.clampOff (u : Supply) : Supply :=
  { u with clamp := .normal, clampFrom := 256, clampDur := 32, clampJ := 0 }

/-- Core cycles of a run of n before the movement began, for an array that has not followed it yet: the rules give the
start of a movement within bounds only (log entry 16). -/
def State.clampLag (s : State) (c : Fin 96) (x : Arr) (event n : Nat) : Nat :=
  if x.clampSeq = s.sup.clampSeq then 0 else Config.timing 5 c s.tick event % (n + 1)

/-- The clamp in cycle i of the next n cycles of an array. -/
def State.clampRun (s : State) (c : Fin 96) (x : Arr) (event n i : Nat) : Nat :=
  let lag := s.clampLag c x event n
  if i < lag then s.sup.clampStart
  else s.sup.clampAt ((if x.clampSeq = s.sup.clampSeq then x.clampPos else 0) + (i - lag) + 1)

/-- The array has followed the movement through n more cycles. -/
def State.clampSeen (s : State) (c : Fin 96) (x : Arr) (event n : Nat) : Arr :=
  { x with
    clampSeq := s.sup.clampSeq
    clampPos := (if x.clampSeq = s.sup.clampSeq then x.clampPos else 0) + (n - s.clampLag c x event n) }

/-- The clamp has come at least as far as an array has followed its present movement. -/
def State.clampTo (s : State) (x : Arr) : State :=
  if s.sup.clamp = .normal ∨ x.clampSeq ≠ s.sup.clampSeq then s else s.modSup fun u => { u with clampJ := Max.max u.clampJ x.clampPos }

/-- A tick is 40 ns: four core cycles for each 100 MHz of the governed clock (R31, R533). -/
def Supply.tickClamp (u : Supply) : Supply :=
  if u.clamp = .normal then u else { u with clampJ := u.clampJ + 4 * u.farith }

end Sys2Proof.Machine
end

