-- ==== Sys2Proof/Machine/Flags.lean ====
section
/-! DEFINITION. The flags a stream's work leaves: tile flags, vector flags and SFLAG's view of both (R123, R157, R213). -/
namespace Sys2Proof.Machine

/-- OR a tile's flags into its stream's bits: bit 2s OVF, bit 2s + 1 NAN (R123). -/
def Core.orTile (k : Core) (t : Fin 4) (nan ovf : Bool) : Core :=
  { k with tflags := k.tflags ||| (if ovf then 1#8 <<< (2 * t.val) else 0) |||
      (if nan then 1#8 <<< (2 * t.val + 1) else 0) }

/-- OR a vector instruction's indications in: bit 3s OVF, 3s + 1 NAN, 3s + 2 PERM_RANGE (R157). -/
def Core.orVec (k : Core) (t : Fin 4) (nan ovf perm : Bool) : Core :=
  { k with vflags := k.vflags ||| (if ovf then 1#12 <<< (3 * t.val) else 0) |||
      (if nan then 1#12 <<< (3 * t.val + 1) else 0) ||| (if perm then 1#12 <<< (3 * t.val + 2) else 0) }

/-- The five flags of a stream as SFLAG shows them (R213). -/
def Core.sflags (k : Core) (t : Fin 4) : Word :=
  flag (k.tflags.getLsbD (2 * t.val)) 0 ||| flag (k.tflags.getLsbD (2 * t.val + 1)) 1 |||
  flag (k.vflags.getLsbD (3 * t.val)) 2 ||| flag (k.vflags.getLsbD (3 * t.val + 1)) 3 |||
  flag (k.vflags.getLsbD (3 * t.val + 2)) 4

/-- Clear the five flags of a stream. -/
def Core.clearSflags (k : Core) (t : Fin 4) : Core :=
  { k with tflags := k.tflags &&& ~~~(3#8 <<< (2 * t.val)), vflags := k.vflags &&& ~~~(7#12 <<< (3 * t.val)) }

end Sys2Proof.Machine
end

