-- ==== Sys2Proof/Machine/Random.lean ====
section
/-! DEFINITION. The generators' recurrence and draws (R159-R161). -/
namespace Sys2Proof.Machine

/-- One draw: the word and the state after it (R160). -/
def Gen.next (g : Gen) : W32 × Gen :=
  let w := (g.a + g.c).rotateLeft 12 ^^^ g.b
  let t := g.a ^^^ (g.a <<< 8)
  (w, { a := g.b, b := g.c, c := g.d, d := g.d ^^^ (g.d >>> 12) ^^^ t ^^^ (t >>> 4) })

/-- The 16 bits of a rounding draw (R161). -/
def roundBits (w : W32) : Nat := w.toNat / 65536

/-- VRAND.f32's element: (w >> 8) × 2^−24, as FP32 bits (R161). -/
def unitBits (w : W32) : Nat := w.toNat / 256

/-- The generator of a lane (R159). -/
def laneGen (l : Fin 128) : Fin 384 := ⟨l.val, by omega⟩

/-- The generator of column n of array i. -/
def colGen (i : Fin 4) (n : Fin 64) : Fin 384 := ⟨128 + 64 * i.val + n.val, by omega⟩

/-- Draw from a generator of a core. -/
def Core.draw (k : Core) (g : Fin 384) : W32 × Core :=
  let r := (k.gens[g]).next
  (r.1, { k with gens := k.gens.set g r.2 })

end Sys2Proof.Machine
end

