-- ==== Sys2Proof/Machine/Quad.lean ====
section
/-! DEFINITION. The matrix quad: tiles, partitions, block loads, feeders, accumulation, ramps and faults (R66-R72,
R78-R115, R218-R222). -/
namespace Sys2Proof.Machine

/-! ### Partitions (R85, R92) -/

/-- The enabled arrays of partition p under a mode, lowest first; none beyond the mode's partitions. -/
def partArrays (mode : BitVec 2) (present : BitVec 4) (p : Fin 4) : List (Fin 4) :=
  let all : List (Fin 4) :=
    if mode = 0#2 then (if p = 0 then [0, 1, 2, 3] else [])
    else if mode = 1#2 then (if p = 0 then [0, 1] else if p = 1 then [2, 3] else [])
    else [p]
  all.filter fun a => present.getLsbD a.val

def Core.arrays (k : Core) (p : Fin 4) : List (Fin 4) := partArrays k.mxMode k.present p

/-- The partition an array belongs to. -/
def Core.partOf (k : Core) (a : Fin 4) : Fin 4 :=
  if k.mxMode = 0#2 then 0 else if k.mxMode = 1#2 then Fin.ofNat 4 (a.val / 2) else a

/-! ### Tile parameters (R66-R70, R78, R81, R82) -/

def Tile.m (t : Tile) : Nat := t.o.mm1.toNat + 1
def Tile.n (t : Tile) : Nat := t.o.nm1.toNat + 1
def Tile.k (t : Tile) : Nat := t.o.km1.toNat + 1
def Tile.afmt (t : Tile) : Fmt := (Fmt.ofCode t.o.afmt).getD .fp32
def Tile.wfmt (t : Tile) : Fmt := (Fmt.ofCode t.o.wfmt).getD .fp32

/-- Width class of a matrix operand (R66); none for a format that is none. -/
def Fmt.width : Fmt → Option Nat
  | .fp32 | .fp24 => some 32
  | .bf16 | .fp16 => some 16
  | .e4m3 | .e5m2 | .e3m2 | .e2m3 | .int8 | .uint8 => some 8
  | .e2m1 | .int4 => some 4
  | _ => none

/-- Weights per register of a width class (R78). -/
def perReg (w : Nat) : Nat := if w = 8 then 2 else if w = 4 then 4 else 1

/-- Element formats of MX mode (R68). -/
def Fmt.isMx : Fmt → Bool
  | .e4m3 | .e5m2 | .e3m2 | .e2m3 | .e2m1 | .int8 => true
  | _ => false

/-- The format pair is legal (R67, R68, R70). -/
def pairOk (a w : Fmt) (mx : Bool) (k : Nat) : Bool :=
  a.width.isSome && a.width == w.width &&
    (if mx then a.isMx && w.isMx && k % 32 == 0 else (a.isFloat && w.isFloat) || (a.isInt && w.isInt))

/-- Rows per array, rounded up. -/
def ceilDiv (m a : Nat) : Nat := (m + a - 1) / a

/-- The entries a tile writes: first and count. -/
def Tile.count (t : Tile) (a : Nat) : Nat := ceilDiv t.m a

/-- M, K or the entries are out of range (R81, R82). -/
def Tile.rangeBad (t : Tile) (a : Nat) : Bool :=
  decide (t.m > 512 * a) || decide (t.o.entry.toNat + t.count a - 1 > 511) ||
    decide (t.k > 64 * perReg ((t.afmt.width).getD 32))

/-- The tile accumulates integers (R115). -/
def Tile.isInt (t : Tile) : Bool := !t.o.mx && t.afmt.isInt && t.wfmt.isInt

/-- The tile rounds its running sum to FP24 (R114). -/
def Tile.fp24 (t : Tile) : Bool := !t.isInt && !t.o.accm

/-- AOVF of the tile's descriptor (R117). -/
def Tile.aovf (t : Tile) : Bool := (t.desc[(0 : Fin 8)]).getLsbD 55

/-! ### Accumulation (R72, R112-R115) -/

/-- One product, with the block scales in MX mode. -/
def product (t : Tile) (a w : W32) (sa sw : Byte) : Val :=
  if t.o.mx then
    if sa = 0xFF ∨ sw = 0xFF then .nan false
    else ((t.afmt.mxVal a).mul (t.wfmt.mxVal w)).scale ((sa.toNat : Int) + sw.toNat - 254)
  else (t.afmt.toVal a).mul (t.wfmt.toVal w)

/-- The products of a vector against column n. A KEEP = 1 tile decodes the loaded element of the same reduction index in its
own weight format, and a block loaded without weight scales has scale bytes 0x00, since R72 and R78 do
not speak of a KEEP tile whose format or MX mode differs from its block's (DESIGN CHOICE, log entry 46). -/
def products (f : Flight) (n : Fin 64) : List Val :=
  (List.range f.tile.k).map fun k =>
    product f.tile (f.act.getD k 0) ((f.block.w.getD k []).getD n.val 0) (f.scale.getD (k / 32) 0)
      ((f.block.scale.getD (k / 32) []).getD n.val 0)

/-- A floating accumulation step (R113): the word and its NAN and OVF. -/
def accFloat (fmt : Fmt) (r : Rnd) (ieee : Bool) (ps : List Val) (e : List Val) : Conv :=
  let maxf : Val := match fmt.fspec with
    | some sp => sp.toVal (sp.maxFin * 2 ^ sp.shift)
    | none => Val.zero
  let beyond (v : Val) : Bool := !v.isNan && !v.isInf && maxf.lt v.abs
  let ps' := ps.map fun v =>
    if beyond v then (if ieee then .inf v.neg else if v.neg then maxf.negate else maxf) else v
  let ts := ps' ++ e
  let nan := (ps ++ e).any Val.isNan || ((ts.any fun v => v.isInf && v.neg) && ts.any fun v => v.isInf && !v.neg)
  let ovf := ps.any beyond
  if nan then ⟨0x7FC00000, true, ovf⟩
  else
    let c := fmt.conv r ieee (Val.sum ts)
    ⟨c.bits, false, ovf || (c.ovf && !(ts.any Val.isInf))⟩

/-- An element of an integer format as an integer (R46). -/
def Fmt.toInt (f : Fmt) (b : W32) : Int := if f = .uint8 then (b.toNat % 256 : Nat) else signedOf f.bits b.toNat

/-- An integer accumulation step (R115). -/
def accInt (f : Flight) (n : Fin 64) (e : Int) : Conv :=
  let s := (List.range f.tile.k).foldl (fun x k =>
    x + f.tile.afmt.toInt (f.act.getD k 0) * f.tile.wfmt.toInt ((f.block.w.getD k []).getD n.val 0)) e
  if s > 2147483647 then ⟨0x7FFFFFFF, false, true⟩
  else if s < -2147483648 then ⟨0x80000000, false, true⟩
  else ⟨BitVec.ofInt 32 s, false, false⟩

/-- An accumulator entry. -/
def Arr.entry (x : Arr) (e : Nat) : AccEntry := Tbl.get AccEntry.zero x.acc e

/-- Change one array. -/
def Core.modArr (k : Core) (a : Fin 4) (f : Arr → Arr) : Core := { k with arrs := k.arrs.set a (f k.arrs[a]) }

/-- Write column n of an entry, with good parity. -/
def Arr.write (x : Arr) (e : Nat) (n : Fin 64) (v : W32) : Arr :=
  { x with acc := Tbl.modify AccEntry.zero x.acc e fun y =>
      { w := y.w.set n v, bad := y.bad.filter (· ≠ n) } }

/-- Add flags to a tile in its partition queue. -/
def Core.tileFlags (k : Core) (p : Fin 4) (t : Tile) (nan ovf : Bool) : Core :=
  { k with tileQ := k.tileQ.set p ((k.tileQ[p]).map fun x =>
      if x.stream = t.stream ∧ x.seqNo = t.seqNo then { x with nanF := x.nanF || nan, ovfF := x.ovfF || ovf } else x) }

/-- The step itself, for a vector of array a and column n: every column of an FP24 tile draws (R114); columns at or
beyond N keep their contents (R82). -/
def Core.accumulate (k : Core) (a : Fin 4) (f : Flight) (n : Fin 64) : Core :=
  let (u, k) := if f.tile.fp24 then (let r := k.draw (colGen a n); (roundBits r.1, r.2)) else (0, k)
  if n.val ≥ f.tile.n then k
  else
    let old := ((k.arrs[a]).entry f.entry).w[n]
    let r :=
      if f.tile.isInt then accInt f n (if f.tile.o.acc then signedOf 32 old.toNat else 0)
      else accFloat (if f.tile.fp24 then .fp24 else .fp32) (if f.tile.fp24 then .sr u else .rne) f.tile.aovf
        (products f n) (if f.tile.o.acc then [Fmt.fp32.toVal old] else [])
    (k.modArr a fun x => x.write f.entry n r.bits).tileFlags f.part f.tile r.nan r.ovf

/-- A word of the entry that an accumulation step of column n reads fails its parity check (R103, R110). -/
def Core.readsBad (k : Core) (a : Fin 4) (f : Flight) (n : Fin 64) : Bool :=
  f.tile.o.acc && decide (n.val < f.tile.n) && (((k.arrs[a]).entry f.entry).bad.contains n)

/-- A step that writes nothing takes its draw all the same (R114). -/
def Core.skipStep (k : Core) (a : Fin 4) (f : Flight) (n : Fin 64) : Core :=
  if f.tile.fp24 then (k.draw (colGen a n)).2 else k

/-- Complete the rows of array a that are in flight (R104 step 2), with the steps that meet a parity error on the way;
such a step writes nothing. -/
def Core.finishRows (k : Core) (a : Fin 4) : Core × List (Fin 4 × Flight × Fin 64) :=
  let r := ((k.arrs[a]).flights).foldl (fun r f =>
    (List.finRange 64).foldl (fun (r : Core × List (Fin 4 × Flight × Fin 64)) n =>
      if n.val < f.nextCol then r
      else if r.1.readsBad a f n then (r.1.skipStep a f n, r.2 ++ [(a, f, n)])
      else (r.1.accumulate a f n, r.2)) r) (k, [])
  (r.1.modArr a fun x => { x with flights := [] }, r.2)

/-! ### Faults (R103-R107) -/

/-- Fault codes of R103. -/
inductive QuadCode where
  | poisonAct | poisonWgt | poisonScale | accParity | fmtPair | partAbsent | accRange | operandXlate
deriving DecidableEq, Repr

def QuadCode.num : QuadCode → Nat
  | .poisonAct => 1 | .poisonWgt => 2 | .poisonScale => 3 | .accParity => 4 | .fmtPair => 5 | .partAbsent => 6
  | .accRange => 7 | .operandXlate => 8

/-- Where in a tile a fault lies (R108). -/
structure QuadAt where
  array : Nat
  row : Nat
  entry : Nat
  column : Nat
  addr : Addr
deriving DecidableEq, Repr

/-- The record of `core.mx.pfault`p (R108). -/
def quadRecord (mode : BitVec 2) (p : Fin 4) (t : Tile) (code : QuadCode) (w : QuadAt) (discard : Nat) : Word :=
  0x8000000000000000#64 ||| at' t.stream.val 58 ||| at' mode.toNat 56 ||| at' p.val 54 ||| at' w.array 52 |||
    at' code.num 48 ||| at' w.row 37 ||| at' w.entry 28 ||| at' w.column 22 ||| at' (discard % 8) 19

/-- Key of a chain: its partition and its first entry (R123). -/
def chainKey (p : Fin 4) (t : Tile) : Nat := p.val * 512 + t.o.entry.toNat

/-- Clear the entries of a tile in the arrays of its partition, columns 0 to N − 1 (R104 step 3). -/
def Core.clearTile (k : Core) (p : Fin 4) (t : Tile) : Core :=
  let as := k.arrays p
  as.foldl (fun k a => k.modArr a fun x =>
    (List.range (Min.min (t.count as.length) (512 - t.o.entry.toNat))).foldl (fun x i =>
      (List.finRange 64).foldl (fun x n => if n.val < t.n then x.write (t.o.entry.toNat + i) n 0 else x) x) x) k

/-- The two tiles are one. -/
def Tile.same (t x : Tile) : Bool := x.stream == t.stream && x.seqNo == t.seqNo

/-- Steps 3 to 5 of R104 for a tile that is still queued, and the report of R105. DESIGN CHOICE (log entry 46): DISCARD is
given as 0 to 3; where four tiles wait behind one that streams and faults, the field shows 4. -/
def State.stopTile (s : State) (c : Fin 96) (p : Fin 4) (t : Tile) (code : QuadCode) (w : QuadAt) : State :=
  let waits (x : Tile) : Bool := x.stream == t.stream && x.rowsRead == 0 && !t.same x
  if !((s.core c).tileQ[p]).any t.same then s else
  let s := s.modCore c fun k =>
    let k := k.clearTile p t
    let q := k.tileQ[p]
    { k with
      tileQ := k.tileQ.set p (q.filter fun x => !t.same x && !waits x)
      chainFlags := Tbl.erase k.chainFlags (chainKey p t)
      pfault := k.pfault.set p (faultReg k.pfault[p] (quadRecord k.mxMode p t code w (q.filter waits).length)) }
  (s.trapEngine c t.stream .quad t.seqNo t.pc t.insn ((s.core c).pfault[p]) w.addr).settleHeld c

/-- A fault of a tile: the five steps of R104 and the report of R105. A tile whose rows in flight meet a parity error
while they complete faults in its turn; in an array that ramps, fillers do not start (R107). -/
def State.quadFault (s : State) (c : Fin 96) (p : Fin 4) (t : Tile) (code : QuadCode) (w : QuadAt) : State :=
  let k := s.core c
  let r := (k.arrays p).foldl (fun (r : Core × List (Fin 4 × Flight × Fin 64)) a =>
    let x := r.1.finishRows a
    (x.1.modArr a fun y => { y with noFill := y.noFill || y.ramp != .steady }, r.2 ++ x.2)) (k, [])
  let s := (s.modCore c fun _ => r.1).stopTile c p t code w
  r.2.foldl (fun s x => s.stopTile c p x.2.1.tile .accParity
    { array := x.1.val, row := x.2.1.row, entry := x.2.1.entry, column := x.2.2.val, addr := 0 }) s

/-! ### Issue of MMQ, MMODE and MOCFG (R84, R86, R116, R218-R222) -/

/-- Tiles of a partition's queue that have not begun to stream (R84, R108 QDEPTH). -/
def Core.depth (k : Core) (p : Fin 4) : Nat := ((k.tileQ[p]).filter fun x => x.rowsRead == 0).length

/-- An RSEED of columns waits for the quad: later tiles wait behind it (R168). -/
def Core.seedWaits (k : Core) : Bool :=
  (k.streams.toList.any fun t => t.wait == .quadIdle true) || k.vecQ.any fun v => match v.instr with
    | .rseed _ o => o.sel.getLsbD 1
    | _ => false

/-- MMQ: the tile enters its partition's queue with all it captures. -/
def execMmq (p : Site) (o : TileOps) (s : State) : Out :=
  issue p (.mmq p o) s fun a s =>
    let k := s.core a.c
    let q := o.part.toFin
    if k.modeWait.isSome || k.seedWaits || decide (k.depth q ≥ 4) then .stall s .full
    else
      let t : Tile :=
        { stream := a.t, seqNo := a.seqNo, pc := a.pc, insn := a.insn, order := k.issued.toNat, o := o, aAddr := addr48 (s.rx a o.ra),
          wAddr := addr48 (s.rx a o.rw), saAddr := addr48 (s.rx a o.rsa), swAddr := addr48 (s.rx a o.rsw),
          desc := k.odesc[q], checked := false, loaded := false, rowsRead := 0, nanF := false, ovfF := false }
      .done (s.modCore a.c fun k => { k with tileQ := k.tileQ.set q (k.tileQ[q] ++ [t]) })

/-- Every LAST tile has been read by the output pipeline. -/
def Core.outputsRead (k : Core) : Bool :=
  (List.finRange 4).all fun p => (k.outQ[p]).all fun x =>
    decide (x.nextEntry ≥ x.tile.o.entry.toNat + x.tile.count x.lanes.length)

/-- The quad is drained for a mode change (R86). -/
def Core.drained (k : Core) : Bool :=
  (k.tileQ.toList.all fun q => q.isEmpty) && (k.arrs.toList.all fun a => a.flights.isEmpty) && k.outputsRead

/-- `core.mx.status` IDLE (R108): a LAST tile waits for the output pipeline until the pipeline has done with it
(DEDUCED, log entry 47). -/
def Core.quadIdle (k : Core) : Bool :=
  k.drained && (k.outQ.toList.all fun q => q.isEmpty) && k.arrs.toList.all fun a => a.level == 0

/-- MMODE: at once in a drained quad, else it waits there. -/
def execMmode (p : Site) (mode : BitVec 2) (s : State) : Out :=
  issue p (.mmode p mode) s fun a s =>
    let k := s.core a.c
    if k.modeWait.isSome then .stall s .full
    else if k.drained then .done (s.modCore a.c fun k => { k with mxMode := mode })
    else .done (s.modCore a.c fun k => { k with modeWait := some (mode, a.t, a.seqNo) })

/-- MODE_CHANGE: the waiting MMODE completes. -/
def execModeChange (c : Fin 96) (s : State) : Out :=
  match (s.core c).modeWait with
  | some (m, _, _) =>
    guard (s.runs c && (s.core c).drained) "the quad is not drained"
      ((s.modCore c fun k => { k with mxMode := m, modeWait := none }).settleHeld c)
  | none => .refused (.notEnabled "no MMODE waits")

/-- A write of `core.mx.mode` (R87); 0b11 is reserved and leaves MODE (R17). -/
def Core.writeMode (k : Core) (v : Word) : Core :=
  if !k.quadIdle then { k with modeBusy := true }
  else if nfld v 0 2 = 3 then k else { k with mxMode := v.setWidth 2 }

def execMxModeWrite (m : RegMaster) (c : Fin 96) (v : Word) (s : State) : Out :=
  guard (s.busOpen m) "no register path" (s.modCore c fun k => k.writeMode v)

/-- −0 is ordered below +0: the comparison of R120. -/
def orderedLe (a b : Val) : Bool := a.lt b || (!b.lt a && (a.neg || !b.neg))

/-- Byte offsets of the bad fields of an output descriptor (R116). -/
def descBad (d : Vector Word 8) : List Nat :=
  let w0 := d[0]
  let clo := Fmt.fp32.toVal (d[2].setWidth 32)
  let chi := Fmt.fp32.toVal ((d[2] >>> 32).setWidth 32)
  let fmt := Fmt.ofCode (BitVec.ofNat 5 (nfld w0 59 5))
  let act := nfld w0 48 3
  let fmtBad := match fmt with
    | none => true
    | some .e8m0 => true
    | some f => w0.getLsbD 54 && !(f == .fp32 || f == .fp24 || f == .bf16 || f == .fp16 || f == .int32 || f == .int16)
  let add (b : Bool) (n : Nat) : List Nat := if b then [n] else []
  add (nfld w0 0 35 != 0) 0 ++ add (nfld w0 52 2 == 3) 6 ++ add (act ≥ 6) 6 ++ add (nfld w0 57 2 == 3) 7 ++
    add fmtBad 7 ++ add (nfld d[1] 32 32 != 0) 12 ++
    add (act == 4 && (clo.isNan || (!chi.isNan && !orderedLe clo chi))) 16 ++ add (act == 4 && chi.isNan) 20 ++
    add (nfld d[3] 48 16 != 0) 30 ++ add (nfld d[4] 48 16 != 0) 38 ++ add (nfld d[5] 48 16 != 0) 46 ++
    add (nfld d[6] 32 32 != 0) 52 ++ add (d[7] != 0) 56

/-- MOCFG: behind an MMODE that waits (R236), read like a scalar load, checked, then the partition's (R116, R222). -/
def execMocfg (p : Site) (o : MocfgOps) (u : Upset) (s : State) : Out :=
  issue p (.mocfg p o u) s fun a s =>
    if (s.core a.c).modeWait.isSome then .stall s .full
    else match s.loadBytes a.c a.t (some .scalar) ((addr48 (s.rx a o.ra)).toNat / 64 * 64) 64 u with
    | (s, .error e) => scalarErr s e
    | (s, .ok bs) =>
      let ws := leWords 8 bs
      let d : Vector Word 8 := Vector.ofFn fun i => ew ws i.val
      match descBad d with
      | [] => .done (s.modCore a.c fun k => { k with odesc := k.odesc.set o.part.toFin d })
      | b :: t => .trap s .desc (BitVec.ofNat 64 (t.foldl Min.min b)) 0

/-! ### A tile from the head of its queue to its last row (R83, R88-R96, R104) -/

/-- The first tile of a partition that meets a test, where every tile before it meets another. -/
def nextTile (q : List Tile) (before this : Tile → Bool) : Option Tile :=
  match q.find? fun t => !before t with
  | some t => if this t then some t else none
  | none => none

/-- Change one tile of a queue. -/
def Core.modTile (k : Core) (p : Fin 4) (t : Tile) (f : Tile → Tile) : Core :=
  { k with tileQ := k.tileQ.set p ((k.tileQ[p]).map fun x =>
      if x.stream = t.stream ∧ x.seqNo = t.seqNo then f x else x) }

/-- A fault found at the queue head (R108: ARRAY, ROW and COLUMN 0, the tile's ENTRY). -/
def headAt (t : Tile) : QuadAt := { array := 0, row := 0, entry := t.o.entry.toNat, column := 0, addr := 0 }

/-- The check of R104: PART_ABSENT, then FMT_PAIR, then ACC_RANGE. -/
def headFault (k : Core) (p : Fin 4) (t : Tile) : Option QuadCode :=
  let a := (k.arrays p).length
  if a = 0 then some .partAbsent
  else if !pairOk t.afmt t.wfmt t.o.mx t.k then some .fmtPair
  else if t.rangeBad a then some .accRange else none

/-- TILE_QUEUE_HEAD: the tile behind those that have begun to stream is checked. -/
def execTileQueueHead (c : Fin 96) (p : Fin 4) (s : State) : Out :=
  let k := s.core c
  match nextTile (k.tileQ[p]) (fun t => decide (t.rowsRead > 0)) (fun t => !t.checked) with
  | none => .refused (.notEnabled "no unchecked tile heads the queue")
  | some t =>
    guard (s.runs c) "the core does not run"
      (match headFault k p t with
       | some code => s.quadFault c p t code (headAt t)
       | none => s.modCore c fun k => k.modTile p t fun x => { x with checked := true })

/-- Read one operand row of n elements: bits and poison marks by element. Of a packed format whose n is no whole number of
groups the bytes up to the last one touched are read, since R49 gives no fault for it (DESIGN CHOICE, log entry 46). -/
def State.operandRow (s : State) (c : Fin 96) (t : Fin 4) (f : Fmt) (dva n : Nat) (u : Upset) :
    State × Except AccErr (List W32 × List Nat) :=
  match s.loadMarked c t (some .feeder) dva (f.bytesOf n) u with
  | (s, .error e) => (s, .error e)
  | (s, .ok bs) =>
    let bad := (List.range n).filter fun i =>
      ((bs.drop (i * f.bits / 8)).take ((i * f.bits % 8 + f.bits + 7) / 8)).any Prod.snd
    (s, .ok (unpackElems f n (bs.map Prod.fst), bad))

/-- Line reads of rows one after another. -/
def rowsReads (f : Fmt) (base stride rows n : Nat) : Nat :=
  (List.range rows).foldl (fun k i => k + linesOf (base + i * stride) (f.bytesOf n)) 0

/-- Read rows one after another. -/
def State.operandRows (s : State) (c : Fin 96) (t : Fin 4) (f : Fmt) (base stride rows n : Nat) (u : Upset) :
    State × Except AccErr (List (List W32) × List Nat) :=
  (List.range rows).foldl (fun a i =>
    match a.2 with
    | .error e => (a.1, .error e)
    | .ok (rs, bad) =>
      match a.1.operandRow c t f (base + i * stride) n (u.drop (rowsReads f base stride i n)) with
      | (s, .error e) => (s, .error e)
      | (s, .ok (r, b)) => (s, .ok (rs ++ [r], bad ++ b))) (s, .ok ([], []))

/-- A weight block and, in MX mode, its scales, each with the columns of its poisoned elements. -/
def State.blockRows (s : State) (c : Fin 96) (t : Tile) (u : Upset) :
    State × Except AccErr (List (List W32) × List Nat × List (List W32) × List Nat) :=
  match s.operandRows c t.stream t.wfmt t.wAddr.toNat t.o.wstride.toNat t.k t.n u with
  | (s, .error e) => (s, .error e)
  | (s, .ok (rows, bad)) =>
    if t.o.mx then
      match s.operandRows c t.stream .e8m0 t.swAddr.toNat t.n (t.k / 32) t.n
          (u.drop (rowsReads t.wfmt t.wAddr.toNat t.o.wstride.toNat t.k t.n)) with
      | (s, .error e) => (s, .error e)
      | (s, .ok (scales, badS)) => (s, .ok (rows, bad, scales, badS))
    else (s, .ok (rows, bad, [], []))

/-- The smallest of a list, 0 for none. -/
def least (l : List Nat) : Nat :=
  match l with
  | [] => 0
  | x :: t => t.foldl Min.min x

/-- Where a failed operand read is reported; nothing is reported for a line a halt withheld. -/
def State.operandErr (s : State) (c : Fin 96) (p : Fin 4) (t : Tile) (w : QuadAt) : AccErr → State
  | .xlate d => s.quadFault c p t .operandXlate { w with column := 0, addr := BitVec.ofNat 48 d }
  | .right d => s.quadFault c p t .operandXlate { w with column := 0, addr := BitVec.ofNat 48 d }
  | .poison d => s.quadFault c p t .poisonAct { w with addr := BitVec.ofNat 48 d }
  | .withheld => s

/-- The tile of partition p that waits for its block: next in its queue behind tiles that have streamed (R89). -/
def Core.loadNext (k : Core) (p : Fin 4) : Option Tile :=
  nextTile (k.tileQ[p]) (fun t => decide (t.rowsRead ≥ t.m))
    (fun t => t.checked && !t.loaded && !t.o.keep && t.rowsRead == 0)

/-- BLOCK_LOAD, the oldest of the tiles that wait for theirs first (R89): the block and, in MX mode, its scales enter the shadow sets of the partition's arrays. -/
def execBlockLoad (c : Fin 96) (p : Fin 4) (u : Upset) (s : State) : Out :=
  let k := s.core c
  match k.loadNext p with
  | none => .refused (.notEnabled "no tile waits for its block")
  | some t =>
    guard (s.runs c && (List.finRange 4).all fun q => (k.loadNext q).all fun x => decide (t.order ≤ x.order))
      "the core does not run, or an older tile loads first"
      (let as := k.arrays p
       let w : QuadAt := { headAt t with array := (as.headD 0).val }
       match s.blockRows c t u with
       | (s', .error .withheld) => s.stalled s' c t.stream
       | (s, .error e) => s.operandErr c p t w e
       | (s, .ok (rows, bad, scales, badS)) =>
           if !badS.isEmpty then
             s.quadFault c p t .poisonScale { w with column := least badS, addr := t.swAddr }
           else if !bad.isEmpty then
             s.quadFault c p t .poisonWgt { w with column := least bad, addr := t.wAddr }
           else
             let b : Block := { w := rows, scale := scales.map fun r => r.map fun x => x.setWidth 8 }
             s.modCore c fun k =>
               as.foldl (fun k a => k.modArr a fun x => { x with shadow := b })
                 (k.modTile p t fun x => { x with loaded := true }))

/-! ### Activity (R98-R102) -/

/-- Ramp length of LEN. -/
def rampG (len : BitVec 2) : Nat := 16 * (len.toNat + 1)

/-- One core cycle of an array's level and credit, under a clamp. -/
def Arr.tick (x : Arr) (clamp : Nat) : Arr :=
  let (l, r) : Nat × Ramp := match x.ramp with
    | .steady => (x.level, .steady)
    | .up l0 d j => (l0 + (256 - l0) * (j + 1) / d, if j + 1 ≥ d then .steady else .up l0 d (j + 1))
    | .down l0 d j => (l0 - l0 * (j + 1) / d, if j + 1 ≥ d then .steady else .down l0 d (j + 1))
  { x with level := l, ramp := r, credit := Min.min (x.credit + Min.min l clamp) 511 }

/-- n core cycles under the clamp level of each. -/
def Arr.ticks (x : Arr) (clamp : Nat → Nat) : Nat → Arr
  | 0 => x
  | n + 1 => (x.tick (clamp 0)).ticks (fun i => clamp (i + 1)) n

/-- A filler read: a credit is spent and nothing else happens (R100). -/
def Arr.fill (x : Arr) : Arr := if x.credit ≥ 256 ∧ !x.noFill then { x with credit := x.credit - 256 } else x

def Arr.fillTicks (x : Arr) (clamp : Nat → Nat) : Nat → Arr
  | 0 => x
  | n + 1 => if x.level = 0 then x else ((x.tick (clamp 0)).fill).fillTicks (fun i => clamp (i + 1)) n

/-- A tile of the array's partition has rows to read now. -/
def Core.rowsLeft (k : Core) (a : Fin 4) : Bool :=
  (k.tileQ[k.partOf a]).any fun t => t.checked && (t.loaded || t.o.keep) && decide (t.rowsRead < t.m)

/-- The array has not read the last vector of its partition queue (R100). -/
def Core.queueLeft (k : Core) (a : Fin 4) : Bool := (k.tileQ[k.partOf a]).any fun t => decide (t.rowsRead < t.m)

/-- The array ramps down. -/
def Arr.falling (x : Arr) : Bool :=
  match x.ramp with
  | .down _ _ _ => true
  | _ => false

/-- RAMP_UP: an idle or ramping-down array has a vector to read (R99). -/
def execRampUp (c : Fin 96) (a : Fin 4) (s : State) : Out :=
  let k := s.core c
  let x := k.arrs[a]
  guard (s.runs c && k.rampEn && k.rowsLeft a && k.present.getLsbD a.val &&
      (x.falling || (x.ramp == .steady && x.level == 0)))
    "the array has no ramp to start"
    (s.modCore c fun k => k.modArr a fun x =>
      { x with ramp := .up x.level (ceilDiv (rampG k.rampLen * (256 - x.level)) 256) 0, noFill := false })

/-- Start the ramp-down where it does not run, and let cycles pass (R100). -/
def Arr.goDown (x : Arr) (g : Nat) (clamp : Nat → Nat) (cycles : Nat) : Arr :=
  let x := match x.ramp with
    | .down _ _ _ => x
    | _ => { x with ramp := .down x.level (ceilDiv (g * x.level) 256) 0 }
  x.fillTicks clamp cycles

/-- An array after some core cycles of its ramp-down. -/
def State.downArr (s : State) (c : Fin 96) (x : Arr) (g event cycles : Nat) : Arr :=
  (s.clampSeen c x event cycles).goDown g (s.clampRun c x event cycles) cycles

/-- RAMP_DOWN: fillers under a falling level that has not reached 0. -/
def execRampDown (c : Fin 96) (a : Fin 4) (cycles : Nat) (s : State) : Out :=
  let k := s.core c
  let y := s.downArr c k.arrs[a] (rampG k.rampLen) (2 * a.val) cycles
  guard (s.completes c && k.rampEn && !k.queueLeft a && decide ((k.arrs[a]).level > 0) && decide (y.level > 0))
    "the array does not ramp down"
    ((s.clampTo y).modCore c fun k => k.modArr a fun _ => y)

/-- ARRAY_IDLE: the level reaches 0, and the credit is set to 0; with EN = 0 the array stops at once, but for a ramp that
already runs (R98, R101, R108). -/
def execArrayIdle (c : Fin 96) (a : Fin 4) (cycles : Nat) (s : State) : Out :=
  let k := s.core c
  let x := k.arrs[a]
  let y := if k.rampEn || x.falling then s.downArr c x (rampG k.rampLen) (2 * a.val + 1) cycles else { x with level := 0 }
  guard (s.completes c && !k.queueLeft a && decide (x.level > 0) && y.level == 0) "the level has not reached 0"
    ((s.clampTo y).modCore c fun k => k.modArr a fun _ => { y with ramp := .steady, credit := 0, noFill := false })

/-! ### Vectors (R82, R90, R93-R96, R98) -/

/-- A LAST tile ahead of this one still holds an entry (R96). -/
def Core.entryHeld (k : Core) (p : Fin 4) (t : Tile) (e : Nat) : Bool :=
  let covers (a : Nat) (x : Tile) : Bool := decide (x.o.entry.toNat ≤ e) && decide (e < x.o.entry.toNat + x.count a)
  ((k.tileQ[p]).takeWhile fun x => !(x.stream == t.stream && x.seqNo == t.seqNo)).any
      (fun x => x.o.last && covers (k.arrays p).length x) ||
    (k.outQ[p]).any fun x => covers x.lanes.length x.tile && decide (e ≥ x.nextEntry)

/-- Core cycles per vector (R80). -/
def Tile.cadence (t : Tile) : Nat :=
  if t.isInt then 1
  else
    let fp32 := if t.fp24 then 1 else 2
    if t.afmt.width = some 32 then 2 * fp32 else fp32

/-- The array's level as a vector finds it: with EN = 0 an array that does not ramp up issues at full rate (R101); a
ramp-up that was started goes on (R108). -/
def Core.startLevel (k : Core) (x : Arr) : Arr :=
  if !k.rampEn ∧ ((x.level = 0 ∧ x.ramp = .steady) ∨ x.falling) then { x with level := 256, ramp := .steady } else x

/-- A tile vector's cycle counts as busy once for all arrays of a partition, which read together, and timing decides whether
another partition read in that cycle; of the cycles since the last vector those beyond the cadence may have been stalls
(R98, R108, log entry 16). -/
def Core.feedCount (k : Core) (c : Fin 96) (tick : Word) (t : Tile) (lead : Bool) (cycles : Nat) : Core :=
  let free (i m : Nat) : Nat := Config.timing i c tick (2048 * t.order + t.rowsRead) % (m + 1)
  if lead then { k with
    mxBusycyc := k.mxBusycyc + BitVec.ofNat 64 (if k.mxMode = 0#2 then 1 else free 3 1)
    mxStallcyc := k.mxStallcyc + BitVec.ofNat 64 (free 4 (cycles - t.cadence)) }
  else k

/-- The array after the core cycles since its last vector. -/
def State.runArr (s : State) (c : Fin 96) (x : Arr) (event cycles : Nat) : Arr :=
  (s.clampSeen c x event cycles).ticks (s.clampRun c x event cycles) cycles

/-- The number of a vector read among the events of an array. -/
def feedEvent (t : Tile) : Nat := 2048 * t.order + t.rowsRead

/-- A vector read spends its credit and is counted; a good tile goes on, so fillers may follow it (R98, R107). -/
def State.spendCredit (s : State) (c : Fin 96) (a : Fin 4) (t : Tile) (cycles : Nat) (lead : Bool) : State :=
  s.modCore c fun k => (k.feedCount c s.tick t lead cycles).modArr a fun x =>
    { x with credit := x.credit - 256, noFill := false }

/-- An activation vector and, in MX mode, its scales, each with its poisoned elements. -/
def State.vectorRow (s : State) (c : Fin 96) (t : Tile) (va sa : Nat) (u : Upset) :
    State × Except AccErr (List W32 × List Nat × List W32 × List Nat) :=
  match s.operandRow c t.stream t.afmt va t.k u with
  | (s, .error e) => (s, .error e)
  | (s, .ok (act, bad)) =>
    if t.o.mx then
      match s.operandRow c t.stream .e8m0 sa (t.k / 32) (u.drop (linesOf va (t.afmt.bytesOf t.k))) with
      | (s, .error e) => (s, .error e)
      | (s, .ok (sc, badS)) => (s, .ok (act, bad, sc, badS))
    else (s, .ok (act, bad, [], []))

/-- FEEDER_VECTOR_READ: array a reads the next row of its partition's streaming tile, with its credit after the core
cycles since its last vector. An array that ramps down ramps up first (R99). -/
def execFeederVectorRead (c : Fin 96) (a : Fin 4) (cycles : Nat) (u : Upset) (s : State) : Out :=
  let k := s.core c
  let p := k.partOf a
  let as := k.arrays p
  match nextTile (k.tileQ[p]) (fun t => decide (t.rowsRead ≥ t.m)) (fun t => t.checked && (t.loaded || t.o.keep)) with
  | none => .refused (.notEnabled "no tile is ready to stream")
  | some t =>
    let m := t.rowsRead
    let e := t.o.entry.toNat + m / as.length
    let x0 := k.startLevel k.arrs[a]
    let x := s.runArr c x0 (feedEvent t) cycles
    guard (s.runs c && as[m % as.length]? == some a && decide (x.credit ≥ 256) && decide (cycles ≥ t.cadence) &&
        !x0.falling && !k.entryHeld p t e)
      "the feeder may not read"
      (let s := (s.clampTo x).modCore c fun k => k.modArr a fun _ => x
       let w : QuadAt := { array := a.val, row := m, entry := e, column := 0, addr := 0 }
       let va := t.aAddr.toNat + m * t.o.astride.toNat
       let sa := t.saAddr.toNat + m * (t.k / 32)
       match s.vectorRow c t va sa u with
       | (s', .error .withheld) => s.stalled s' c t.stream
       | (s', .error er) => (s'.spendCredit c a t cycles (decide (m % as.length = 0))).operandErr c p t w er
       | (s', .ok (act, bad, sc, badS)) =>
         let s := s'.spendCredit c a t cycles (decide (m % as.length = 0))
         (if !badS.isEmpty then
             s.quadFault c p t .poisonScale { w with column := least badS, addr := BitVec.ofNat 48 sa }
           else if !bad.isEmpty then
             s.quadFault c p t .poisonAct
               { w with column := least bad / perReg ((t.afmt.width).getD 32), addr := BitVec.ofNat 48 va }
           else s.modCore c fun k =>
             let k := if !t.o.keep ∧ m < as.length then k.modArr a fun x => { x with active := x.shadow } else k
             let f : Flight := { part := p, row := m, entry := e, act := act,
                                 scale := sc.map fun x => x.setWidth 8, block := (k.arrs[a]).active, tile := t,
                                 nextCol := 0 }
             (k.modArr a fun x => { x with flights := x.flights ++ [f] }).modTile p t
               fun x => { x with rowsRead := m + 1 }))

/-- Advance the flight that has just passed column n. -/
def passCol (n : Nat) : List Flight → List Flight
  | [] => []
  | f :: t => if f.nextCol ≤ n then (if n = 63 then t else { f with nextCol := n + 1 } :: t) else f :: passCol n t

/-- ACCUMULATION_STEP: column n of the oldest vector that has not passed it. -/
def execAccumulationStep (c : Fin 96) (a : Fin 4) (n : Fin 64) (parity : Bool) (s : State) : Out :=
  let k := s.core c
  match (k.arrs[a]).flights.find? fun f => decide (f.nextCol ≤ n.val) with
  | none => .refused (.notEnabled "no column sum is ready")
  | some f =>
    guard (s.completes c && f.nextCol == n.val) "an earlier column comes first"
      (let reads := f.tile.o.acc && decide (n.val < f.tile.n)
       if (reads && parity) || k.readsBad a f n then
         s.quadFault c f.part f.tile .accParity
           { array := a.val, row := f.row, entry := f.entry, column := n.val, addr := 0 }
       else s.modCore c fun k =>
         (k.accumulate a f n).modArr a fun x => { x with flights := passCol n.val x.flights })

/-- TILE_COMPLETE: the last row of the oldest tile is in the accumulators; a LAST tile goes to the output pipeline
(R123, R128). While a QUARANTINE drains, the rows read complete a tile, and no handoff starts (R107). -/
def execTileComplete (c : Fin 96) (p : Fin 4) (s : State) : Out :=
  let k := s.core c
  match (k.tileQ[p]) with
  | [] => .refused (.notEnabled "no tile runs")
  | t :: rest =>
    guard (s.completes c && (decide (t.rowsRead ≥ t.m) || k.draining) && !((k.arrs.toList.any fun x => x.flights.any fun f =>
        f.tile.stream == t.stream && f.tile.seqNo == t.seqNo))) "rows of the tile are in flight"
      ((s.modCore c fun k =>
        let key := chainKey p t
        let old := if t.o.acc then Tbl.get (false, false) k.chainFlags key else (false, false)
        let fl := (old.1 || t.nanF, old.2 || t.ovfF)
        let k := { k with tileQ := k.tileQ.set p rest }
        if k.draining then k
        else if t.o.last then
          let o : OutTile :=
            { tile := { t with nanF := fl.1, ovfF := fl.2 }, part := p, lanes := k.arrays p, started := false,
              nextEntry := t.o.entry.toNat, svec := [], bvec := [], counts := Counts.none, added := false,
              waiting := false, pipe := [] }
          { k with chainFlags := Tbl.erase k.chainFlags key, outQ := k.outQ.set p (k.outQ[p] ++ [o]) }
        else { k with chainFlags := Tbl.set (false, false) k.chainFlags key fl }).settleHeld c)

end Sys2Proof.Machine
end

