-- ==== Sys2Proof/Machine/Plates.lean ====
section
/-! DEFINITION. Plates, their ownership at a vector instruction, vector faults and the rounding draws of the lanes
(R137-R140, R157, R158, R162, R180). -/
namespace Sys2Proof.Machine

/-! ### Plate words (R137) -/

/-- Row r of plate p. -/
def Core.plateRow (k : Core) (p : BitVec 4) (r : Nat) : Vector W32 64 :=
  Tbl.get (Vector.replicate 64 0) k.plates (p.toNat * 64 + r)

def Core.plateWord (k : Core) (p : BitVec 4) (r : Nat) (c : Fin 64) : W32 := (k.plateRow p r)[c]

def Core.setRow (k : Core) (p : BitVec 4) (r : Nat) (v : Vector W32 64) : Core :=
  { k with plates := Tbl.set (Vector.replicate 64 0) k.plates (p.toNat * 64 + r) v }

/-- Write all 64 rows of a plate. -/
def Core.setPlate (k : Core) (p : BitVec 4) (g : Nat → Vector W32 64) : Core :=
  (List.range 64).foldl (fun k r => k.setRow p r (g r)) k

/-- The indications of a run of elements (R63, R157). -/
structure Marks where
  nan : Bool
  ovf : Bool
  perm : Bool
deriving DecidableEq, Repr

def Marks.none : Marks := ⟨false, false, false⟩
def Marks.or (a b : Marks) : Marks := ⟨a.nan || b.nan, a.ovf || b.ovf, a.perm || b.perm⟩
def Conv.marks (c : Conv) : Marks := ⟨c.nan, c.ovf, false⟩
def anyMarks (l : List Conv) : Marks := ⟨l.any Conv.nan, l.any Conv.ovf, false⟩

/-- OR indications into a stream's vector flags. -/
def Core.mark (k : Core) (t : Fin 4) (m : Marks) : Core := k.orVec t m.nan m.ovf m.perm

/-! ### Faults (R158) -/

inductive VecCode where
  | poisonLoad | loadXlate | storeXlate | plateOwner | align | mxShape
deriving DecidableEq, Repr

def VecCode.num : VecCode → Nat
  | .poisonLoad => 1 | .loadXlate => 2 | .storeXlate => 3 | .plateOwner => 4 | .align => 5 | .mxShape => 6

/-- The record of `core.vx.fault` (R169). -/
def vecRecord (t : Fin 4) (code : VecCode) (row col : Nat) (plate : BitVec 4) : Word :=
  0x8000000000000000#64 ||| at' t.val 60 ||| at' code.num 56 ||| at' row 50 ||| at' col 44 ||| at' plate.toNat 40

/-- A vector fault: the record, and the trap whose DETAIL copies it. -/
def State.vecFault (s : State) (a : At) (code : VecCode) (row col : Nat) (plate : BitVec 4) (addr : Nat) : Issued :=
  let s := s.modCore a.c fun k => { k with vxFault := faultReg k.vxFault (vecRecord a.t code row col plate) }
  .fault s .vector (s.core a.c).vxFault (BitVec.ofNat 48 addr)

/-- Every row of a plate that a faulting load would have written is undefined (R158): free values. -/
def State.scramble (s : State) (c : Fin 96) (p : BitVec 4) : State :=
  let n := s.glob.free
  (s.modCore c fun k => k.setPlate p fun r =>
    Vector.ofFn fun i => Config.free32 (2 * (n + 64 * r + i.val) + 1)).modGlob fun g => { g with free := g.free + 4096 }

/-! ### Ownership (R140, R180) -/

/-- Plates on their way to stream t. -/
def Core.incoming (k : Core) (t : Fin 4) : BitVec 16 :=
  k.streams.toList.foldl (fun m st => st.giving.foldl (fun m x => if x.target = t then m ||| x.mask else m) m) 0

/-- The mask of a list of plates. -/
def plateMask (ps : List (BitVec 4)) : BitVec 16 := ps.foldl (fun m p => m ||| (1#16 <<< p.toNat)) 0

/-- The first named plate that is neither the stream's nor on its way to it. -/
def Core.foreign (k : Core) (t : Fin 4) (ps : List (BitVec 4)) : Option (BitVec 4) :=
  let may := (k.streams[t]).plates ||| k.incoming t
  ps.find? fun p => !may.getLsbD p.toNat

/-- Named plates still in transfer to the stream. -/
def Core.awaited (k : Core) (t : Fin 4) (ps : List (BitVec 4)) : BitVec 16 :=
  plateMask ps &&& k.incoming t &&& ~~~(k.streams[t]).plates

/-- The vector engine, which works in order, is held up by a VTAKE that copies or by the instructions behind it. -/
def Core.vecHeld (k : Core) : Bool := k.vtakeRuns || !k.vecQ.isEmpty

/-- An entry of the handoff queue is claimed (R131). -/
def Core.claim (k : Core) (n : Nat) : Core :=
  { k with handoff := k.handoff.map fun x => if x.id = n then { x with claimed := true } else x }

/-- The instruction goes into the engine's input queue, where there is room, with what it captures at issue (R177). -/
def State.vecAccept (s : State) (i : Instr) (entry : Option Nat) (a : At) : Issued :=
  let k := s.core a.c
  let st := k.streams[a.t]
  if k.vecQ.length < 4 then
    .queued (s.modCore a.c fun k =>
      { (match entry with
         | some n => k.claim n
         | none => k) with
        vecQ := k.vecQ ++ [⟨a.t, i, a.pc, a.insn, a.seqNo, st.vl, st.plates, st.regs, entry⟩] })
  else .stall s .full

/-- A vector instruction that names plates, in the engine: it faults on a foreign plate before it reads or writes
anything (R140). -/
def onPlates (ps : List (BitVec 4)) (body : At → State → Issued) (a : At) (s : State) : Issued :=
  match (s.core a.c).foreign a.t ps with
  | some p => s.vecFault a .plateOwner 0 0 p 0
  | none => body a s

/-- At issue it waits for a plate in transfer (R180). An engine that is held up takes it into its queue, and so does one
whose fill table is full for a line it has to load (R177, R260). -/
def withPlates (i : Instr) (entry : Option Nat) (ps : List (BitVec 4)) (body : At → State → Issued) (a : At) (s : State) :
    Issued :=
  let k := s.core a.c
  if (k.foreign a.t ps).isNone && k.awaited a.t ps != 0 then .stall s (.plate (k.awaited a.t ps))
  else if k.vecHeld then s.vecAccept i (if (k.foreign a.t ps).isNone then entry else none) a
  else match onPlates ps body a s with
    | .stall t .full => t.vecAccept i entry a
    | r => r

/-- The vector length the instruction captures (R138). -/
def State.vlOf (s : State) (a : At) : Nat := (s.stream a.c a.t).vl.toNat

/-! ### Rounding draws of a row (R162) -/

/-- The draws of one row: lane l serves column l mod 64 in rows of parity l div 64; in a packed form each lane draws
for the low half and then for the high half. -/
def Core.rowDraws (k : Core) (r : Nat) (packed : Bool) : List (W32 × W32) × Core :=
  (List.finRange 64).foldl (fun a c =>
    let g := laneGen ⟨(r % 2) * 64 + c.val, by omega⟩
    let (lo, k) := a.2.draw g
    if packed then
      let (hi, k) := k.draw g
      (a.1 ++ [(lo, hi)], k)
    else (a.1 ++ [(lo, 0)], k)) ([], k)

/-- The rounding of the element in half h of column c under a RND field. -/
def rndAt (rnd : BitVec 2) (us : List (W32 × W32)) (c : Nat) (h : Bool) : Rnd :=
  let u := us.getD c (0, 0)
  Rnd.ofField rnd (roundBits (if h then u.2 else u.1))

/-- Halves of a packed word. -/
def halfOf (w : W32) (h : Bool) : W32 := if h then w >>> 16 else w &&& 0xFFFF

def packHalves (lo hi : W32) : W32 := (lo &&& 0xFFFF) ||| (hi <<< 16)

/-- A 16-bit format, whose plates are packed (R137). -/
def Fmt.packed (f : Fmt) : Bool := f == .bf16 || f == .fp16 || f == .int16

end Sys2Proof.Machine
end

