-- ==== Sys2Proof/Machine/Output.lean ====
section
/-! DEFINITION. The output pipeline: descriptor fields, stages, photometry, the handoff queue, VTAKE, HSCALE and output
faults (R116-R136, R223). -/
namespace Sys2Proof.Machine

/-! ### The captured descriptor (R117) -/

def Tile.dfmt (t : Tile) : Fmt := (Fmt.ofCode (BitVec.ofNat 5 (nfld (t.desc[(0 : Fin 8)]) 59 5))).getD .fp32
def Tile.rnd (t : Tile) : BitVec 2 := BitVec.ofNat 2 (nfld (t.desc[(0 : Fin 8)]) 57 2)
def Tile.covf (t : Tile) : Bool := (t.desc[(0 : Fin 8)]).getLsbD 56
def Tile.dest (t : Tile) : Bool := (t.desc[(0 : Fin 8)]).getLsbD 54
def Tile.smode (t : Tile) : Nat := nfld (t.desc[(0 : Fin 8)]) 52 2
def Tile.bias (t : Tile) : Bool := (t.desc[(0 : Fin 8)]).getLsbD 51
def Tile.act (t : Tile) : Nat := nfld (t.desc[(0 : Fin 8)]) 48 3
def Tile.pen (t : Tile) : Bool := (t.desc[(0 : Fin 8)]).getLsbD 47
def Tile.slot (t : Tile) : Nat := nfld (t.desc[(0 : Fin 8)]) 35 12
def Tile.scale (t : Tile) : W32 := (t.desc[(1 : Fin 8)]).setWidth 32
def Tile.clo (t : Tile) : W32 := (t.desc[(2 : Fin 8)]).setWidth 32
def Tile.chi (t : Tile) : W32 := (t.desc[(2 : Fin 8)] >>> 32).setWidth 32
def Tile.svecAddr (t : Tile) : Nat := nfld (t.desc[(3 : Fin 8)]) 0 48
def Tile.bvecAddr (t : Tile) : Nat := nfld (t.desc[(4 : Fin 8)]) 0 48
def Tile.daddr (t : Tile) : Nat := nfld (t.desc[(5 : Fin 8)]) 0 48
def Tile.dstride (t : Tile) : Nat := nfld (t.desc[(6 : Fin 8)]) 0 32

/-! ### Stages (R119-R121) -/

/-- An exact result of a stage as FP32 under COVF: RNE, the specials of R119. -/
def stage (ieee : Bool) (v : Val) : Conv := Fmt.fp32.conv .rne ieee v

/-- GELU: the fixed points of R121, and elsewhere the part's own function within its bound (log entry 4). -/
def geluOf (x : W32) : W32 :=
  let v := Fmt.fp32.toVal x
  match v with
  | .nan _ => 0x7FC00000
  | .inf neg => if neg then 0 else x
  | .fin neg m e =>
    if m = 0 then x
    else if !v.lt (Val.ofInt 10) then x
    else if neg && !(Val.ofInt (-10)).lt v then 0
    else
      let q := fracOf m e
      within16 (Config.gelu x) (geluEncl neg q.1 q.2) q.1 q.2

/-- SiLU, likewise. -/
def siluOf (x : W32) : W32 :=
  let v := Fmt.fp32.toVal x
  match v with
  | .nan _ => 0x7FC00000
  | .inf neg => if neg then 0x80000000 else x
  | .fin neg m e =>
    if m = 0 then x
    else if !v.lt (Val.ofInt 20) then x
    else if neg && !(Val.ofInt (-100)).lt v then 0x80000000
    else
      let q := fracOf m e
      within16 (Config.silu x) (siluEncl neg q.1 q.2) q.1 q.2

/-- The activation of a tile on an FP32 word (R120). -/
def activate (t : Tile) (x : W32) : Conv :=
  let v := Fmt.fp32.toVal x
  let same : Conv := stage t.covf v
  let as (y : W32) : Conv := stage t.covf (Fmt.fp32.toVal y)
  match t.act with
  | 1 => if v.isNan || Val.zero.lt v then same else ⟨0, false, false⟩
  | 2 => as (geluOf x)
  | 3 => as (siluOf x)
  | 4 => if v.isNan then same
         else stage t.covf ((v.max (Fmt.fp32.toVal t.clo)).min (Fmt.fp32.toVal t.chi))
  | 5 => stage t.covf (v.mul v)
  | _ => same

/-- What an element gives: the converted bits, the exact input of the conversion and the indications. -/
structure OutElem where
  conv : Conv
  input : Val
  nan : Bool
  ovf : Bool
deriving DecidableEq, Repr

/-- The element takes the integer path (R119 step 1). -/
def Tile.intPath (t : Tile) : Bool := t.isInt && t.smode == 0 && !t.bias && t.act == 0 && t.dfmt.isInt

/-- One element through stages 1 to 5. -/
def outElem (t : Tile) (u : Nat) (sv bv w : W32) : OutElem :=
  let rnd := Rnd.ofField t.rnd u
  if t.intPath then
    let v := Val.ofInt (signedOf 32 w.toNat)
    let c := t.dfmt.convInt rnd v
    ⟨c, v, c.nan, c.ovf⟩
  else
    let x0 : Conv := if t.isInt then Fmt.fp32.conv .rne true (Val.ofInt (signedOf 32 w.toNat)) else ⟨w, false, false⟩
    let x1 : Conv :=
      if t.smode = 0 then ⟨x0.bits, false, false⟩
      else stage t.covf ((Fmt.fp32.toVal x0.bits).mul (Fmt.fp32.toVal (if t.smode = 1 then t.scale else sv)))
    let x2 : Conv :=
      if t.bias then stage t.covf ((Fmt.fp32.toVal x1.bits).add (Fmt.fp32.toVal bv)) else ⟨x1.bits, false, false⟩
    let x3 : Conv := if t.act = 0 then ⟨x2.bits, false, false⟩ else activate t x2.bits
    let v := Fmt.fp32.toVal x3.bits
    let c := t.dfmt.conv rnd t.covf v
    ⟨c, v, x1.nan || x2.nan || x3.nan || c.nan, x1.ovf || x2.ovf || x3.ovf || c.ovf⟩

/-! ### Photometry counts (R124) -/

/-- The bin of a finite non-zero value. -/
def binOf (v : Val) : Option Nat :=
  match v with
  | .fin _ m e => if m = 0 then none else some (Min.min (flog2 m e + 48).toNat 63)
  | _ => none

/-- Bits hold a non-zero subnormal of a floating format. -/
def Fmt.isSubn (f : Fmt) (b : W32) : Bool :=
  match f.fspec with
  | some sp =>
    let mag := (b.toNat >>> sp.shift) % 2 ^ (sp.e + sp.m)
    decide (0 < mag) && decide (mag < 2 ^ sp.m)
  | none => false

/-- Count one element: a value saturated to the 0 of an unsigned format counts in SAT, and ZERO is for exact zeros and
values rounded to zero. -/
def Counts.add (c : Counts) (f : Fmt) (x : OutElem) : Counts :=
  if x.input.isNan then { c with nan := c.nan + 1 }
  else
    let r := f.toVal x.conv.bits
    { bins := match binOf x.input with
        | some i => Tbl.modify 0 c.bins i (· + 1)
        | .none => c.bins
      zero := c.zero + (if r.isZero && !x.conv.ovf then 1 else 0)
      subn := c.subn + (if f.isSubn x.conv.bits then 1 else 0)
      sat := c.sat + (if x.conv.ovf then 1 else 0)
      nan := c.nan
      inf := c.inf + (if r.isInf then 1 else 0) }

/-- The 69 counters of a slot in memory order (R124). -/
def Counts.list (c : Counts) : List Nat :=
  ((List.range 64).map fun i => Tbl.get 0 c.bins i) ++ [c.zero, c.subn, c.sat, c.nan, c.inf]

/-! ### Tiles in the pipeline -/

/-- Change one output tile. -/
def Core.modOut (k : Core) (p : Fin 4) (t : Tile) (f : OutTile → OutTile) : Core :=
  { k with outQ := k.outQ.set p ((k.outQ[p]).map fun x =>
      if x.tile.stream = t.stream ∧ x.tile.seqNo = t.seqNo then f x else x) }

/-- First entry past the tile's. -/
def OutTile.last (x : OutTile) : Nat := x.tile.o.entry.toNat + x.tile.count x.lanes.length

/-- Every entry has been read. -/
def OutTile.allRead (x : OutTile) : Bool := decide (x.nextEntry ≥ x.last)

/-- The tile whose entries the lanes of a partition read now. -/
def Core.laneTile (k : Core) (p : Fin 4) : Option OutTile := (k.outQ[p]).find? fun x => !x.allRead

/-- The handoff entry of a tile's block. -/
def Core.handoffOf (k : Core) (t : Tile) (b : Nat) : Option Handoff :=
  k.handoff.find? fun h => h.stream == t.stream && h.tileSeq == t.seqNo && h.block == b

/-- Rows that entry e of a tile holds, lowest array first. -/
def OutTile.rowsOf (x : OutTile) (e : Nat) : List (Fin 4 × Nat) :=
  x.lanes.zipIdx.map fun i => (i.1, (e - x.tile.o.entry.toNat) * x.lanes.length + i.2)

/-- Blocks of 64 rows that an entry's rows lie in and that have no queue entry. -/
def Core.lacking (k : Core) (x : OutTile) (e : Nat) : List Nat :=
  (((x.rowsOf e).filter fun r => decide (r.2 < x.tile.m)).map fun r => r.2 / 64).eraseDups.filter fun b =>
    (k.handoffOf x.tile b).isNone

/-- Allocate a queue entry for a block of a tile (R129, R130). -/
def Core.allocHandoff (k : Core) (x : OutTile) (b : Nat) : Core :=
  let h : Handoff := { id := k.nextHandoff, stream := x.tile.stream, part := x.part, tileSeq := x.tile.seqNo, block := b,
                       rows := [], rowCount := Min.min 64 (x.tile.m - 64 * b), colCount := x.tile.n, nanF := false,
                       ovfF := false, complete := false, claimed := false }
  { k with handoff := k.handoff ++ [h], nextHandoff := k.nextHandoff + 1 }

/-- Allocate what fits of the blocks an entry lacks; the lanes wait where some is left. -/
def Core.allocFor (k : Core) (p : Fin 4) (x : OutTile) (e : Nat) : Core :=
  let k := (k.lacking x e).foldl (fun k b => if k.handoff.length < 8 then k.allocHandoff x b else k) k
  k.modOut p x.tile fun y => { y with waiting := !(k.lacking x e).isEmpty }

/-! ### Faults (R133, R134) -/

inductive OutCode where
  | destXlate | vecXlate | vecPoison | slotXlate | accParity | destShape
deriving DecidableEq, Repr

def OutCode.num : OutCode → Nat
  | .destXlate => 1 | .vecXlate => 2 | .vecPoison => 3 | .slotXlate => 4 | .accParity => 5 | .destShape => 6

/-- The record of `core.op.fault` (R136). -/
def outRecord (t part array : Nat) (code : OutCode) (entry : Nat) : Word :=
  0x8000000000000000#64 ||| at' t 60 ||| at' part 58 ||| at' array 56 ||| at' code.num 52 ||| at' entry 43

/-- An output fault: the record, the tile dropped with its counts, flags and entries not taken, the trap. -/
def State.outFault (s : State) (c : Fin 96) (p : Fin 4) (x : OutTile) (array : Fin 4) (code : OutCode) (entry : Nat)
    (addr : Nat) : State :=
  let t := x.tile
  let s := s.modCore c fun k => { k with
    opFault := faultReg k.opFault (outRecord t.stream.val p.val array.val code entry)
    outQ := k.outQ.set p ((k.outQ[p]).filter fun y => !(y.tile.stream == t.stream && y.tile.seqNo == t.seqNo))
    handoff := k.handoff.filter fun h => !(h.stream == t.stream && h.tileSeq == t.seqNo && !h.claimed) }
  (s.trapEngine c t.stream .output t.seqNo t.pc t.insn (s.core c).opFault (BitVec.ofNat 48 addr)).settleHeld c

/-! ### Start of a tile (R117, R118, R128, R133) -/

/-- DVA of a photometry slot of the core's context (R124). -/
def State.slotDva (s : State) (c : Fin 96) (slot : Nat) : State × Nat :=
  let s := s.loadCtx (s.ctxOf c)
  (s, ctxPhoto (s.ctxE (s.ctxOf c)) + 512 * slot)

/-- The leaf of a photometry slot, with read and write right. -/
def State.slotLeaf (s : State) (c : Fin 96) (slot : Nat) : State × Option (Leaf × Nat) :=
  let (s, dva) := s.slotDva c slot
  let (s, f) := s.coreXlate c dva true
  (s, match f with
      | some f => if f.r && f.w then some (f, dva) else none
      | none => none)

/-- The destination of a tile breaks R118. -/
def Tile.shapeBad (t : Tile) : Bool :=
  !t.dest && (decide (t.n % t.dfmt.group ≠ 0) || (decide (t.m > 1) && decide (t.dstride < t.dfmt.bytesOf t.n)))

/-- A scale or bias vector: the 64 FP32 words from its address on, as given, also where the address is not
256 B aligned, which R116 does not reject (DESIGN CHOICE, log entry 47). An upset may meet the read. -/
def State.outVec (s : State) (c : Fin 96) (t : Fin 4) (use : Bool) (dva : Nat) (u : Upset) :
    State × Except AccErr (List W32) :=
  if use then
    match s.loadBytes c t none dva 256 u with
    | (s, .ok bs) => (s, .ok (unpackElems .fp32 64 bs))
    | (s, .error e) => (s, .error e)
  else (s, .ok [])

/-- A failed vector read as a fault; nothing follows a line a halt withheld. A fault found before an entry is read names the
lowest lane and the tile's first entry, one found at the photometry add its last entry, which R133 leaves open
(DESIGN CHOICE, log entry 47). -/
def State.outVecErr (s : State) (c : Fin 96) (p : Fin 4) (x : OutTile) : AccErr → State
  | .xlate d => s.outFault c p x (x.lanes.headD 0) .vecXlate x.tile.o.entry.toNat d
  | .right d => s.outFault c p x (x.lanes.headD 0) .vecXlate x.tile.o.entry.toNat d
  | .poison d => s.outFault c p x (x.lanes.headD 0) .vecPoison x.tile.o.entry.toNat d
  | .withheld => s

/-- OUTPUT_TILE_START: the lanes take the tile; its shape, photometry page and vectors are checked and read. DESIGN CHOICE (log
entry 47): of several faults a tile has here, the first of DEST_SHAPE, SLOT_XLATE, the scale vector's and the bias vector's is
recorded; R133 gives no order. -/
def execOutputTileStart (c : Fin 96) (p : Fin 4) (u : Upset) (s : State) : Out :=
  match (s.core c).laneTile p with
  | none => .refused (.notEnabled "no LAST tile waits")
  | some x =>
    guard (s.runs c && !x.started) "the lanes are busy"
      (let t := x.tile
       if t.shapeBad then s.outFault c p x (x.lanes.headD 0) .destShape t.o.entry.toNat 0
       else
         let (s, sl) := if t.pen then s.slotLeaf c t.slot else (s, some (Leaf.ofWord 0, 0))
         match sl with
         | none =>
           let (s, dva) := s.slotDva c t.slot
           s.outFault c p x (x.lanes.headD 0) .slotXlate t.o.entry.toNat dva
         | some _ =>
           match s.outVec c t.stream (t.smode == 2) t.svecAddr u with
           | (s, .error e) => s.outVecErr c p x e
           | (s, .ok sv) =>
             match s.outVec c t.stream t.bias t.bvecAddr (if t.smode == 2 then u.drop (linesOf t.svecAddr 256) else u) with
             | (s, .error e) => s.outVecErr c p x e
             | (s, .ok bv) =>
               s.modCore c fun k => k.modOut p t fun y => { y with started := true, svec := sv, bvec := bv })

/-! ### Reading an entry (R119, R122, R128-R130) -/

/-- The draws of the 64 columns of one array's entry under RND = SR (R122). -/
def Core.entryDraws (k : Core) (a : Fin 4) : List Nat × Core :=
  (List.finRange 64).foldl (fun x n =>
    let (w, k) := x.2.draw (colGen a n)
    (x.1 ++ [roundBits w], k)) ([], k)

/-- The N elements of a row. -/
def rowElems (x : OutTile) (us : List Nat) (e : AccEntry) : List OutElem :=
  (List.finRange 64).filterMap fun n =>
    if n.val < x.tile.n then
      some (outElem x.tile (us.getD n.val 0) (x.svec.getD n.val 0) (x.bvec.getD n.val 0) (e.w[n]))
    else none

/-- A row as a handoff entry holds it (R129): 16-bit elements two to a word, zero beyond N. -/
def handoffRow (f : Fmt) (xs : List W32) : Vector W32 64 :=
  if f.packed then Vector.ofFn fun j => packHalves (xs.getD (2 * j.val) 0) (xs.getD (2 * j.val + 1) 0)
  else Vector.ofFn fun j => xs.getD j.val 0

/-- Put a row into its queue entry, complete with its last row. -/
def Core.putHandoffRow (k : Core) (x : OutTile) (m : Nat) (row : Vector W32 64) : Core :=
  { k with handoff := k.handoff.map fun h =>
      if h.stream = x.tile.stream ∧ h.tileSeq = x.tile.seqNo ∧ h.block = m / 64 then
        { h with rows := Tbl.set (Vector.replicate 64 0) h.rows (m % 64) row
                 complete := h.complete || decide (m % 64 + 1 = h.rowCount) }
      else h }

/-- One lane at cycle 13: its row's elements, counts, and its write. A row at or beyond M is discarded after its draws.
Answers the DVA of a write without translation or right. -/
def State.laneRow (s : State) (c : Fin 96) (p : Fin 4) (x : OutTile) (m : Nat) (z : AccEntry) (us : List Nat) :
    State × Option Nat :=
  let t := x.tile
  if m ≥ t.m then (s, none)
  else
    let es := rowElems x us z
    let bits := es.map fun y => y.conv.bits
    let upd (s : State) : State := s.modCore c fun k => k.modOut p t fun y =>
      { y with
        counts := if t.pen then es.foldl (fun n z => n.add t.dfmt z) y.counts else y.counts
        tile := { y.tile with nanF := y.tile.nanF || es.any OutElem.nan, ovfF := y.tile.ovfF || es.any OutElem.ovf } }
    if t.dest then (upd (s.modCore c fun k => k.putHandoffRow x m (handoffRow t.dfmt bits)), none)
    else
      match s.storeBytes c t.stream t.seqNo .quad (t.daddr + m * t.dstride) (packElems t.dfmt bits) with
      | (s, .ok _) => (upd s, none)
      | (s, .error (.xlate d)) => (s, some d)
      | (s, .error (.right d)) => (s, some d)
      | (s, .error _) => (s, none)

/-- An entry reaches cycle 13: the lanes count and write its rows; the first of them that fails names the fault. -/
def State.writeEntry (s : State) (c : Fin 96) (p : Fin 4) (x : OutTile) (y : OutEntry) : State :=
  let (s, bad) := y.rows.zipIdx.foldl (fun (a : State × Option (Fin 4 × Nat)) r =>
    let (s, f) := a.1.laneRow c p x r.1.2.1 r.1.2.2 (y.draws.getD r.2 [])
    (s, match a.2, f with
        | some b, _ => some b
        | none, some d => some (r.1.1, d)
        | none, none => none)) (s, none)
  match bad with
  | some (a, d) => s.outFault c p x a .destXlate y.entry d
  | none => s

/-- The tile of an output queue. -/
def Core.outOf (k : Core) (p : Fin 4) (t : Tile) : Option OutTile :=
  (k.outQ[p]).find? fun x => x.tile.stream == t.stream && x.tile.seqNo == t.seqNo

/-- The conversion's draws of the entry at cycle 11, lane by lane (R122). -/
def Core.drawEntry (k : Core) (y : OutEntry) : OutEntry × Core :=
  let (us, k) := y.rows.foldl (fun (a : List (List Nat) × Core) r =>
    let (u, k) := a.2.entryDraws r.1
    (a.1 ++ [u], k)) ([], k)
  ({ y with draws := us }, k)

/-- The entries a cycle later; under RND = SR the one at cycle 11 draws. -/
def Core.ageEntries (k : Core) (sr : Bool) (l : List OutEntry) : List OutEntry × Core :=
  l.foldl (fun (a : List OutEntry × Core) y =>
    let y := { y with age := y.age + 1 }
    if sr && y.age == 11 then
      let (y, k) := a.2.drawEntry y
      (a.1 ++ [y], k)
    else (a.1 ++ [y], a.2)) ([], k)

/-- One cycle of a tile's lanes: the entry that reaches cycle 13 leaves them (R134). -/
def State.laneCycle (s : State) (c : Fin 96) (p : Fin 4) (t : Tile) : State :=
  match (s.core c).outOf p t with
  | none => s
  | some x =>
    let (l, k) := (s.core c).ageEntries (t.rnd == 2#2) x.pipe
    let s := s.modCore c fun _ => k.modOut p t fun y => { y with pipe := l.filter fun z => decide (z.age < 13) }
    match l.find? fun z => decide (z.age ≥ 13) with
    | some y => s.writeEntry c p x y
    | none => s

/-- n cycles. -/
def State.laneCycles (s : State) (c : Fin 96) (p : Fin 4) (t : Tile) : (n : Nat) → State
  | 0 => s
  | n + 1 => (s.laneCycle c p t).laneCycles c p t n

/-- The lanes of a partition read one entry, while those before it move on; after the last one the lanes run empty. -/
def State.readEntryRows (s : State) (c : Fin 96) (p : Fin 4) (x : OutTile) (e : Nat) : State :=
  let y : OutEntry :=
    { entry := e, age := 0, rows := (x.rowsOf e).map fun r => (r.1, r.2, ((s.core c).arrs[r.1]).entry e), draws := [] }
  let s := (s.laneCycle c p x.tile).modCore c fun k => k.modOut p x.tile fun z =>
    { z with nextEntry := e + 1, waiting := false, pipe := z.pipe ++ [y] }
  if e + 1 ≥ x.last then s.laneCycles c p x.tile 13 else s

/-- The lowest array whose read of an entry fails its parity, and the lowest bad column: a word found bad now stays
bad, and which word that is is not stated (R106, R108). -/
def parityAt (k : Core) (x : OutTile) (e : Nat) (parity : BitVec 4) (free : W32) : Option (Fin 4 × Nat) :=
  (x.lanes.find? fun a => parity.getLsbD a.val || !((k.arrs[a]).entry e).bad.isEmpty).map fun a =>
    (a, least ((((k.arrs[a]).entry e).bad.map Fin.val) ++ (if parity.getLsbD a.val then [free.toNat % 64] else [])))

/-- A parity error met by the lanes: recorded in the partition's register too (R106). -/
def State.outParity (s : State) (c : Fin 96) (p : Fin 4) (x : OutTile) (e : Nat) (a : Fin 4) (col : Nat) : State :=
  let m := (((x.rowsOf e).find? fun r => r.1 == a).map Prod.snd).getD 0
  let s := s.modCore c fun k => { k.modArr a fun y =>
      { y with acc := Tbl.modify AccEntry.zero y.acc e fun z =>
          { z with bad := Fin.ofNat 64 col :: z.bad.filter (· ≠ Fin.ofNat 64 col) } } with
    pfault := k.pfault.set p (faultReg k.pfault[p] (quadRecord k.mxMode p x.tile .accParity
      { array := a.val, row := m, entry := e, column := col, addr := 0 } 0)) }
  s.outFault c p x a .accParity e 0

/-- The parity check comes a cycle after the read: what reaches cycle 13 by then is written, the rest is discarded with the tile
(R134). -/
def State.parityFault (s : State) (c : Fin 96) (p : Fin 4) (x : OutTile) (e : Nat) (a : Fin 4) (col : Nat) : State :=
  let s := s.laneCycles c p x.tile 2
  match (s.core c).outOf p x.tile with
  | some y => s.outParity c p y e a col
  | none => s

/-- The lanes of an entry stop for a queue entry: too few are free, or a lower partition's lanes wait for one (R130). -/
def Core.lanesStop (k : Core) (p : Fin 4) (x : OutTile) (e : Nat) : Bool :=
  x.tile.dest && !(k.lacking x e).isEmpty && (decide (k.handoff.length + (k.lacking x e).length > 8) ||
    (List.finRange 4).any fun q => decide (q.val < p.val) && (k.laneTile q).any fun y => y.waiting)

/-- OUTPUT_ENTRY_READ. -/
def execOutputEntryRead (c : Fin 96) (p : Fin 4) (parity : BitVec 4) (s : State) : Out :=
  let k := s.core c
  match k.laneTile p with
  | none => .refused (.notEnabled "no LAST tile is read")
  | some x =>
    guard (s.completes c && x.started && !x.waiting) "the lanes do not read"
      (let e := x.nextEntry
       if k.lanesStop p x e then
         s.modCore c fun k =>
           if (List.finRange 4).any fun q => decide (q.val < p.val) && (k.laneTile q).any fun y => y.waiting then
             k.modOut p x.tile fun y => { y with waiting := true }
           else k.allocFor p x e
       else
         let s := if x.tile.dest then s.modCore c fun k => k.allocFor p x e else s
         let (w, s) := if parity = 0 then (0, s) else s.draw32
         match parityAt (s.core c) x e parity w with
         | some (a, col) => s.parityFault c p x e a col
         | none => s.readEntryRows c p x e)

/-- HANDOFF_ENTRY_ALLOC: an entry is free for the waiting lanes; a lower partition that waits comes first. -/
def execHandoffEntryAlloc (c : Fin 96) (p : Fin 4) (s : State) : Out :=
  let k := s.core c
  match k.laneTile p with
  | none => .refused (.notEnabled "no lane waits")
  | some x =>
    guard (s.completes c && x.waiting && decide (k.handoff.length < 8) &&
        (List.finRange 4).all fun q => decide (p.val ≤ q.val) || !((k.laneTile q).any fun y => y.waiting))
      "no entry is free for the lane"
      (s.modCore c fun k => k.allocFor p x x.nextEntry)

/-! ### The end of a tile (R123, R125, R132) -/

/-- Saturating adds to the counters of a slot as one action. -/
def State.addCounts (s : State) (f : Leaf) (dva : Nat) (c : Counts) : State :=
  let dpa := leafDpa f dva
  let r := s.mem.readBytes .engine (some f.owner) dpa 276 s.tick
  let s := { s with mem := r.1 }
  let old := (List.range 69).map fun i => leNat ((r.2.1.drop (4 * i)).take 4)
  let new := (old.zip c.list).map fun x => Min.min (x.1 + x.2) 0xFFFFFFFF
  s.modMem fun m => m.writeBytes .engine f.owner dpa (new.flatMap fun x => leBytes 4 x) s.tick

/-- PHOTOMETRY_ADD. A poisoned line of the slot: as at HSCALE (log entry 47). -/
def execPhotometryAdd (c : Fin 96) (p : Fin 4) (s : State) : Out :=
  match (s.core c).outQ[p] with
  | [] => .refused (.notEnabled "no tile has counts to add")
  | x :: _ =>
    guard (s.completes c && x.started && x.allRead && x.tile.pen && !x.added) "no tile has counts to add"
      (match s.slotLeaf c x.tile.slot with
       | (s, some (f, dva)) =>
         (s.addCounts f dva x.counts).modCore c fun k => k.modOut p x.tile fun y => { y with added := true }
       | (s, none) =>
         let (s, dva) := s.slotDva c x.tile.slot
         s.outFault c p x (x.lanes.headD 0) .slotXlate (x.last - 1) dva)

/-- OUTPUT_TILE_COMPLETE: the tile's flags go to its stream and its queue entries (R123); its memory writes are
complete for ordering once the queue of writes has passed them (R132, R182). -/
def execOutputTileComplete (c : Fin 96) (p : Fin 4) (s : State) : Out :=
  match (s.core c).outQ[p] with
  | [] => .refused (.notEnabled "no tile is in the pipeline")
  | x :: rest =>
    guard (s.completes c && x.started && x.allRead && (!x.tile.pen || x.added)) "the tile is not complete"
      ((s.modCore c fun k =>
        let k := k.orTile x.tile.stream x.tile.nanF x.tile.ovfF
        { k with
          outQ := k.outQ.set p rest
          handoff := k.handoff.map fun h =>
            if h.stream = x.tile.stream ∧ h.tileSeq = x.tile.seqNo then
              { h with nanF := x.tile.nanF, ovfF := x.tile.ovfF } else h }).settleHeld c)

/-! ### VTAKE (R131) -/

/-- The oldest complete entry of a stream that no VTAKE has claimed. -/
def Core.ready (k : Core) (t : Fin 4) : Option Handoff :=
  k.handoff.find? fun h => h.stream == t && h.complete && !h.claimed

/-- VTAKE once an entry is ready: it is claimed and the copy starts. -/
def vtakeStart (pd : BitVec 4) (n : Nat) (a : At) (s : State) : Issued :=
  .done ((s.modCore a.c fun k => k.claim n).modStream a.c a.t
    fun st => { st with vtake := some { pd := pd, entry := n, seqNo := a.seqNo } })

/-- VTAKE's effect at issue. -/
def vtakeBody (p : Site) (o : LayV) (a : At) (s : State) : Issued :=
  match (s.core a.c).ready a.t with
  | none => .stall s (.vtake o.pd a.pc)
  | some h => withPlates (.vtake p o) (some h.id) [o.pd] (vtakeStart o.pd h.id) a s

def execVtake (p : Site) (o : LayV) (s : State) : Out := issue p (.vtake p o) s (vtakeBody p o)

/-- VTAKE's operands for a destination plate: every other field is zero. -/
def vtakeOps (pd : BitVec 4) : LayV :=
  { pd := pd, pa := 0, pb := 0, pc := 0, fmt := 0, rnd := 0, ovfm := false, sub := 0, idx := 0, aux := 0 }

/-- VTAKE_COPY: the entry a waiting VTAKE needs exists now. -/
def execVtakeCopy (p : Site) (s : State) : Out :=
  let st := s.stream p.core p.stream
  match st.wait with
  | .vtake pd _ =>
    let a := s.here p ((encode (.vtake p (vtakeOps pd))).getD (0, 0)).1
    guard (s.runs p.core && st.mode == .wait && ((s.core p.core).ready p.stream).isSome) "no entry is complete"
      (finish p a ((vtakeBody p (vtakeOps pd) a s).counted (.vtake p (vtakeOps pd)) a st.vl.toNat))
  | _ => .refused (.notEnabled "the stream does not wait at a VTAKE")

/-! ### HSCALE (R126, R127, R223) -/

/-- floor(log2) of the largest finite value of a format (R126). -/
def Fmt.emaxOf : Fmt → Int
  | .e4m3 => 8 | .e5m2 => 15 | .e3m2 => 4 | .e2m3 => 2 | .e2m1 => 2 | .fp16 => 15 | .fp12 => 15 | .bf16 => 127
  | .fp24 => 127 | .fp32 => 127 | .int32 => 30 | .int16 => 14 | .int8 => 6 | .uint8 => 7 | .int4 => 2 | .e8m0 => 0

/-- The highest bin at which the tail count is passed, from bin i − 1 down. -/
def topBin (bins : List Nat) (t : Nat) : (i acc : Nat) → Option Nat
  | 0, _ => none
  | i + 1, acc =>
    let n := acc + bins.getD i 0
    if n > t then some i else topBin bins t i n

/-- The scale s is a positive finite normal FP32 value. -/
def goodScale (s : W32) : Bool := decide (0x00800000 ≤ s.toNat) && decide (s.toNat < 0x7F800000)

/-- The result of R126. -/
def hscaleValue (bins : List Nat) (s : W32) (f : Fmt) (g t : Nat) : W32 :=
  if !goodScale s then 0x7FC00000
  else match topBin bins t 64 0 with
    | none => s
    | some i =>
      let x : Int := (s.toNat / 8388608 : Nat) + (f.emaxOf - g - ((i : Int) - 48))
      let x := if x < 1 then 1 else if x > 254 then 254 else x
      BitVec.ofNat 32 (x.toNat * 8388608 + s.toNat % 8388608)

/-- HSCALE: the slot is read, and with CLR cleared, in one action; the result is written by HSCALE_COMPLETE. DESIGN CHOICE (log
entry 47): a poisoned line of the slot gives its bytes as any other, since no fault code stands for it. -/
def execHscale (p : Site) (o : HscaleOps) (s : State) : Out :=
  issue p (.hscale p o) s fun a s =>
    if (s.stream a.c a.t).hscale.isSome then .stall s .full
    else
      let sc : W32 := (s.rx a o.ra).setWidth 32
      let run (v : W32) (bad : Bool) (s : State) : Issued :=
        .done (s.modStream a.c a.t fun st => { st with
          hscale := some { rd := o.rd, value := v, fault := bad, seqNo := a.seqNo, pc := a.pc, insn := a.insn } })
      match s.slotLeaf a.c o.slot.toNat with
      | (s, none) => run (o.slot.setWidth 32) true s
      | (s, some (f, dva)) =>
        let dpa := leafDpa f dva
        let r := s.mem.readBytes .engine (some f.owner) dpa 256 s.tick
        let s := { s with mem := r.1 }
        let bins := (List.range 64).map fun i => leNat ((r.2.1.drop (4 * i)).take 4)
        let s := if o.clr then
            s.modMem fun m => m.writeBytes .engine f.owner dpa (List.replicate 276 0) s.tick else s
        run (hscaleValue bins sc ((Fmt.ofCode o.dfmt).getD .fp32) o.g.toNat ((s.rx a o.rt).setWidth 32).toNat) false s

/-- HSCALE_COMPLETE. -/
def execHscaleComplete (p : Site) (s : State) : Out :=
  match (s.stream p.core p.stream).hscale with
  | none => .refused (.notEnabled "no HSCALE runs")
  | some h =>
    guard (s.completes p.core) "the core does not run"
      (let s := s.modStream p.core p.stream fun st => { st with hscale := none }
       if h.fault then
         let (s, dva) := s.slotDva p.core h.value.toNat
         let s := s.modCore p.core fun k => { k with
           opFault := faultReg k.opFault (outRecord p.stream.val 0 0 .slotXlate 0) }
         (s.trapEngine p.core p.stream .output h.seqNo h.pc h.insn (s.core p.core).opFault
           (BitVec.ofNat 48 dva)).settleHeld p.core
       else
         ((s.modStream p.core p.stream fun st => st.setReg h.rd (h.value.setWidth 64)).modCore p.core fun k =>
           k.orVec p.stream (h.value == 0x7FC00000#32) false false).settleHeld p.core)

end Sys2Proof.Machine
end

