-- ==== Sys2Proof/Machine/Vector.lean ====
section
/-! DEFINITION. The vector instructions: majors 0x18 to 0x1F (R137-R158, R224-R228). The destination's rows are written
together when the instruction has read all it reads. -/
namespace Sys2Proof.Machine

/-- The format a suffix names. -/
def fmtV (o : LayV) : Fmt := (Fmt.ofCode o.fmt).getD .fp32
def fmtOf (c : BitVec 5) : Fmt := (Fmt.ofCode c).getD .fp32

/-! ### A plate from a function of its words -/

/-- What every word of a plate becomes: columns at or beyond `vl` keep their contents (R139). -/
def gridOf (k : Core) (pd : BitVec 4) (vl : Nat) (f : Nat → Fin 64 → Conv) : List (List Conv) :=
  (List.range 64).map fun r => (List.finRange 64).map fun c =>
    if c.val < vl then f r c else ⟨k.plateWord pd r c, false, false⟩

/-- A row of words from a list. -/
def rowOf (l : List Conv) : Vector W32 64 := Vector.ofFn fun c => ((l.getD c.val ⟨0, false, false⟩)).bits

/-- Write a grid to a plate. -/
def Core.writeGrid (k : Core) (pd : BitVec 4) (g : List (List Conv)) : Core := k.setPlate pd fun r => rowOf (g.getD r [])

/-- Write words of pd below `vl` and OR the indications into the stream's flags (R157). -/
def Core.mapPlate (k : Core) (t : Fin 4) (pd : BitVec 4) (vl : Nat) (f : Nat → Fin 64 → Conv) : Core :=
  let g := gridOf k pd vl f
  (k.writeGrid pd g).mark t (anyMarks g.flatten)

/-- An operation on elements, as one on words: a packed word holds two. -/
def onWord (f : Fmt) (op : W32 → W32 → W32 → Conv) (a b c : W32) : Conv :=
  if f.packed then
    let l := op (halfOf a false) (halfOf b false) (halfOf c false)
    let h := op (halfOf a true) (halfOf b true) (halfOf c true)
    ⟨packHalves l.bits h.bits, l.nan || h.nan, l.ovf || h.ovf⟩
  else op a b c

/-- An element-wise instruction on the named sources. -/
def opElem (o : LayV) (op : W32 → W32 → W32 → Conv) (a : At) (s : State) : Issued :=
  let vl := s.vlOf a
  .done (s.modCore a.c fun k => k.mapPlate a.t o.pd vl fun r c =>
    onWord (fmtV o) op (k.plateWord o.pa r c) (k.plateWord o.pb r c) (k.plateWord o.pc r c))

/-! ### Element-wise arithmetic (R142-R144, R225-R227) -/

/-- An exact floating operation rounded once, or an integer one that saturates. -/
def arith (f : Fmt) (fl : Val → Val → Val → Val) (int : Int → Int → Int) (a b c : W32) : Conv :=
  if f.isInt then f.convInt .rne (Val.ofInt (int (f.toInt a) (f.toInt b)))
  else f.rne (fl (f.toVal a) (f.toVal b) (f.toVal c))

/-- A VCMP condition: EQ, NE, LT, LE, GT, GE; with a NaN only NE holds. -/
def compare (cond : BitVec 4) (a b : Val) : Bool :=
  if a.isNan || b.isNan then cond == 1#4
  else match cond.toNat with
    | 0 => a.eq b
    | 1 => !a.eq b
    | 2 => a.lt b
    | 3 => !b.lt a
    | 4 => b.lt a
    | _ => !a.lt b

/-- The all-ones mask of an element. -/
def onesOf (f : Fmt) : W32 := if f.packed then 0xFFFF else 0xFFFFFFFF

/-- A word of bits without indications. -/
def plain (w : W32) : Conv := ⟨w, false, false⟩

/-! ### Moves (R224, R228) -/

/-- VSPLAT: bits [31:0], or bits [15:0] in both halves. -/
def opVsplat (o : LayVS) (a : At) (s : State) : Issued :=
  let r : W32 := (s.rx a o.r).setWidth 32
  let w := if (fmtOf o.fmt).packed then packHalves r r else r
  .done (s.modCore a.c fun k => k.mapPlate a.t o.p (s.vlOf a) fun _ _ => plain w)

/-- VGET: any column, whatever vl. -/
def opVget (o : LayVS) (a : At) (s : State) : Issued :=
  .done (s.wx a o.r (((s.core a.c).plateWord o.p o.row.toNat o.col.toFin).setWidth 64))

def opVmov (o : LayV) (a : At) (s : State) : Issued :=
  .done (s.modCore a.c fun k => k.mapPlate a.t o.pd (s.vlOf a) fun r c => plain (k.plateWord o.pa r c))

/-! ### VCVT (R146, R162) -/

/-- The draws of all 64 rows, in ascending order, where an instruction draws. -/
def Core.plateDraws (k : Core) (draw packed : Bool) : List (List (W32 × W32)) × Core :=
  if draw then
    (List.range 64).foldl (fun a r =>
      let (us, k) := a.2.rowDraws r packed
      (a.1 ++ [us], k)) ([], k)
  else ([], k)

/-- Element j of a row of a packed plate. -/
def Core.elem16 (k : Core) (p : BitVec 4) (r j : Nat) : W32 := halfOf (k.plateWord p r (Fin.ofNat 64 (j / 2))) (j % 2 == 1)

/-- One word of VCVT's destination and how many words it writes. -/
def cvtWord (k : Core) (o : LayV) (src : Fmt) (vl : Nat) (us : List (List (W32 × W32))) (r : Nat) (c : Fin 64) : Conv :=
  let d := (fmtV o)
  let cv (b : W32) (w : Nat) (h : Bool) : Conv := convert src d (rndAt o.rnd (us.getD r []) w h) o.ovfm b
  match src.packed, d.packed with
  | false, false => cv (k.plateWord o.pa r c) c.val false
  | true, true =>
    let l := cv (k.elem16 o.pa r (2 * c.val)) c.val false
    let h := cv (k.elem16 o.pa r (2 * c.val + 1)) c.val true
    ⟨packHalves l.bits h.bits, l.nan || h.nan, l.ovf || h.ovf⟩
  | false, true =>
    let l := cv (k.plateWord o.pa r (Fin.ofNat 64 (2 * c.val))) c.val false
    if 2 * c.val + 1 < vl then
      let h := cv (k.plateWord o.pa r (Fin.ofNat 64 (2 * c.val + 1))) c.val true
      ⟨packHalves l.bits h.bits, l.nan || h.nan, l.ovf || h.ovf⟩
    else ⟨packHalves l.bits 0, l.nan, l.ovf⟩
  | true, false => cv (k.elem16 o.pa r c.val) (c.val / 2) (c.val % 2 == 1)

/-- VCVT. -/
def opVcvt (o : LayV) (a : At) (s : State) : Issued :=
  let src := fmtOf (o.aux.setWidth 5)
  let vl := s.vlOf a
  let n := if !src.packed && (fmtV o).packed then (vl + 1) / 2 else vl
  .done (s.modCore a.c fun k =>
    let (us, k) := k.plateDraws (o.rnd == 2#2) (src.packed || (fmtV o).packed)
    k.mapPlate a.t o.pd n (cvtWord k o src vl us))

/-! ### Loads and stores (R145, R158) -/

/-- A memory format whose plate form is packed, or is stored as it stands. -/
def Fmt.asStored (f : Fmt) : Bool := f.bits == 32 || f.packed

/-- The plate form of a memory format. -/
def Fmt.plateForm (f : Fmt) : Fmt := if f.asStored then f else if f.isInt then .int32 else .fp32

/-- An element of a load in its plate form. -/
def widen (f : Fmt) (b : W32) : Conv :=
  if f = .fp24 then plain (b &&& 0xFFFFFF00)
  else if f.asStored then plain b
  else f.plateForm.conv .rne true (f.toVal b)

/-- Elements a row holds. -/
def perRow (f : Fmt) (vl : Nat) : Nat := if f.packed then 2 * vl else vl

/-- The DVA of row r. -/
def rowDva (base stride : Word) (r : Nat) : Nat := (addr48 (base + BitVec.ofNat 64 r * stride)).toNat

/-- A row breaks the alignment of R145. -/
def rowMisaligned (f : Fmt) (n dva : Nat) : Bool :=
  decide (n % f.group ≠ 0) || (decide (f.bits = 32) && decide (dva % 4 ≠ 0)) || (decide (f.bits = 16) && decide (dva % 2 ≠ 0))

/-- The word column an access at a DVA within a row belongs to. -/
def colOfDva (f : Fmt) (row dva : Nat) : Nat :=
  Min.min ((dva - row) * 8 / f.bits / (if f.packed then 2 else 1)) 63

/-- The elements of a loaded row as plate words. -/
def loadRow (f : Fmt) (vl : Nat) (old : Vector W32 64) (es : List W32) : List Conv :=
  let cs := es.map (widen f)
  (List.finRange 64).map fun c =>
    if c.val < vl then
      if f.packed then
        plain (packHalves ((cs.getD (2 * c.val) (plain 0)).bits) ((cs.getD (2 * c.val + 1) (plain 0)).bits))
      else cs.getD c.val (plain 0)
    else plain old[c]

/-- Why a row stops a vector load or store. -/
inductive RowStop where
  | fault (code : VecCode) (row col addr : Nat)
  | withheld
deriving DecidableEq, Repr

/-- Load one row. DESIGN CHOICE (log entry 46): a row with a poisoned element and a later page without translation reports
LOAD_XLATE; R158 gives no order. -/
def State.vldRow (s : State) (a : At) (f : Fmt) (vl : Nat) (base stride : Word) (u : Upset) (r : Nat) :
    State × Except RowStop (List W32) :=
  let dva := rowDva base stride r
  let n := perRow f vl
  if rowMisaligned f n dva then (s, .error (.fault .align r 0 dva))
  else
    match s.loadMarked a.c a.t (some .vld) dva (f.bytesOf n) u with
    | (s, .error (.xlate d)) => (s, .error (.fault .loadXlate r (colOfDva f dva d) d))
    | (s, .error (.right d)) => (s, .error (.fault .loadXlate r (colOfDva f dva d) d))
    | (s, .error _) => (s, .error .withheld)
    | (s, .ok bs) =>
      match (bs.map Prod.snd).findIdx? id with
      | some i => (s, .error (.fault .poisonLoad r (colOfDva f dva (dva + i)) (dva + i)))
      | none => (s, .ok (unpackElems f n (bs.map Prod.fst)))

/-- Line reads of the rows before row r. -/
def vldReads (f : Fmt) (vl : Nat) (base stride : Word) (r : Nat) : Nat :=
  (List.range r).foldl (fun n i => n + linesOf (rowDva base stride i) (f.bytesOf (perRow f vl))) 0

/-- VLD: rows in ascending order; on a fault every destination row is undefined, and rows before it keep their flags. -/
def opVld (o : LayVM) (u : Upset) (a : At) (s0 : State) : Issued :=
  let s := s0
  let f := fmtOf o.fmt
  let vl := s.vlOf a
  let base := s.rx a o.ra
  let stride := s.rx a o.rb
  let (s, rows, stop) := (List.range 64).foldl (fun (x : State × List (List W32) × Option RowStop) r =>
    match x.2.2 with
    | some _ => x
    | none =>
      match x.1.vldRow a f vl base stride (u.drop (vldReads f vl base stride r)) r with
      | (s, .error e) => (s, x.2.1, some e)
      | (s, .ok l) => (s, x.2.1 ++ [l], none)) (s, [], none)
  let g := rows.zipIdx.map fun l => loadRow f vl ((s.core a.c).plateRow o.pd l.2) l.1
  let marked (s : State) : State := s.modCore a.c fun k => k.mark a.t (anyMarks g.flatten)
  match stop with
  | some (.fault code r col d) => ((marked s).scramble a.c o.pd).vecFault a code r col o.pd d
  | some .withheld => .stall (s0.stalled s a.c a.t) .full
  | none => .done ((marked s).modCore a.c fun k => k.writeGrid o.pd g)

/-- The exact values of a row's elements, and their bits. -/
def Core.rowBits (k : Core) (f : Fmt) (p : BitVec 4) (n r : Nat) : List W32 :=
  (List.range n).map fun j => if f.packed then k.elem16 p r j else k.plateWord p r (Fin.ofNat 64 j)

/-- The roundings of a row's elements. -/
def rowRnds (f : Fmt) (rnd : BitVec 2) (us : List (W32 × W32)) (n : Nat) : List Rnd :=
  (List.range n).map fun j => if f.packed then rndAt rnd us (j / 2) (j % 2 == 1) else rndAt rnd us j false

/-- A failed store of a row. -/
def storeStop (f : Fmt) (dva r : Nat) : AccErr → RowStop
  | .xlate d => .fault .storeXlate r (colOfDva f dva d) d
  | .right d => .fault .storeXlate r (colOfDva f dva d) d
  | .poison d => .fault .storeXlate r (colOfDva f dva d) d
  | .withheld => .withheld

/-- Store one row: draws, conversion, write. -/
def State.vstRow (s : State) (a : At) (o : LayVM) (vl : Nat) (base stride : Word) (r : Nat) :
    State × Except RowStop Marks :=
  let f := fmtOf o.fmt
  let n := perRow f vl
  let dva := rowDva base stride r
  if rowMisaligned f n dva then (s, .error (.fault .align r 0 dva))
  else
    let k0 := s.core a.c
    let (us, k) := if o.rnd == 2#2 then k0.rowDraws r f.packed else ([], k0)
    let s := s.modCore a.c fun _ => k
    let cs := (k.rowBits f o.pd n r).zip (rowRnds f o.rnd us n) |>.map fun x => convert f.plateForm f x.2 o.ovfm x.1
    match s.storeBytes a.c a.t a.seqNo .vec dva (packElems f (cs.map Conv.bits)) with
    | (s, .ok _) => (s, .ok (anyMarks cs))
    | (s, .error e) => (s.modCore a.c fun k => k.mark a.t (anyMarks cs), .error (storeStop f dva r e))

/-- The blocks of 32 of a row under the MX rules (R74-R77). -/
def mxRow (f : Fmt) (ieee : Bool) (rs : List Rnd) (vs : List Val) : List (Byte × List W32 × Bool × Bool) :=
  (List.range (vs.length / 32)).map fun b => mxBlock f ieee ((rs.drop (32 * b)).take 32) ((vs.drop (32 * b)).take 32)

/-- Store one row as MX blocks: elements, then the scale bytes. DESIGN CHOICE (log entry 46): with FMT INT8 the plate's
words are read as FP32, as for the other formats. -/
def State.vstMxRow (s : State) (a : At) (o : LayVM) (vl : Nat) (base stride scales : Word) (r : Nat) :
    State × Except RowStop Marks :=
  let f := fmtOf o.fmt
  let dva := rowDva base stride r
  let k0 := s.core a.c
  let (us, k) := if o.rnd == 2#2 then k0.rowDraws r false else ([], k0)
  let s := s.modCore a.c fun _ => k
  let bs := mxRow f o.ovfm (rowRnds .fp32 o.rnd us vl) ((k.rowBits .fp32 o.pd vl r).map Fmt.fp32.toVal)
  let mk : Marks := ⟨bs.any fun b => b.2.2.1, bs.any fun b => b.2.2.2, false⟩
  let done (x : State × Except AccErr Unit) (at' : Nat) (ok : State → State × Except RowStop Marks) :
      State × Except RowStop Marks :=
    match x with
    | (s, .ok _) => ok s
    | (s, .error e) => (s.modCore a.c fun k => k.mark a.t mk, .error (storeStop f at' r e))
  done (s.storeBytes a.c a.t a.seqNo .vec dva (packElems f (bs.flatMap fun b => b.2.1))) dva fun s =>
    let sd := rowDva scales (BitVec.ofNat 64 (vl / 32)) r
    match s.storeBytes a.c a.t a.seqNo .vec sd (bs.map fun b => b.1) with
    | (s, .ok _) => (s, .ok mk)
    | (s, .error e) =>
      (s.modCore a.c fun k => k.mark a.t mk, .error (match storeStop f sd r e with
        | .fault c r _ d => .fault c r 0 d
        | x => x))

/-- Rows of a store in ascending order until one stops it. -/
def storeRows (a : At) (pd : BitVec 4) (row : State → Nat → State × Except RowStop Marks) (s : State) : Issued :=
  let (s, stop) := (List.range 64).foldl (fun (x : State × Option RowStop) r =>
    match x.2 with
    | some _ => x
    | none =>
      match row x.1 r with
      | (s, .error e) => (s, some e)
      | (s, .ok m) => (s.modCore a.c fun k => k.mark a.t m, none)) (s, none)
  match stop with
  | some (.fault code r col d) => s.vecFault a code r col pd d
  | some .withheld => .stall s .full
  | none => .done s

def opVst (o : LayVM) (a : At) (s : State) : Issued :=
  storeRows a o.pd (fun x r => x.vstRow a o (s.vlOf a) (s.rx a o.ra) (s.rx a o.rb) r) s

/-- VST.mx: vl must be a multiple of 32. -/
def opVstMx (o : LayVM) (a : At) (s : State) : Issued :=
  if s.vlOf a % 32 ≠ 0 then s.vecFault a .mxShape 0 0 o.pd 0
  else storeRows a o.pd
    (fun x r => x.vstMxRow a o (s.vlOf a) (s.rx a o.ra) (s.rx a o.rb) (s.rx a o.rc) r) s

/-! ### Reductions (R147, R148) -/

/-- Reduce a non-empty list of elements. -/
def reduce (f : Fmt) (op : BitVec 4) (xs : List W32) : Conv :=
  if f.isInt then
    let is := xs.map f.toInt
    let h := is.headD 0
    let v := match op.toNat with
      | 0 => is.foldl (· + ·) 0
      | 2 => is.foldl Max.max h
      | 3 => is.foldl Min.min h
      | _ => is.foldl (fun m i => Max.max m (i.natAbs : Int)) 0
    f.convInt .rne (Val.ofInt v)
  else
    let vs := xs.map f.toVal
    let h := vs.headD Val.zero
    match op.toNat with
    | 0 => f.rne (Val.sum vs)
    | 1 => f.rne (Val.sum (vs.map fun v => v.mul v))
    | 2 => f.rne (vs.foldl Val.max h)
    | 3 => f.rne (vs.foldl Val.min h)
    | _ => f.rne (vs.foldl (fun m v => m.max v.abs) h.abs)

def opVredRow (o : LayV) (a : At) (s : State) : Issued :=
  let vl := s.vlOf a
  .done (s.modCore a.c fun k =>
    let rs := (List.range 64).map fun r =>
      reduce (fmtV o) o.sub (((k.plateRow o.pa r).toList).take vl)
    (k.setPlate o.pd fun r => (k.plateRow o.pd r).set o.idx.toFin (rs.getD r (plain 0)).bits).mark a.t (anyMarks rs))

def opVredCol (o : LayV) (a : At) (s : State) : Issued :=
  let vl := s.vlOf a
  .done (s.modCore a.c fun k =>
    let cs := (List.finRange 64).map fun c =>
      if c.val < vl then reduce (fmtV o) o.sub ((List.range 64).map fun r => k.plateWord o.pa r c)
      else plain (k.plateWord o.pd o.idx.toNat c)
    (k.setRow o.pd o.idx.toNat (rowOf cs)).mark a.t (anyMarks cs))

/-! ### Transcendental functions (R149, R150) -/

def nanF32 : Conv := ⟨0x7FC00000, true, false⟩
def infF32 (neg : Bool) : W32 := if neg then 0xFF800000 else 0x7F800000
def zeroF32 (neg : Bool) : W32 := if neg then 0x80000000 else 0

/-- The value is a power of two: its exponent. -/
def powTwo (m : Nat) (e : Int) : Option Int := if m = 2 ^ Nat.log2 m then some (Nat.log2 m + e) else none

/-- ±2^k as FP32. -/
def twoTo (neg : Bool) (k : Int) : Conv := Fmt.fp32.rne (.fin neg 1 k)

def vexpOf (x : W32) : Conv :=
  let v := Fmt.fp32.toVal x
  match v with
  | .nan _ => nanF32
  | .inf neg => plain (if neg then 0 else infF32 false)
  | .fin neg m e =>
    let scaled := v.mul (Val.ofInt 10000000)
    if m = 0 then plain 0x3F800000
    else if (Val.ofInt 887228394).lt scaled then ⟨infF32 false, false, true⟩
    else if ((v.mul (Val.ofInt 1000000)).lt (Val.ofInt (-103972084))) then plain 0
    else ulps (Config.vexp x) (expEncl neg (fracOf m e).1 (fracOf m e).2) 2

def vlogOf (x : W32) : Conv :=
  match Fmt.fp32.toVal x with
  | .nan _ => nanF32
  | .inf neg => if neg then nanF32 else plain (infF32 false)
  | .fin neg m e =>
    if m = 0 then plain (infF32 true)
    else if neg then nanF32
    else if x = 0x3F800000 then plain 0
    else ulps (Config.vlog x) (lnEncl m e) 2

def vrcpOf (x : W32) : Conv :=
  match Fmt.fp32.toVal x with
  | .nan _ => nanF32
  | .inf neg => plain (zeroF32 neg)
  | .fin neg m e =>
    if m = 0 then ⟨infF32 neg, false, true⟩
    else match powTwo m e with
      | some k => twoTo neg (-k)
      | none =>
        let q := Encl.quot (fracOf m e).2 (fracOf m e).1
        ulps (Config.vrcp x) (if neg then ⟨-q.hi, -q.lo⟩ else q) 1

def vrsqOf (x : W32) : Conv :=
  match Fmt.fp32.toVal x with
  | .nan _ => nanF32
  | .inf neg => if neg then nanF32 else plain 0
  | .fin neg m e =>
    if m = 0 then ⟨infF32 neg, false, true⟩
    else if neg then nanF32
    else
      let y := ulps (Config.vrsq x) (rsqEncl (fracOf m e).1 (fracOf m e).2) 2
      match powTwo m e with
      | some k => if k % 2 = 0 then twoTo false (-(k / 2)) else y
      | none => y

/-- A function of FP32 on an element of a floating format: widened, and rounded back with RNE. -/
def transElem (f : Fmt) (g : W32 → Conv) (b : W32) : Conv :=
  if f = .fp32 then g b
  else
    let x := g (Fmt.fp32.rne (f.toVal b)).bits
    let y := f.rne (Fmt.fp32.toVal x.bits)
    ⟨y.bits, x.nan || y.nan, x.ovf || y.ovf⟩

def opTrans (o : LayV) (g : W32 → Conv) : At → State → Issued := opElem o fun a _ _ => transElem (fmtV o) g a

/-! ### Online softmax (R151-R154) -/

def f32 (b : W32) : Val := Fmt.fp32.toVal b

/-- One row of VMAX.run: the new maximum and the correction. -/
def maxRunRow (mo : W32) (xs : List W32) : Conv × Conv :=
  let mn := Fmt.fp32.rne ((xs.map f32).foldl Val.max (f32 mo))
  if mn.nan then (mn, nanF32)
  else if (f32 mo).eq (f32 mn.bits) then (mn, plain 0x3F800000)
  else
    let d := Fmt.fp32.rne ((f32 mo).add (f32 mn.bits).negate)
    let y := vexpOf d.bits
    (mn, ⟨y.bits, d.nan || y.nan, d.ovf || y.ovf⟩)

/-- VMAX.run: pd is pr, pa is ps. -/
def opVmaxRun (o : LayV) (a : At) (s : State) : Issued :=
  let vl := s.vlOf a
  .done (s.modCore a.c fun k =>
    let xs := (List.range 64).map fun r =>
      (k.plateWord o.pd r 0, maxRunRow (k.plateWord o.pd r 0) (((k.plateRow o.pa r).toList).take vl))
    let k' := k.setPlate o.pd fun r =>
      match xs[r]? with
      | some (mo, mn, al) => (((k.plateRow o.pd r).set 3 mo).set 0 mn.bits).set 2 al.bits
      | none => k.plateRow o.pd r
    k'.mark a.t ((anyMarks (xs.map fun x => x.2.1)).or (anyMarks (xs.map fun x => x.2.2))))

/-- One element of VEXP.sub. -/
def expSub (x m : W32) : Conv :=
  if x = 0xFF800000 then plain 0
  else if (f32 x).eq (f32 m) then plain 0x3F800000
  else
    let d := Fmt.fp32.rne ((f32 x).add (f32 m).negate)
    let y := vexpOf d.bits
    ⟨y.bits, d.nan || y.nan, d.ovf || y.ovf⟩

/-- VEXP.sub: pa is ps, pb is pr; pr[r][1] is written after the elements of pd. -/
def opVexpSub (o : LayV) (a : At) (s : State) : Issued :=
  let vl := s.vlOf a
  .done (s.modCore a.c fun k =>
    let g := gridOf k o.pd vl fun r c => expSub (k.plateWord o.pa r c) (k.plateWord o.pb r 0)
    let ls := (List.range 64).map fun r =>
      Fmt.fp32.rne (Val.sum (((f32 (k.plateWord o.pb r 1)).mul (f32 (k.plateWord o.pb r 2))) ::
        (((g.getD r []).take vl).map fun x => f32 x.bits)))
    let k := k.writeGrid o.pd g
    (k.setPlate o.pb fun r => (k.plateRow o.pb r).set 1 (ls.getD r (plain 0)).bits).mark a.t
      ((anyMarks g.flatten).or (anyMarks ls)))

/-- VSCALE.run: pb is pr. -/
def opVscaleRun (o : LayV) (a : At) (s : State) : Issued :=
  .done (s.modCore a.c fun k => k.mapPlate a.t o.pd (s.vlOf a) fun r c =>
    Fmt.fp32.rne ((f32 (k.plateWord o.pd r c)).mul (f32 (k.plateWord o.pb r 2))))

/-- One row of VLSE. -/
def lseRow (m l : W32) : Conv :=
  let y := vlogOf l
  let z := Fmt.fp32.rne ((f32 m).add (f32 y.bits))
  ⟨z.bits, y.nan || z.nan, y.ovf || z.ovf⟩

/-- VLSE: column 0 only. -/
def opVlse (o : LayV) (a : At) (s : State) : Issued :=
  .done (s.modCore a.c fun k => k.mapPlate a.t o.pd 1 fun r _ =>
    lseRow (k.plateWord o.pb r 0) (k.plateWord o.pb r 1))

/-! ### Permutations (R155, R156) -/

/-- The elements of a permutation and whether an index is out of range. -/
def permute (k : Core) (o : LayV) (vl : Nat) (src : Nat → Fin 64 → Int → Option W32) : Core × Bool :=
  let pick (r : Nat) (c : Fin 64) : Option W32 := src r c (signedOf 32 (k.plateWord o.pb r c).toNat)
  let bad := (List.range 64).any fun r => (List.finRange 64).any fun c => decide (c.val < vl) && (pick r c).isNone
  (k.writeGrid o.pd (gridOf k o.pd vl fun r c => plain ((pick r c).getD 0)), bad)

def opPerm (o : LayV) (src : Core → Nat → Nat → Fin 64 → Int → Option W32) (a : At) (s : State) : Issued :=
  let vl := s.vlOf a
  .done (s.modCore a.c fun k =>
    let (k', bad) := permute k o vl (src k vl)
    k'.mark a.t ⟨false, false, bad⟩)

/-! ### Generators (R161-R169, R234) -/

/-- The seeds of the selected generators (R164). -/
def Core.reseed (k : Core) (seed : Word) (key : BitVec 16) (sel : BitVec 2) : Core :=
  { k with gens := Vector.ofFn fun g =>
      if (sel.getLsbD 0 && decide (g.val < 128)) || (sel.getLsbD 1 && decide (g.val ≥ 128)) then Gen.seeded seed key g.val
      else k.gens[g] }

def opRseed (o : RseedOps) (a : At) (s : State) : Issued :=
  .done (s.modCore a.c fun k => k.reseed (s.rx a o.rs) o.key o.sel)

/-- RSEED: with columns selected it waits for an idle quad, and later tiles wait behind it (R168). -/
def execRseed (p : Site) (o : RseedOps) (s : State) : Out :=
  issue p (.rseed p o) s fun a s =>
    if o.sel.getLsbD 1 && !(s.core a.c).quadIdle then .stall s (.quadIdle true)
    else withPlates (.rseed p o) none [] (opRseed o) a s

/-- The 6,144 bytes of the generators (R165). -/
def genBytes (k : Core) : List Byte :=
  k.gens.toList.flatMap fun g => leBytes 4 g.a.toNat ++ leBytes 4 g.b.toNat ++ leBytes 4 g.c.toNat ++ leBytes 4 g.d.toNat

/-- A state as loaded or written: all zero takes d = 1 (R165, R169). -/
def Gen.fix (g : Gen) : Gen := if g.a = 0 ∧ g.b = 0 ∧ g.c = 0 ∧ g.d = 0 then { g with d := 1 } else g

/-- The generators of an image. -/
def gensOf (bs : List Byte) : Vector Gen 384 :=
  let ws := unpackElems .int32 1536 bs
  Vector.ofFn fun g => Gen.fix ⟨ws.getD (4 * g.val) 0, ws.getD (4 * g.val + 1) 0, ws.getD (4 * g.val + 2) 0,
    ws.getD (4 * g.val + 3) 0⟩

/-- The image's address: bits [3:0] are ignored (R234). -/
def genDva (s : State) (a : At) (ra : BitVec 5) : Nat := (addr48 (s.rx a ra)).toNat / 16 * 16

/-- RSAVE and RLOAD wait for the vector engine and the quad. -/
def genWait (body : At → State → Issued) (a : At) (s : State) : Issued :=
  if (s.core a.c).quadIdle && !(s.core a.c).vecHeld then body a s else .stall s (.quadIdle false)

def execRsave (p : Site) (ra : BitVec 5) (s : State) : Out :=
  issue p (.rsave p ra) s (genWait fun a s =>
    match s.storeBytes a.c a.t a.seqNo .vec (genDva s a ra) (genBytes (s.core a.c)) with
    | (s, .ok _) => .done s
    | (s, .error (.xlate d)) => s.vecFault a .storeXlate 0 0 0 d
    | (s, .error (.right d)) => s.vecFault a .storeXlate 0 0 0 d
    | (s, .error _) => .stall s .full)

def execRload (p : Site) (ra : BitVec 5) (u : Upset) (s : State) : Out :=
  issue p (.rload p ra u) s (genWait fun a s =>
    match s.loadBytes a.c a.t none (genDva s a ra) 6144 u with
    | (s, .ok bs) => .done (s.modCore a.c fun k => { k with gens := gensOf bs })
    | (s, .error (.xlate d)) => s.vecFault a .loadXlate 0 0 0 d
    | (s, .error (.right d)) => s.vecFault a .loadXlate 0 0 0 d
    | (s, .error (.poison d)) => s.vecFault a .poisonLoad 0 0 0 d
    | (s, .error .withheld) => .stall s .full)

/-- VRAND: every position of 64 rows draws; word columns below vl take the draws (R162). -/
def opRand (o : LayV) (g : W32 → W32) (a : At) (s : State) : Issued :=
  .done (s.modCore a.c fun k =>
    let (us, k) := k.plateDraws true false
    k.mapPlate a.t o.pd (s.vlOf a) fun r c => plain (g (((us.getD r []).getD c.val (0, 0)).1)))

/-- A genlo write is held for the next genhi write (R169). -/
def Core.writeGenlo (k : Core) (g : Fin 384) (v : Word) : Core :=
  { k with genHeld := (g.val, v) :: k.genHeld.filter fun x => x.1 != g.val }

/-- `core.vx.status` IDLE: the vector engine holds nothing (R169). -/
def Core.vecIdle (k : Core) : Bool := !k.vecHeld

/-- A genhi write installs the four words where the engines that draw are idle (R168, R169). -/
def Core.writeGenhi (k : Core) (g : Fin 384) (v : Word) : Core :=
  let lo := match k.genHeld.find? fun x => x.1 == g.val with
    | some x => x.2
    | none => ((k.gens[g]).b.setWidth 64 <<< 32) ||| (k.gens[g]).a.setWidth 64
  let k := { k with genHeld := k.genHeld.filter fun x => x.1 != g.val }
  if k.vecIdle && (decide (g.val < 128) || k.quadIdle) then
    { k with gens := k.gens.set g (Gen.fix ⟨lo.setWidth 32, (lo >>> 32).setWidth 32, v.setWidth 32,
        (v >>> 32).setWidth 32⟩) }
  else { k with genBusy := true }

def execGenloWrite (m : RegMaster) (c : Fin 96) (g : Fin 384) (v : Word) (s : State) : Out :=
  guard (s.busOpen m) "no register path" (s.modCore c fun k => k.writeGenlo g v)
def execGenhiWrite (m : RegMaster) (c : Fin 96) (g : Fin 384) (v : Word) (s : State) : Out :=
  guard (s.busOpen m) "no register path" (s.modCore c fun k => k.writeGenhi g v)

/-! ### The instructions that name plates (R140, R177) -/

/-- The plates an instruction names. -/
def vecPlates : Instr → List (BitVec 4)
  | .vadd _ o | .vsub _ o | .vmul _ o | .vmax _ o | .vmin _ o | .vcmp _ o | .vand _ o | .vor _ o
  | .vxor _ o | .vexpSub _ o | .vpermRow _ o | .vpermCol _ o => [o.pd, o.pa, o.pb]
  | .vfma _ o | .vsel _ o => [o.pd, o.pa, o.pb, o.pc]
  | .vabs _ o | .vneg _ o | .vnot _ o | .vshl _ o | .vshr _ o | .vsra _ o | .vmov _ o | .vcvt _ o
  | .vredRow _ o | .vredCol _ o | .vexp _ o | .vlog _ o | .vrcp _ o | .vrsq _ o | .vmaxRun _ o => [o.pd, o.pa]
  | .vsplat _ o | .vget _ o => [o.p]
  | .vld _ o _ | .vst _ o | .vstMx _ o => [o.pd]
  | .vrandU32 _ o | .vrandF32 _ o => [o.pd]
  | .vscaleRun _ o | .vlse _ o => [o.pd, o.pb]
  | .vtake _ o => [o.pd]
  | _ => []

/-- What an instruction of the engine's queue does when it is reached; any other does nothing there. -/
def vecBody : Instr → At → State → Issued
  | .vadd _ o => opElem o (arith (fmtV o) (fun a b _ => a.add b) fun a b => a + b)
  | .vsub _ o => opElem o (arith (fmtV o) (fun a b _ => a.add b.negate) fun a b => a - b)
  | .vmul _ o => opElem o (arith (fmtV o) (fun a b _ => a.mul b) fun a b => a * b)
  -- VFMA: floating formats only; one rounding of the exact a × b + c.
  | .vfma _ o => opElem o (arith (fmtV o) (fun a b c => (a.mul b).add c) fun a b => a * b)
  | .vmax _ o => opElem o (arith (fmtV o) (fun a b _ => a.max b) fun a b => Max.max a b)
  | .vmin _ o => opElem o (arith (fmtV o) (fun a b _ => a.min b) fun a b => Min.min a b)
  | .vabs _ o => opElem o (arith (fmtV o) (fun a _ _ => a.abs) fun a _ => (a.natAbs : Int))
  | .vneg _ o => opElem o (arith (fmtV o) (fun a _ _ => a.negate) fun a _ => -a)
  | .vcmp _ o =>
    opElem o fun a b _ =>
    ⟨if compare o.sub ((fmtV o).toVal a) ((fmtV o).toVal b) then onesOf (fmtV o) else 0, false, false⟩
  -- VSEL: a mask element is non-zero where any of its bits is set.
  | .vsel _ o => opElem o fun a b m => ⟨if m ≠ 0 then a else b, false, false⟩
  | .vand _ o => opElem o fun a b _ => plain (a &&& b)
  | .vor _ o => opElem o fun a b _ => plain (a ||| b)
  | .vxor _ o => opElem o fun a b _ => plain (a ^^^ b)
  | .vnot _ o => opElem o fun a _ _ => plain (~~~a)
  | .vshl _ o => opElem o fun a _ _ => plain (a <<< o.idx.toNat)
  | .vshr _ o => opElem o fun a _ _ => plain (a >>> o.idx.toNat)
  | .vsra _ o =>
    opElem o fun a _ _ =>
    plain (if (fmtV o).packed then (((a.setWidth 16).sshiftRight o.idx.toNat).setWidth 32) else a.sshiftRight o.idx.toNat)
  | .vsplat _ o => opVsplat o
  | .vget _ o => opVget o
  | .vmov _ o => opVmov o
  | .vcvt _ o => opVcvt o
  | .vld _ o u => opVld o u
  | .vst _ o => opVst o
  | .vstMx _ o => opVstMx o
  | .vredRow _ o => opVredRow o
  | .vredCol _ o => opVredCol o
  | .vexp _ o => opTrans o vexpOf
  | .vlog _ o => opTrans o vlogOf
  | .vrcp _ o => opTrans o vrcpOf
  | .vrsq _ o => opTrans o vrsqOf
  | .vmaxRun _ o => opVmaxRun o
  | .vexpSub _ o => opVexpSub o
  | .vscaleRun _ o => opVscaleRun o
  | .vlse _ o => opVlse o
  | .vpermRow _ o =>
    opPerm o fun k vl r _ j =>
    if 0 ≤ j ∧ j < vl then some (k.plateWord o.pa r (Fin.ofNat 64 j.toNat)) else none
  | .vpermCol _ o =>
    opPerm o fun k _ _ c i =>
    if 0 ≤ i ∧ i ≤ 63 then some (k.plateWord o.pa i.toNat c) else none
  | .rseed _ o => opRseed o
  | .vrandU32 _ o => opRand o id
  | .vrandF32 _ o => opRand o fun w => (Fmt.fp32.rne (.fin false (unitBits w) (-24))).bits
  | _ => fun _ s => .done s

/-- Issue of an instruction that names plates. -/
def issueVec (p : Site) (i : Instr) (s : State) : Out := issue p i s (withPlates i none (vecPlates i) (vecBody i))

def execVadd (p : Site) (o : LayV) (s : State) : Out := issueVec p (.vadd p o) s
def execVsub (p : Site) (o : LayV) (s : State) : Out := issueVec p (.vsub p o) s
def execVmul (p : Site) (o : LayV) (s : State) : Out := issueVec p (.vmul p o) s
def execVfma (p : Site) (o : LayV) (s : State) : Out := issueVec p (.vfma p o) s
def execVmax (p : Site) (o : LayV) (s : State) : Out := issueVec p (.vmax p o) s
def execVmin (p : Site) (o : LayV) (s : State) : Out := issueVec p (.vmin p o) s
def execVabs (p : Site) (o : LayV) (s : State) : Out := issueVec p (.vabs p o) s
def execVneg (p : Site) (o : LayV) (s : State) : Out := issueVec p (.vneg p o) s
def execVcmp (p : Site) (o : LayV) (s : State) : Out := issueVec p (.vcmp p o) s
def execVsel (p : Site) (o : LayV) (s : State) : Out := issueVec p (.vsel p o) s
def execVand (p : Site) (o : LayV) (s : State) : Out := issueVec p (.vand p o) s
def execVor (p : Site) (o : LayV) (s : State) : Out := issueVec p (.vor p o) s
def execVxor (p : Site) (o : LayV) (s : State) : Out := issueVec p (.vxor p o) s
def execVnot (p : Site) (o : LayV) (s : State) : Out := issueVec p (.vnot p o) s
def execVshl (p : Site) (o : LayV) (s : State) : Out := issueVec p (.vshl p o) s
def execVshr (p : Site) (o : LayV) (s : State) : Out := issueVec p (.vshr p o) s
def execVsra (p : Site) (o : LayV) (s : State) : Out := issueVec p (.vsra p o) s
def execVsplat (p : Site) (o : LayVS) (s : State) : Out := issueVec p (.vsplat p o) s
def execVget (p : Site) (o : LayVS) (s : State) : Out := issueVec p (.vget p o) s
def execVmov (p : Site) (o : LayV) (s : State) : Out := issueVec p (.vmov p o) s
def execVcvt (p : Site) (o : LayV) (s : State) : Out := issueVec p (.vcvt p o) s
def execVld (p : Site) (o : LayVM) (u : Upset) (s : State) : Out := issueVec p (.vld p o u) s
def execVst (p : Site) (o : LayVM) (s : State) : Out := issueVec p (.vst p o) s
def execVstMx (p : Site) (o : LayVM) (s : State) : Out := issueVec p (.vstMx p o) s
def execVredRow (p : Site) (o : LayV) (s : State) : Out := issueVec p (.vredRow p o) s
def execVredCol (p : Site) (o : LayV) (s : State) : Out := issueVec p (.vredCol p o) s
def execVexp (p : Site) (o : LayV) (s : State) : Out := issueVec p (.vexp p o) s
def execVlog (p : Site) (o : LayV) (s : State) : Out := issueVec p (.vlog p o) s
def execVrcp (p : Site) (o : LayV) (s : State) : Out := issueVec p (.vrcp p o) s
def execVrsq (p : Site) (o : LayV) (s : State) : Out := issueVec p (.vrsq p o) s
def execVmaxRun (p : Site) (o : LayV) (s : State) : Out := issueVec p (.vmaxRun p o) s
def execVexpSub (p : Site) (o : LayV) (s : State) : Out := issueVec p (.vexpSub p o) s
def execVscaleRun (p : Site) (o : LayV) (s : State) : Out := issueVec p (.vscaleRun p o) s
def execVlse (p : Site) (o : LayV) (s : State) : Out := issueVec p (.vlse p o) s
def execVpermRow (p : Site) (o : LayV) (s : State) : Out := issueVec p (.vpermRow p o) s
def execVpermCol (p : Site) (o : LayV) (s : State) : Out := issueVec p (.vpermCol p o) s
def execVrandU32 (p : Site) (o : LayV) (s : State) : Out := issueVec p (.vrandU32 p o) s
def execVrandF32 (p : Site) (o : LayV) (s : State) : Out := issueVec p (.vrandF32 p o) s

end Sys2Proof.Machine
end

