-- ==== Sys2Proof/Machine/Stacks.lean ====
section
/-! DEFINITION. The stack controllers: reads and writes at the DRAM, patrol, repair, rebuild, fill and map clear
(R268-R293, R308-R313). -/
namespace Sys2Proof.Machine

/-- A stack's controller works: the module runs, the stacks are clocked, a boot key is loaded, no halt has arrived (R33,
R296, R297, R306). -/
def State.stackOn (s : State) (k : Fin 16) : Bool :=
  s.on && s.live && s.glob.stackRun && s.mem.keyValid && !(s.mem.stk[k]).selfRefresh

def State.modStk (s : State) (k : Fin 16) (f : Stack → Stack) : State := s.modMem fun m => m.modStk k f

/-- The class a master's access carries: none for the walker and the controller's own service (R310, R313). -/
def carried (m : Master) (owner : BitVec 4) : Option (BitVec 4) :=
  match m with
  | .walker => none
  | .service => none
  | .curator => some 0
  | .catalogue => some 0
  | _ => some owner

/-! ### Reads and writes (R276, R308, R309) -/

/-- A reserved line that holds the written map: 98,304 lines of a stack hold its share, from the first reserved line of
group 0 on (log entry 22). -/
def mapLine (g : Fin 16) (k : Nat) : Bool := decide (k ≥ reservedK) && decide (g.val * 8192 + (k - reservedK) < 98304)

/-- A controller reads a line of its written map, as a map miss needs (R288): decoded, counted and rewritten as every
line, and a line delivered with a tag that fails starts a halt (R305). What a poisoned map line says of its bits is not
stated: they stay (log entry 22). -/
def Mem.mapRead (m : Mem) (a : Nat) (e : BurstErr) (tick : Word) : Mem :=
  let s := stackOfA a
  let g : Fin 16 := Fin.ofNat 16 ((a - 2 ^ 40) / 8192)
  let (m, d) := m.decodeLine .service s g (reservedK + (a - 2 ^ 40) % 8192) e tick
  if d.uncorr then m.poisonLine a e
  else if d.poison || d.tagOk then m
  else m.tagHalt s .service false a tick

/-- The address value that the operand of STACK_LINE_READ names: a memory line, or from `memLines` on a reserved line. -/
def operandA (l : Nat) : Nat := if l < memLines then l else 2 ^ 40 + (l - memLines)

/-- STACK_LINE_READ: the checks of R276 on a written line that its slice does not hold. A service read decodes the line
and delivers nothing (R313); of the reserved lines it reads those of the written map (R288). -/
def execStackLineRead (m : Master) (line : BitVec 40) (owner : BitVec 4) (e : BurstErr) (s : State) : Out :=
  let l := line.toNat
  let a := operandA l
  if l < memLines then
    guard (s.stackOn (lineStack l) && (s.mem.sliceFind l).isNone && (s.mem.side1 l).written)
      "the line is not read from DRAM"
      (if !s.mem.reaches m false l then s.hole
       else if m = .service then
         s.modMem fun x =>
           let (x, d) := x.decodeLine .service (lineStack l) (lineGroup l) (lineK l) e s.tick
           if d.uncorr then x.poisonLine l e else x
       else s.modMem fun x => ((x.settle l noErr s.tick).dramRead m l (carried m owner) e s.tick).1)
  else
    guard (m == .service && decide (l < memLines + 2097152) && s.stackOn (stackOfA a) &&
        mapLine (Fin.ofNat 16 ((a - 2 ^ 40) / 8192)) (reservedK + (a - 2 ^ 40) % 8192))
      "the line holds no written map" (s.modMem fun x => x.mapRead a e s.tick)

/-- STACK_LINE_WRITE: a full-line write. The walker and the service masters make none of these. -/
def execStackLineWrite (m : Master) (line : BitVec 40) (owner : BitVec 4) (data : Line) (e : BurstErr) (s : State) : Out :=
  let l := line.toNat
  guard (decide (l < memLines) && s.stackOn (lineStack l) && (carried m owner).isSome) "no full-line write arrives"
    (if s.mem.reaches m true l then
       s.modMem fun x => x.fullWrite m l ((carried m owner).getD 0) data e s.tick
     else s.hole)

/-- PARTIAL_WRITE_MERGE: the read for the partial writes that wait on a line returns. -/
def execPartialWriteMerge (line : BitVec 40) (e : BurstErr) (s : State) : Out :=
  let l := line.toNat
  guard (s.stackOn (lineStack l) && s.mem.parts.any fun p => p.line == line) "no partial write waits"
    (s.modMem fun m => m.settle l e s.tick)

/-! ### Patrol (R284, R285) -/

/-- The next place of the patrol: groups at each K, K ascending; at the end a pass is complete and the counts of rows
start anew, but for rows whose repair waits for room in the repair queue (R292). -/
def Stack.advance (st : Stack) : Stack :=
  if st.posGroup ≠ 15 then { st with posGroup := st.posGroup + 1 }
  else if st.posK.toNat + 1 < groupLines then { st with posGroup := 0, posK := st.posK + 1 }
  else { st with posGroup := 0, posK := 0, passes := st.passes + 1, rowErrs := st.rowErrs.filter fun r => decide (r.2 ≥ st.rowThr.toNat) }

/-- What a patrol read does with an uncorrectable line. -/
def Mem.patrolBad (m : Mem) (g : Fin 16) (k a : Nat) (e : BurstErr) : Mem :=
  let fill := if k < reservedK then !(m.side1 a).written else !mapLine g k
  if fill then m.setMeta a LineMeta.fresh else m.poisonLine a e

/-- A corrected line is written back with the corrected symbols: what a miscorrection leaves wrong stays in it (R285). -/
def Mem.scrub (m : Mem) (a : Nat) (d : Decoded) : Mem := if d.fixed then m.setMeta a d.seen else m

/-- PATROL_READ. -/
def execPatrolRead (stack : Fin 16) (e : BurstErr) (s : State) : Out :=
  let st := s.mem.stk[stack]
  guard (s.stackOn stack && st.trained && !st.filling && st.consEn) "the patrol does not run"
    (s.modMem fun m =>
      let g : Fin 16 := st.posGroup.toFin
      let k := st.posK.toNat
      let (m, d) := m.decodeLine .patrol stack g k e s.tick
      let a := addrValue stack g k
      let m := if d.uncorr then m.patrolBad g k a e else m.scrub a d
      m.modStk stack Stack.advance)

/-! ### Row sparing and rebuild (R281-R283, R286) -/

/-- The spare rows of a bank still free. -/
def bankLeft (s : Fin 16) (st : Stack) (key : Nat) : List Nat :=
  (List.range 8).filter fun i => (Config.bankFree s key).getLsbD i && !(Tbl.get 0 st.bankTaken key).testBit i

def bankKey (die ch bank : Nat) : Nat := (die * 16 + ch) * 32 + bank

/-- Take spare row i of a bank for a row, with its repair entry where the repair is new. -/
def Stack.takeRow (st : Stack) (die ch bank row i left : Nat) (queue : Bool) : Stack :=
  let key := bankKey die ch bank
  { st with
    bankTaken := Tbl.modify 0 st.bankTaken key fun x => x ||| 2 ^ i
    spareLeft := st.spareLeft - 1
    minBank := BitVec.ofNat 8 (Min.min st.minBank.toNat (left - 1))
    dieSpared := Tbl.modify 0 st.dieSpared die (· + 1)
    rowMap := Tbl.put st.rowMap (rowKey die ch bank row) i
    rowErrs := Tbl.erase st.rowErrs (rowKey die ch bank row)
    repairQ := if queue then st.repairQ ++ [repairEntry 1 die ch bank row i] else st.repairQ }

/-- The line slots of a row are read and decoded while it is copied; a line that cannot be is poisoned (R282). -/
def Mem.copyRow (m : Mem) (s g : Fin 16) (bank row : Nat) (errs : List (BitVec 5 × BurstErr)) (tick : Word) : Mem :=
  (List.range 32).foldl (fun m i =>
    let k := row * 1024 + bank * 32 + i
    let e := ((errs.find? fun x => x.1.toNat = i).map Prod.snd).getD noErr
    let (m, d) := m.decodeLine .service s g k e tick
    if d.uncorr then m.poisonLine (addrValue s g k) e else m) m

/-- The group a die's channel belongs to (R271). -/
def groupOf (die ch : Nat) : Fin 16 := Fin.ofNat 16 (die + 16 - ch)

/-- ROW_SPARE, with what the reads of its line slots meet: a row with ROWTHR corrections takes a free spare row of its bank, which one the part decides (a free
value); with none free its die is retired. The repair has its place in the repair queue before the copy, in which a
die may fall due (R283). -/
def execRowSpare (stack : Fin 16) (die channel : BitVec 4) (bank : BitVec 5) (row : BitVec 14)
    (errs : List (BitVec 5 × BurstErr)) (s : State) : Out :=
  let st := s.mem.stk[stack]
  let d := die.toNat
  let c := channel.toNat
  guard (s.stackOn stack && decide (c ≤ 11) && decide (row.toNat < 12296) && !st.retired.getLsbD d &&
      decide (st.repairQ.length < 16) &&
      decide (Tbl.get 0 st.rowErrs (rowKey d c bank.toNat row.toNat) ≥ st.rowThr.toNat))
    "no row needs sparing"
    (match bankLeft stack st (bankKey d c bank.toNat) with
     | [] => s.modStk stack fun st => st.retireDie d true true
     | x :: xs =>
       let (w, s) := s.draw32
       let i := (x :: xs).getD (w.toNat % (xs.length + 1)) x
       s.modMem fun m =>
         let m := m.modStk stack fun st => st.takeRow d c bank.toNat row.toNat i (xs.length + 1) true
         (m.copyRow stack (groupOf d c) bank.toNat row.toNat errs s.tick).modStk stack fun st =>
           Stack.conserve { st with rowErrs := Tbl.erase st.rowErrs (rowKey d c bank.toNat row.toNat) } s.tick)

/-- REBUILD_STEP: one line's erased position goes to the spare. -/
def execRebuildStep (stack group : Fin 16) (e : BurstErr) (s : State) : Out :=
  match (s.mem.stk[stack]).rebuild.find? fun r => r.1 == group.val with
  | none => .refused (.notEnabled "the group does not rebuild")
  | some (_, k) =>
    guard (s.stackOn stack) "the stack does not run"
      (s.modMem fun m =>
        let (m, d) := m.decodeLine .service stack group k e s.tick
        let m := if d.uncorr then m.poisonLine (addrValue stack group k) e else m
        m.modStk stack fun st => { st with
          rebuild := if k + 1 ≥ groupLines then st.rebuild.filter fun r => r.1 != group.val
            else st.rebuild.map fun r => if r.1 = group.val then (r.1, k + 1) else r })

/-! ### Register commands of a controller (R286, R287, R289, R283) -/

/-- ACTION RETIRE: rejected for a retired die; with the repair queue full it waits (R283, R292). -/
def State.retireDieOp (s : State) (k : Fin 16) (d : BitVec 4) : State :=
  s.modStk k fun st =>
    if st.retired.getLsbD d.toNat then { st with cmdReject := true }
    else Stack.conserve { st with wantRetire := st.wantRetire ||| (1#16 <<< d.toNat) } s.tick

/-- No transfer of DMA, fabric, vault or transit is in flight. -/
def State.noTransfers (s : State) : Bool :=
  (s.cores.toList.all fun k => k.dmaQ.isEmpty) && s.fab.reqs.isEmpty && s.vault.jobs.isEmpty && s.vault.drain.isNone &&
    (s.tr.exch.all fun x => x.phase == .finished) && s.tr.pull.isNone && (s.fab.qps.all fun q => q.2.out.isEmpty)

/-- ACTION FILL: only under a current key, with every core GATED or RETIRED and no transfer in flight (R287, R297). -/
def State.fillOp (s : State) (k : Fin 16) : State :=
  if s.mem.keyValid && (s.cores.toList.all fun c => c.mode == .gated || c.mode == .retired) && s.noTransfers then
    s.modStk k fun st => { st with filling := true }
  else s.modStk k fun st => { st with cmdReject := true }

/-- PAGE and GO of `stack.map.clear`. -/
def State.mapClearOp (s : State) (k : Fin 16) (page : BitVec 27) : State :=
  (s.modMem fun m => m.mapClear k page.toNat).modStk k fun st => { st with mapBusy := true }

/-- The curator writes a repair queue head to the repair records, once; with the records full it is not written (R283,
R512). -/
def State.recordHead (s : State) (k : Fin 16) : State :=
  match (s.mem.stk[k]).repairQ with
  | w :: _ =>
    if (s.mem.stk[k]).repRecorded then s
    else if s.alm.repair.length ≥ 131072 then s.addRepair k.val 0 w
    else (s.addRepair k.val (nfld w 61 2) w).modStk k fun st => { st with repRecorded := true }
  | [] => s

/-- VALID written 1 in `stack.rep.next`: the head goes, and a repair that waited for room is made. The curator first
writes the head to the repair records, and removes none once they are full (R283, R512). -/
def State.repairPop (s : State) (m : RegMaster) (k : Fin 16) : State :=
  let pop (s : State) : State :=
    s.modStk k fun st => Stack.conserve { st with repairQ := st.repairQ.tail, repRecorded := false } s.tick
  match m, (s.mem.stk[k]).repairQ with
  | .curator, _ :: _ =>
    let s := s.recordHead k
    if (s.mem.stk[k]).repRecorded then pop s else s
  | _, _ => pop s

def execStackRetire (m : RegMaster) (stack : Fin 16) (die : BitVec 4) (s : State) : Out :=
  guard (s.busOpen m) "no register path" (s.retireDieOp stack die)
def execStackFill (m : RegMaster) (stack : Fin 16) (s : State) : Out :=
  guard (s.busOpen m) "no register path" (s.fillOp stack)
def execMapClear (m : RegMaster) (stack : Fin 16) (page : BitVec 27) (s : State) : Out :=
  guard (s.busOpen m) "no register path" (s.mapClearOp stack page)
def execRepairQueuePop (m : RegMaster) (stack : Fin 16) (s : State) : Out :=
  guard (s.busOpen m) "no register path" (s.repairPop m stack)

/-- FILL_COMPLETE: every line of the stack is a fill line and the written map is clear. A halt stops the fill (R315). -/
def execFillComplete (stack : Fin 16) (s : State) : Out :=
  guard (s.stackOn stack && (s.mem.stk[stack]).filling) "no fill runs"
    ((s.modMem fun m => m.fillStack stack).modStk stack fun st => { st with filling := false })

def execMapClearDone (stack : Fin 16) (s : State) : Out :=
  guard (s.stackOn stack && (s.mem.stk[stack]).mapBusy) "no map clear runs"
    (s.modStk stack fun st => { st with mapBusy := false })

/-- STACK_TEMP_CHANGE (R291): above 85 °C the refresh interval halves, above 95 °C THERM is set. -/
def execStackTempChange (stack : Fin 16) (temp : Int) (s : State) : Out :=
  guard (s.on && s.glob.stackRun) "the stack controllers do not run"
    (s.modStk stack fun st => { st with temp := temp, refreshHalved := decide (temp > 85), therm := st.therm || decide (temp > 95) })

end Sys2Proof.Machine
end

