-- ==== Sys2Proof/Machine/Halt.lean ====
section
/-! DEFINITION. The device halt and the crypto control register (R305-R307, R311, R315, R316). -/
namespace Sys2Proof.Machine

/-- ZEROIZE starts a halt; one that runs keeps its cause, and KEY_FAIL is left by a reset only (R297, R315). -/
def State.zeroizeOp (s : State) : State :=
  if s.mem.haltStage ≠ 0 ∨ s.mem.haltCause = 3#8 then s
  else s.modMem fun m => { m with haltStage := 1, haltCause := 2, haltTick := s.tick }

/-- LOCK freezes the curator windows. -/
def State.lockOp (s : State) : State := s.modMem fun m => { m with lock := true }

/-- `crypt.ctl` takes writes of the curator only. -/
def curatorOnly (m : RegMaster) (f : State → State) (s : State) : State :=
  match m with
  | .curator => f s
  | .host => s.hole

def execZeroize (m : RegMaster) (s : State) : Out :=
  guard (s.busOpen m) "no register path" (curatorOnly m State.zeroizeOp s)
def execCuratorWindowLock (m : RegMaster) (s : State) : Out :=
  guard (s.busOpen m) "no register path" (curatorOnly m State.lockOp s)

/-- A halt stands at a stage and the next follows. -/
def haltStep (n : Nat) (f : State → State) (s : State) : Out :=
  guard (s.on && s.mem.haltStage == n) "the halt is not there"
    ((f s).modMem fun m => { m with haltStage := n + 1 })

/-- HALT_PROPAGATE: no block starts further work; partial writes that wait for their reads are not performed (R315). -/
def execHaltPropagate (s : State) : Out := haltStep 1 (fun s => s.modMem fun m => { m with parts := [] }) s

/-- What is lost with the boot key: sessions and queue pairs (R393), all transit state (R425), the vault (R448), tenant
sessions, keys and the ML-KEM pair (R500). No fence is signalled. -/
def State.loseKeys (s : State) : State :=
  let s := s.modFab fun f => { f with sess := [], qps := [], reqs := [] }
  let s := { s with tr := Transit.reset }
  let s := s.modVault fun v => { v with
    key0 := none, key1 := none, jobs := [], drain := none, gens := Vector.replicate 2 Gener.empty }
  s.modReg fun r => { r with
    tenants := [], opened := none, kemReady := false
    ctxs := r.ctxs.map fun e => (e.1, { e.2 with bound := [], ownerKeys := [], pend := [] }) }

/-- HALT_KEY_ZERO. -/
def execHaltKeyZero (s : State) : Out :=
  haltStep 2 (fun s => s.loseKeys.modMem fun m => { m with keyValid := false }) s

/-- HALT_FAULT_PIN: MOD_FAULT_N is driven low. -/
def execHaltFaultPin (s : State) : Out := haltStep 3 (fun s => s.modSup fun u => { u with faultLow := true }) s

/-- Every link goes down (R387): a port that had one shows LINK_DROP, a plane that had an UP path is DOWN and sets FAILOVER, and
what waited to be sent is lost. -/
def State.linksDown (s : State) : State :=
  let up (f : Fabric) (n : Nat) : Bool := (f.paths[Fin.ofNat 16 n]).mode != .down
  s.modFab fun f => { f with
    failover := f.failover || f.paths.toList.any fun p => p.mode == .up
    downA := f.downA || (f.paths.toList.take 8).any fun p => p.mode == .up
    downB := f.downB || (f.paths.toList.drop 8).any fun p => p.mode == .up
    heldTx := []
    paths := f.paths.map fun p => { p with mode := .down }
    ports := Vector.ofFn fun p : Fin 8 =>
      let x := f.ports[p]
      if up f (2 * p.val) || up f (2 * p.val + 1) then { x with linkDrop := true, anDone := false } else x }

/-- HALT_LINKS_DOWN. -/
def execHaltLinksDown (s : State) : Out := haltStep 4 State.linksDown s

/-- What HALT_CLEAR clears in a core: near store, plates, accumulators, handoff queue, instruction and translation
caches. -/
def Core.haltClear (k : Core) : Core :=
  { k.clearCaches with
    plates := [], handoff := [], wq := []
    arrs := k.arrs.map fun a => { a with acc := [] } }

/-- On-die storage is cleared and the stacks enter self-refresh; the fabric's buffers went with its sessions, queue pairs
and requests. -/
def State.clearOnDie (s : State) : State :=
  let s := ({ s with cores := s.cores.map Core.haltClear } : State).modFab fun f => { f with heldTx := [] }
  s.modMem fun m =>
    { m with slice := [], parts := [], halted := true, stk := m.stk.map fun (st : Stack) => { st with selfRefresh := true } }

/-- HALT_CLEAR: HALTED reads 1. -/
def execHaltClear (s : State) : Out := haltStep 5 State.clearOnDie s

end Sys2Proof.Machine
end

