-- ==== Sys2Proof/Machine/Host.lean ====
section
/-! DEFINITION. Command queues, their commands and the catalogues (R199-R201, R333-R348, R350-R353, R355, R359, R360).
CONTEXT_DESTROY stands with the blocks it cancels. -/
namespace Sys2Proof.Machine

/-- `chip.cat.status` ENABLED: the catalogues are locked and the blocks work (R362). -/
def State.enabled (s : State) : Bool := s.on && s.live && s.host.lock && !s.cur.deepIdle

/-- Commands are processed: the catalogues are locked, the blocks work, and the mesh, which a demand restarts, runs (R32,
R362). -/
def State.processing (s : State) : Bool := s.enabled && s.glob.meshRun

/-! ### Doorbells (R342) -/

/-- A write of a queue's `db.tail`. -/
def State.doorbell (s : State) (q : BitVec 13) (tail : BitVec 32) : State :=
  let s := s.loadQueue q
  let e := s.queueE q
  if !qValid e then s
  else if (tail - qHead e).toNat ≤ 2 ^ qRlog e then s.setQueueE q (setQTail e tail)
  else (s.setQueueE q (setQState (setQErr e 5 (qHead e)) 0)).modHost fun h => { h with cmdErr := true }

def execDoorbellWrite (q : BitVec 13) (tail : BitVec 32) (s : State) : Out :=
  guard (s.on && s.live && !s.cur.deepIdle && s.glob.meshRun) "no doorbell write arrives" (s.doorbell q tail)

/-! ### Legality of a command (R344-R346) -/

/-- Bits of a word outside a mask are zero. -/
def only (w mask : Word) : Bool := w &&& ~~~mask == 0

/-- Words k to 7 are zero. -/
def zeroFrom (ws : List Word) (k : Nat) : Bool := (ws.take 8).drop k |>.all fun w => w == 0

/-- Header bits of every command. -/
def hdrMask : Word := 0xFFBFFF0000000000

/-- Bits [47:0]. -/
def dvaMask : Word := 0x0000FFFFFFFFFFFF

/-- The RZ fields of a command's words are zero and its values are in range (R344 code 0x01, R346). -/
def cmdWellFormed (ws : List Word) : Bool :=
  let w0 := ew ws 0
  let h (kind : Word) : Bool := only w0 (hdrMask ||| kind)
  match cmdKind ws with
  | 0x00 => h 0 && zeroFrom ws 2
  | 0x01 => h 0x000000FFFFFFFC00 && cmdCfen ws && only (ew ws 2) dvaMask && nfld (ew ws 2) 0 3 == 0 &&
      (ws.drop 12).all fun w => w == 0
  | 0x02 => h 0 && only (ew ws 2) dvaMask && only (ew ws 3) dvaMask && only (ew ws 4) dvaMask && zeroFrom ws 5
  | 0x03 => h 0 && cmdCfen ws && zeroFrom ws 2
  | 0x04 => h 0x000000FFFC000000 && zeroFrom ws 3
  | 0x05 => h 0x000000FFC0000000 && zeroFrom ws 3 &&
      (if w0.getLsbD 30 then only (ew ws 2) dvaMask && nfld (ew ws 2) 0 3 == 0 else ew ws 2 == 0)
  | 0x06 => h 0x000000FF80000000 && zeroFrom ws 2
  | 0x07 => h 0x000000FFFE000000 && decide (nfld w0 32 8 ≤ 1) && only (ew ws 2) 0x0000FFFFFFFFFF80 && zeroFrom ws 3
  | 0x10 => h 0x000000FFC0000000 && only (ew ws 2) 0x0000FFFFFFE00000 && zeroFrom ws 4
  | 0x11 => h 0x000000FF80000000 && only (ew ws 2) 0x0000FFFFFFE00000 && zeroFrom ws 3
  | 0x12 => h 0x000000FF80000000 && only (ew ws 2) 0x0000FFFFFFE00000 && zeroFrom ws 4
  | 0x13 => h 0x000000FFFFFFFC00 && zeroFrom ws 2 && decide (nfld w0 38 2 ≠ 3) &&
      decide (nfld w0 24 14 + nfld w0 10 14 + 1 ≤ (if nfld w0 38 2 = 0 then 512 else if nfld w0 38 2 = 1 then 8192 else 16384))
  | 0x14 => h 0x000000FF80000000 && zeroFrom ws 2
  | _ => false

/-- The context may use every fence a command names (R353). -/
def State.fencesOk (s : State) (c : BitVec 9) (ws : List Word) : State × Bool :=
  let sigs := (if cmdCfen ws then [cmdCfence ws] else []) ++ (if cmdKind ws = 1 then [cmdEfence ws] else [])
  let waits := if cmdKind ws = 4 then [cmdWfence ws] else []
  let s := (sigs ++ waits).foldl (fun s f => s.loadFence f) (s.loadCtx c)
  (s, (sigs.all fun f => maySignal c (s.ctxE c) (s.fenceE f)) && waits.all fun f => mayWait c (s.ctxE c) (s.fenceE f))

/-! ### QUEUE_TAKE_COMMAND (R341, R343) -/

/-- The words of a slot, read under the queue context's leaf (R344 RING_XLATE where they cannot be). -/
def State.readSlot (s : State) (e : List Word) (i : BitVec 32) : State × Option (List Word) :=
  match s.blockRead .catalogue (qCtx e) (qRbase e + 64 * (i.toNat % 2 ^ qRlog e)) 64 with
  | (s, .ok bs) => (s, some (leWords 8 bs))
  | (s, .error _) => (s, none)

/-- What reading the command at HEAD gives. -/
inductive CmdRead where
  /-- The tail does not cover both slots of a LAUNCH yet. -/
  | short
  /-- A slot cannot be read; the words of those before it. -/
  | bad (ws : List Word)
  | words (ws : List Word)
deriving DecidableEq, Repr

/-- The command at HEAD, both slots of a LAUNCH. -/
def State.readCmd (s : State) (e : List Word) : State × CmdRead :=
  match s.readSlot e (qHead e) with
  | (s, none) => (s, .bad [])
  | (s, some ws) =>
    if cmdKind ws ≠ 1 then (s, .words ws)
    else if (qTail e - qHead e).toNat < 2 then (s, .short)
    else match s.readSlot e (qHead e + 1) with
      | (s, none) => (s, .bad ws)
      | (s, some w2) => (s, .words (ws ++ w2))

/-- What refuses a command before it begins. -/
def State.cmdRefusal (s : State) (c : BitVec 9) (ws : List Word) : State × Option Nat :=
  if !cmdWellFormed ws then (s, some 1)
  else if cmdKind ws ≥ 0x10 ∧ c ≠ 0 then (s, some 2)
  else
    let (s, ok) := s.fencesOk c ws
    (s, if ok then none else some 3)

/-- The queue may take a command: it holds none, but for one a core's loss left behind. -/
def State.mayTake (s : State) (q : BitVec 13) : Bool :=
  match s.takenOf q with
  | none => true
  | some x => x.stage == .parked

/-- A command left behind gives its references up when it is taken again. -/
def State.dropParked (s : State) (q : BitVec 13) : State :=
  match s.takenOf q with
  | none => s
  | some x => (s.dropTaken q).unrefAll x.words

/-- Take a command: its references are counted (R355). -/
def State.takeCmd (s : State) (q : BitVec 13) (pos : BitVec 32) (ws : List Word) : State :=
  let s := (s.dropParked q).modHost fun h =>
    { h with taken := Tbl.put h.taken q.toNat { words := ws, pos := pos, stage := .fresh } }
  (cmdFences ws).foldl (fun s f => s.refFence f) s

/-- QUEUE_TAKE_COMMAND. -/
def execQueueTakeCommand (q : BitVec 13) (s : State) : Out :=
  let s1 := s.loadQueue q
  let e := s1.queueE q
  if s.processing && qValid e && qState e == 1 && qHead e != qTail e && s.mayTake q then
    match s1.readCmd e with
    | (_, .short) => .refused (.notEnabled "the tail does not cover both slots of the LAUNCH")
    | (s, .bad ws) => .next ((s.dropParked q).refuseAt q (qHead e) ws 4)
    | (s, .words ws) =>
      match s.cmdRefusal (qCtx e) ws with
      | (s, some code) => .next ((s.dropParked q).refuseAt q (qHead e) ws code)
      | (s, none) => .next (s.takeCmd q (qHead e) ws)
  else .refused (.notEnabled "the queue takes no command")

/-! ### Commands of one step -/

/-- A taken command of a kind, at a stage it may run from, acts. -/
def runCmd (q : BitVec 13) (kind : Nat) (from' : List CmdStage) (s : State) (f : QCmd → State → State) : Out :=
  match s.takenOf q with
  | some x =>
    guard (s.processing && cmdKind x.words == kind && from'.contains x.stage) "the queue has not taken this command" (f x s)
  | none => .refused (.notEnabled "the queue has not taken this command")

def execCmdNop (q : BitVec 13) (s : State) : Out := runCmd q 0 [.fresh] s fun _ s => s.completeCmd q true

/-- LAUNCH waits for its stream; LAUNCH_START starts it (R347). -/
def execLaunch (q : BitVec 13) (s : State) : Out := runCmd q 1 [.fresh] s fun x s => s.stageCmd q x .waiting

/-- The bound core of a queue as one of the chip's. -/
def State.boundCore (s : State) (q : BitVec 13) : Option (Fin 96) :=
  let n := qCore (s.queueV q)
  if h : n < 96 then some ⟨n, h⟩ else none

/-- The bound core serves the context now: it runs, and has no context or this one. -/
def State.serves (s : State) (c : Fin 96) (ctx : BitVec 9) : Bool :=
  s.runs c && ((s.core c).ctx == none || (s.core c).ctx == some ctx)

/-- COPY on channel 4: the operation enters the channel with the owner keys of the moment; a halted channel restarts. -/
def State.startCopy (s : State) (c : Fin 96) (q : BitVec 13) (x : QCmd) : State :=
  let ctx := qCtx (s.queueV q)
  let keys := (Tbl.get CtxSec.none s.reg.ctxs ctx.toNat).ownerKeys
  let op : DmaOp := .copy (addr48 (ew x.words 3)) (addr48 (ew x.words 2)) 1 (ew x.words 4).toNat 0 0 false
  (s.modCore c fun k => { k.bindCtx ctx with
    dmaHalted := k.dmaHalted &&& ~~~(1#5 <<< 4)
    dmaQ := k.dmaQ ++ [{ channel := 4, seqNo := 0, pc := 0, insn := 0, op := op, keys := keys,
                         started := (k.dmaHead 4).isNone, queue := q }] }).stageCmd q x .running

/-- COPY: at once on a core that serves the context, else it waits for the core. -/
def execCopy (q : BitVec 13) (s : State) : Out :=
  runCmd q 2 [.fresh, .waiting] s fun x s =>
    match s.boundCore q with
    | some c => if s.serves c (qCtx (s.queueV q)) then s.startCopy c q x else s.stageCmd q x .waiting
    | none => s.stageCmd q x .waiting

def execSignal (q : BitVec 13) (s : State) : Out := runCmd q 3 [.fresh] s fun _ s => s.completeCmd q true

/-- WAIT satisfied: refused where the error flag satisfies it (R344, R350). -/
def State.waitOver (s : State) (q : BitVec 13) (f : BitVec 14) : State :=
  if fError (s.fenceE f) then s.refuseCmd q 8 else s.completeCmd q true

def execWait (q : BitVec 13) (s : State) : Out :=
  runCmd q 4 [.fresh] s fun x s =>
    let f := cmdWfence x.words
    let s := s.loadFence f
    if fenceMet (s.fenceE f) (ew x.words 2) then s.waitOver q f
    else (s.modQueue q fun e => setQState e 2).stageCmd q x .waiting

/-- QUEUE_WAIT_SATISFIED. -/
def execQueueWaitSatisfied (q : BitVec 13) (s : State) : Out :=
  match s.takenOf q with
  | some x =>
    let f := cmdWfence x.words
    let s := s.loadFence f
    guard (s.processing && cmdKind x.words == 4 && x.stage == .waiting && fenceMet (s.fenceE f) (ew x.words 2))
      "the fence has not reached the value" (s.waitOver q f)
  | none => .refused (.notEnabled "no WAIT waits")

/-! ### RESUME and ABORT (R199-R201) -/

/-- The stream a RESUME or ABORT names, on a core that runs the queue's context. -/
def State.namedStream (s : State) (q : BitVec 13) (x : QCmd) : Option (Fin 96) :=
  let n := cmdCore x.words
  if h : n < 96 then
    if s.runs ⟨n, h⟩ && (s.core ⟨n, h⟩).ctx == some (qCtx (s.queueV q)) then some ⟨n, h⟩ else none
  else none

/-- RESUME at a PC: registers, vl, plates and the epoch are kept; the fault registers that name the stream are
cleared. -/
def State.resumeAt (s : State) (c : Fin 96) (t : Fin 4) (pc : Addr) : State :=
  s.modCore c fun k => (k.clearFaults t).modStream t fun st => { st with mode := .run, wait := .none, pc := pc, trap := none, ended := false }

/-- RESUME: MODE 0 continues at STOPPC, MODE 1 at the PC given. -/
def execResume (q : BitVec 13) (s : State) : Out :=
  runCmd q 5 [.fresh] s fun x s =>
    let t := cmdStream x.words
    match s.namedStream q x with
    | some c =>
      let st := s.stream c t
      if st.mode ≠ .trapped then s.refuseCmd q 6
      else
        let stop := match st.trap with
          | some i => i.stoppc
          | none => st.pc
        (s.resumeAt c t (if (ew x.words 0).getLsbD 30 then addr48 (ew x.words 2) else stop)).completeCmd q true
    | none => s.refuseCmd q 6

/-- ABORT: it completes when the stream is IDLE. -/
def execAbort (q : BitVec 13) (s : State) : Out :=
  runCmd q 6 [.fresh] s fun x s =>
    let t := cmdStream x.words
    match s.namedStream q x with
    | some c =>
      if (s.stream c t).mode = .idle then s.refuseCmd q 6
      else (s.stageCmd q x .running).abortStream c t false
    | none => s.refuseCmd q 6

/-! ### QUERY (R359, R360) -/

/-- A signed byte. -/
def byteOf (i : Int) : Nat := (BitVec.ofInt 8 i).toNat

/-- Bytes from a list of temperatures packed into words of eight. -/
def tempWords (n : Nat) (ts : List Int) : List Word :=
  leWords n (((List.range (8 * n)).map fun i => BitVec.ofNat 8 (byteOf (ts.getD i 0))))

/-- 2 × floor(T ÷ 2). -/
def coarseTemp (t : Int) : Int := 2 * (t / 2)

/-- A core clock runs. DESIGN CHOICE (log entry 45): a QUARANTINED core's clock counts as running and a RETIRED core's as
stopped. -/
def State.coreClock (s : State) : Bool := s.cores.toList.any fun k => k.mode == .active || k.mode == .quarantined

/-- The telemetry of QKIND 0: the measurements as they are, or coarsened to the latest window. -/
def State.telemetry (s : State) (coarse : Bool) : List Word :=
  let m := s.sup.meas
  let f := if coarse then coarseTemp else id
  let power := if coarse then 250 * (s.sup.donePower / (250 * 250)) else m.powerDw.toNat
  let current := if coarse then 500 * (s.sup.doneCurrent / (250 * 500)) else m.currentMa.toNat
  [ at' (if s.coreClock then 100000 * s.sup.farith else 0) 32 ||| 25000, at' 1250000 32 ||| 2000000, 1600000 ] ++
    tempWords 3 (m.die.map f) ++ tempWords 2 (m.stack.map f) ++
    [ at' power 32 ||| BitVec.ofNat 64 current, at' 1800 48 ||| at' 500 32 ||| at' 100 24 ||| at' 110 16 ]

/-- The counters of QKIND 1. -/
def Core.counters (k : Core) : List Word :=
  [k.mxBusycyc, k.mxStallcyc, k.vxBusycyc, k.vxTcyc, k.issued, k.dualcyc, k.dhit, k.dmiss, k.walks, k.dmaBytes]

/-- The counters of core n may be shown to context c. -/
def State.countersOpen (s : State) (c : BitVec 9) (n : Nat) : State × Option (List Word) :=
  if h : n < 96 then
    match (s.core ⟨n, h⟩).ctx with
    | some x =>
      (s, if (s.consent x).getLsbD 0 && (x == c || c == 0#9) then some (s.core ⟨n, h⟩).counters else none)
    | none => (s, none)
  else (s, none)

/-- The 128 bytes of a record. -/
def State.queryRecord (s : State) (c : BitVec 9) (x : QCmd) : State × List Word :=
  let kind := nfld (ew x.words 0) 32 8
  let s := s.loadCtx c
  let head (coarse denied : Bool) : List Word :=
    [0x8000000000000000#64 ||| flag coarse 62 ||| flag denied 61 ||| at' kind 53, s.tick]
  if kind = 0 then
    let coarse := !ctxPriv (s.ctxE c)
    (s, head coarse false ++ s.telemetry coarse ++ List.replicate 4 0)
  else
    let coarse := !ctxPriv (s.ctxE c)
    match s.countersOpen c (nfld (ew x.words 0) 25 7) with
    | (s, some ws) => (s, head coarse false ++ ws ++ List.replicate 4 0)
    | (s, none) => (s, head coarse true ++ List.replicate 14 0)

/-- QUERY: on the bound core, which wakes for it. -/
def execQuery (q : BitVec 13) (s : State) : Out :=
  runCmd q 7 [.fresh, .waiting] s fun x s =>
    let c := qCtx (s.queueV q)
    let up := match s.boundCore q with
      | some n => s.runs n
      | none => false
    if !up then s.stageCmd q x .waiting
    else
      let (s, ws) := s.queryRecord c x
      match s.blockWrite .engine c (ew x.words 2).toNat (wordBytes ws) with
      | (s, .ok _) => s.completeCmd q true
      | (s, .error _) => s.refuseCmd q 0x0C

/-! ### MAP, UNMAP, REMAP (R262, R263, R265, R348) -/

/-- The DPA of a page's leaf entry, where levels 1 and 2 hold valid entries. -/
def State.leafPlace (s : State) (c : BitVec 9) (dva : Nat) : State × Option Nat :=
  let (s, _, t3, _) := s.walk c dva
  (s, t3.map fun t => t + 8 * (dva / 0x200000 % 512))

/-- The page leaves every translation cache of the context and its lines leave every near store of it; writes that
used the old leaf are accepted first. -/
def State.invalidatePage (s : State) (c : BitVec 9) (dva page : Nat) : State :=
  (List.finRange 96).foldl (fun s n =>
    if (s.core n).ctx = some c then
      (s.acceptAll n).modCore n fun k => { k with
        tlb := cacheDrop k.tlb fun _ tg _ => tg == dva / 0x200000
        ns := cacheDrop k.ns fun st tg _ => linePage (tg * 2048 + st) == page
        fills := k.fills.filter fun x => linePage x.line.toNat != page
        fillQ := k.fillQ.filter fun x => linePage x.line.toNat != page }
    else s) s

/-- Write a leaf entry as the command processor, whose table pages are of class 0. -/
def State.writeLeaf (s : State) (place : Nat) (w : Word) : State :=
  s.modMem fun m => m.writeBytes .catalogue 0 place (wordBytes [w]) s.tick

/-- The three leaf commands: what the leaf must be before and what becomes of it. -/
def leafCmd (q : BitVec 13) (x : QCmd) (s : State)
    (act : (old : Word) → (place dva : Nat) → State → Option State) : State :=
  let c := cmdContext x.words
  let dva := (ew x.words 2).toNat
  match s.leafPlace c dva with
  | (s, none) => s.refuseCmd q 9
  | (s, some place) =>
    match s.readTable place with
    | (s, none) => s.refuseCmd q 9
    | (s, some old) =>
      match act old place dva s with
      | some s => s.completeCmd q true
      | none => s.refuseCmd q 9

/-- The page an old leaf names. -/
def leafPage (w : Word) : Nat := (Leaf.ofWord w).page.toNat

/-- After FINAL no leaf with X is written or replaced, and none that writes to a measured page (R473). -/
def State.finalForbids (s : State) (c : BitVec 9) (old new : Word) : Bool :=
  s.isFinal c && ((Leaf.ofWord new).x || (old.getLsbD 0 && (Leaf.ofWord old).x) ||
    ((Leaf.ofWord new).w && decide (Tbl.get 0 s.mem.measured (leafPage new) > 0)))

/-- MAP: the leaf was invalid and the new one is valid; CLEAR clears the page's written map in all controllers. -/
def execMap (q : BitVec 13) (s : State) : Out :=
  runCmd q 0x10 [.fresh] s fun x s => leafCmd q x s fun old place _ s =>
    let new := ew x.words 3
    if old.getLsbD 0 || !leafForm new ||
        s.finalForbids (cmdContext x.words) old new then none
    else
      let s := if (ew x.words 0).getLsbD 30 then
          s.modMem fun m => (List.finRange 16).foldl (fun m k => m.mapClear k (leafPage new)) m
        else s
      some (s.writeLeaf place new)

/-- UNMAP: the leaf was valid; it becomes zero and is invalidated. -/
def execUnmap (q : BitVec 13) (s : State) : Out :=
  runCmd q 0x11 [.fresh] s fun x s => leafCmd q x s fun old place dva s =>
    if !old.getLsbD 0 then none
    else some ((s.writeLeaf place 0).invalidatePage (cmdContext x.words) dva (leafPage old))

/-- REMAP: a valid leaf becomes another. -/
def execRemap (q : BitVec 13) (s : State) : Out :=
  runCmd q 0x12 [.fresh] s fun x s => leafCmd q x s fun old place dva s =>
    let new := ew x.words 3
    if !old.getLsbD 0 || !leafForm new ||
        s.finalForbids (cmdContext x.words) old new then none
    else some ((s.writeLeaf place new).invalidatePage (cmdContext x.words) dva (leafPage old))

/-! ### CATALOGUE_SYNC (R336-R340) -/

/-- Entry numbers a sync names. -/
def syncRange (ws : List Word) : List Nat :=
  (List.range (nfld (ew ws 0) 10 14 + 1)).map fun i => nfld (ew ws 0) 24 14 + i

/-- A fence entry the sync refuses with KIND (R340). -/
def badShare (e : List Word) : Bool := fShare e == 3 || (fShare e != 0 && fSgroup e == 0)

/-- A sync of this entry would find it busy (R338, R340): `old` is the device's entry, `new` memory's. -/
def syncBusy (cat : Nat) (old new : List Word) : Bool :=
  if cat = 0 then !(ew new 0).getLsbD 63 && (ctxState old == 1 || ctxState old == 2)
  else if cat = 2 then !fValid new && fLive old && fDevref old != 0
  else false

/-- A context entry after its sync: RW words from memory, RO words the device's, the register block from memory while
no stream of the context runs, and the state change of R338. -/
def syncCtx (old new : List Word) (busy : Bool) : List Word :=
  let e := new.take 6 ++ (old.drop 6).take 4 ++ (new.drop 10).take 6 ++ (if busy then old.drop 16 else new.drop 16)
  if (ew new 0).getLsbD 63 then
    if ctxState old = 0 then setEw e 6 1 else e
  else if ctxState old = 3 then setEw e 6 (putFld (ew e 6) 0 2 0) else e

/-- A queue entry after its sync. -/
def syncQueue (old new : List Word) (was : Bool) : List Word :=
  let e := new.take 2 ++ (old.drop 2).take 2 ++ new.drop 4
  if !qValid new then setQState e 0
  else if !was then setEw (setEw e 2 0) 3 1
  else if qState old = 0 then setQState e 1 else e

/-- A fence entry after its sync. -/
def syncFence (old new : List Word) : List Word :=
  let w1 := (ew new 1 &&& 0xFFFFFFFF00000000) ||| (ew old 1 &&& 0x00000000FFFFFFFF)
  let e := [if fLive old then ew old 0 else ew new 0, w1, ew new 2, ew new 3]
  if fValid new && !fLive old then setFLive (setFError e false) true
  else if !fValid new && fLive old then setFLive e false else e

/-- Base and size of a catalogue. -/
def State.catBase (s : State) (cat : Nat) : Word × Nat :=
  if cat = 0 then (s.host.ctxbase, 32) else if cat = 1 then (s.host.qbase, 16) else (s.host.fbase, 4)

/-- The device's entry, brought on chip. -/
def State.devEntry (s : State) (cat i : Nat) : State × List Word :=
  if cat = 0 then (let s := s.loadCtx (BitVec.ofNat 9 i); (s, s.ctxE (BitVec.ofNat 9 i)))
  else if cat = 1 then (let s := s.loadQueue (BitVec.ofNat 13 i); (s, s.queueE (BitVec.ofNat 13 i)))
  else (let s := s.loadFence (BitVec.ofNat 14 i); (s, s.fenceE (BitVec.ofNat 14 i)))

/-- A context that becomes LIVE starts with nothing measured or bound (R471). -/
def State.freshCtx (s : State) (c : Nat) : State := s.modReg fun r => { r with ctxs := Tbl.erase r.ctxs c }

/-- Sync one entry: reload and write back. -/
def State.syncOne (s : State) (cat i : Nat) : State :=
  let b := s.catBase cat
  let was := Tbl.get false s.host.qvalid i
  let (s, old) := s.devEntry cat i
  let (s, new) := s.readEntry b.1 b.2 i
  if cat = 0 then
    let c := BitVec.ofNat 9 i
    let busy := s.ctxBusy c
    let e := syncCtx old new busy
    let s := s.setCtxE c e
    let s := if ctxState old = 0 ∧ ctxState e = 1 then s.freshCtx i else s
    s.ctxWriteBack i e busy
  else if cat = 1 then
    let e := syncQueue old new was
    (s.setQueueE (BitVec.ofNat 13 i) e).queueWriteBack i e
  else
    let f := BitVec.ofNat 14 i
    let e := syncFence old new
    let s := s.setFenceE f e
    let s := if fLive old && fLive e then s.dropDead f
      else s.modHost fun h => { h with leaving := h.leaving.filter fun x => x.1 != f }
    s.fenceWriteBack i (s.fenceE f)

/-- What refuses a sync before it changes an entry; a queue entry never does. -/
def State.syncRefusal (s : State) (cat : Nat) (is : List Nat) : State × Option Nat :=
  let b := s.catBase cat
  is.foldl (fun (a : State × Option Nat) i =>
    match a.2 with
    | some 1 => a
    | r =>
      if cat = 1 then a else
      let (s, old) := a.1.devEntry cat i
      let (s, new) := s.readEntry b.1 b.2 i
      (s, if cat = 2 ∧ badShare new then some 1 else if syncBusy cat old new then some 0x0A else r)) (s, none)

/-- CATALOGUE_SYNC. -/
def execCatalogueSync (q : BitVec 13) (s : State) : Out :=
  runCmd q 0x13 [.fresh] s fun x s =>
    let cat := nfld (ew x.words 0) 38 2
    let is := syncRange x.words
    match s.syncRefusal cat is with
    | (s, some code) => s.refuseCmd q code
    | (s, none) => (is.foldl (fun s i => s.syncOne cat i) s).completeCmd q true

/-- CATALOGUE_ENTRY_EVICT (R335, R336): the RO fields are written back. -/
def execCatalogueEntryEvict (cat : BitVec 2) (idx : BitVec 14) (s : State) : Out :=
  let i := idx.toNat
  let h := s.host
  if cat = 0 then
    match Tbl.find? h.ctxs i with
    | some e => guard (s.on && s.live && s.glob.meshRun) "the entry is not on chip"
        ((s.ctxWriteBack i e (s.ctxBusy (BitVec.ofNat 9 i))).modHost fun h => { h with ctxs := Tbl.erase h.ctxs i })
    | none => .refused (.notEnabled "the entry is not on chip")
  else if cat = 1 then
    match Tbl.find? h.queues i with
    | some e => guard (s.on && s.live && s.glob.meshRun) "the entry is not on chip"
        ((s.queueWriteBack i e).modHost fun h => { h with queues := Tbl.erase h.queues i })
    | none => .refused (.notEnabled "the entry is not on chip")
  else
    match Tbl.find? h.fences i with
    | some e => guard (s.on && s.live && s.glob.meshRun && cat == 2#2) "the entry is not on chip"
        ((s.fenceWriteBack i e).modHost fun h => { h with fences := Tbl.erase h.fences i })
    | none => .refused (.notEnabled "the entry is not on chip")

/-- LOCK of `chip.cat.ctl`: a write of the curator (R362). -/
def execCatalogueLock (m : RegMaster) (s : State) : Out :=
  guard (s.busOpen m) "no register path" (curatorOnly m (fun s => s.modHost fun h => { h with lock := true }) s)

/-! ### The fence unit (R351-R353) -/

/-- Record a regression against the fence's owner. -/
def State.regression (s : State) (f : BitVec 14) (x : FenceSig) (cur : Word) : State :=
  let c := fOwner (s.fenceE f)
  let s := s.loadCtx c
  let src : Nat := match x.src with
    | .program => 0
    | .command => 1
    | .block => 2
  let e := setEw (setEw (setEw (s.ctxE c) 7 (0x8000000000000000#64 ||| at' f.toNat 49 ||| at' src 47)) 8 x.value) 9 cur
  (s.setCtxE c e).modHost fun h => { h with
    regress := h.regress.set (Fin.ofNat 8 (c.toNat / 64))
      (h.regress[Fin.ofNat 8 (c.toNat / 64)] ||| (1#64 <<< (c.toNat % 64))) }

/-- The mirror of a fence with MIRROR = 1 is due; a pending one shows the newer state. -/
def State.mirrorDue (s : State) (f : BitVec 14) : State :=
  if fMirror (s.fenceE f) && !s.host.mirrors.contains f then s.modHost fun h => { h with mirrors := h.mirrors ++ [f] } else s

/-- One signal at the fence unit. -/
def State.signalFence (s : State) (x : FenceSig) : State :=
  let f := x.fence
  let s := s.loadFence f
  let e := s.fenceE f
  if !fLive e then s
  else
    let rises := x.err && !fError e
    let e1 := if x.err then setFError e true else e
    if (x.value - fValue e).toNat ≤ 2 ^ 63 then (s.setFenceE f (setEw e1 0 x.value)).mirrorDue f
    else
      let s := (s.setFenceE f e1).regression f x (fValue e)
      if rises then s.mirrorDue f else s

/-- FENCE_SIGNAL: the oldest signal is performed. -/
def execFenceSignal (s : State) : Out :=
  match s.host.inbox with
  | [] => .refused (.notEnabled "no signal waits")
  | x :: rest => guard (s.on && s.live && s.glob.meshRun) "the fence unit does not run"
      ((s.modHost fun h => { h with inbox := rest }).signalFence x)

end Sys2Proof.Machine
end

