-- ==== Sys2Proof/Machine/Fabric.lean ====
section
/-! DEFINITION. Fabric ports, paths, RoCEv2 queue pairs and fence mirrors (R354, R363-R374). NCT stands in Nct.lean,
the RDMA access to doorbells and registers beside the register map. -/
namespace Sys2Proof.Machine

/-- The fabric works: no halt has arrived and the module is not in deep idle (R33, R306). -/
def State.fabOn (s : State) : Bool := s.on && s.live && !s.cur.deepIdle

/-! ### Paths (R364, R387) -/

/-- The port of a path and its plane: 0 A, 1 B. -/
def pathPort (n : Nat) : Fin 8 := Fin.ofNat 8 (n / 2)
def pathPlane (n : Nat) : Nat := n / 8

def State.modPort (s : State) (p : Fin 8) (f : Port → Port) : State :=
  s.modFab fun b => { b with ports := b.ports.set p (f b.ports[p]) }
def State.modPath (s : State) (n : Fin 16) (f : Path → Path) : State :=
  s.modFab fun b => { b with paths := b.paths.set n (f b.paths[n]) }

def Fabric.pathMode (b : Fabric) (n : Nat) : PathMode := (b.paths[Fin.ofNat 16 n]).mode
/-- The link of a path is up; only NCT minds a SUSPECT one. -/
def Fabric.linked (b : Fabric) (n : Nat) : Bool := b.pathMode n != .down
/-- A path is usable for NCT and transit: UP. -/
def Fabric.usable (b : Fabric) (n : Nat) : Bool := b.pathMode n == .up

/-- No path of a plane is UP: PLANEA_DOWN or PLANEB_DOWN. -/
def Fabric.planeDown (b : Fabric) (plane : Nat) : Bool := (List.range 8).all fun h => !b.usable (8 * plane + h)

/-- PLANEA_DOWN or PLANEB_DOWN takes a value. -/
def Fabric.setDown (b : Fabric) (plane : Nat) (x : Bool) : Fabric := if plane = 0 then { b with downA := x } else { b with downB := x }

/-- A path changes state: its count of what waits for an ACK starts again; a plane that loses its last UP path is DOWN
and sets FAILOVER, and one that has an UP path is not. -/
def State.setPath (s : State) (n : Fin 16) (m : PathMode) : State :=
  let was := s.fab.planeDown (pathPlane n)
  let s := s.modPath n fun p => { p with mode := m, since := none, ackAt := none }
  let is := s.fab.planeDown (pathPlane n)
  if !was && is then s.modFab fun b => { b.setDown (pathPlane n) true with failover := true }
  else if was && !is then s.modFab fun b => b.setDown (pathPlane n) false
  else s

/-- What arrives needs the mesh, whose clock starts again where it had stopped (R32). -/
def State.meshDemand (s : State) : State := if s.glob.meshRun then s else s.wakeMesh

/-- Frames of a port are sent, received, dropped. -/
def State.txOn (s : State) (n : Nat) : State := s.modPort (pathPort n) fun p => { p with txfr := p.txfr + 1 }
def State.rxOn (s : State) (n : Nat) : State := s.modPort (pathPort n) fun p => { p with rxfr := p.rxfr + 1 }
def State.dropOn (s : State) (p : Fin 8) : State := s.modPort p fun x => { x with rxdrop := x.rxdrop + 1 }

/-- A received pause holds the port's frames: PFCEN, and the priority of `fab.port.ctl` PCP is masked and paused. -/
def Fabric.held (b : Fabric) (n : Nat) : Bool :=
  let p := b.ports[pathPort n]
  let i := nfld p.ctl 48 3
  p.ctl.getLsbD 39 && p.ctl.getLsbD (40 + i) && p.paused.getLsbD i

/-! ### Frames (R366, R367, R372, R386) -/

/-- The plane address an ARP or Neighbor Discovery request must ask for; IPMODE chooses IPv4 or IPv6. -/
def Fabric.planeAddr (b : Fabric) (plane : Nat) : Bool × BitVec 128 :=
  if b.ipmode.getLsbD plane then
    (true, if plane = 0 then b.ipa6hi ++ b.ipa6lo else b.ipb6hi ++ b.ipb6lo)
  else (false, (if plane = 0 then b.ipa4 else b.ipb4).setWidth 128)

/-- The headers of a frame on a path to an address. -/
def Fabric.frameHdr (b : Fabric) (path : Nat) (dst : BitVec 128) (dscp : Nat) (sport dport : BitVec 16) : FrameHdr :=
  let p := b.ports[pathPort path]
  let a := b.planeAddr (pathPlane path)
  { smac := p.mac, dmac := p.nhmac
    vlan := if p.ctl.getLsbD 51 then some ((p.ctl >>> 48).setWidth 3, (p.ctl >>> 52).setWidth 12) else none
    v6 := a.1, src := a.2, dst := dst, dscp := BitVec.ofNat 6 dscp, sport := sport, dport := dport }

/-- A frame of NCT; the others are not counted per path. -/
def WireEvent.isNct : WireEvent → Bool
  | .packet _ _ (.nct _) => true
  | _ => false

/-- A frame leaves on a path. -/
def State.putFrame (s : State) (path : Nat) (e : WireEvent) : State :=
  let s := s.txOn path
  (if e.isNct then s.modPath (Fin.ofNat 16 path) fun x => { x with tx := x.tx + 1 } else s).emit e

/-- Send a frame on a path, or keep it while a received pause holds the path. -/
def State.sendOn (s : State) (path : Nat) (e : WireEvent) : State :=
  if s.fab.held path then s.modFab fun b => { b with heldTx := b.heldTx ++ [(path, e)] } else s.putFrame path e

/-- Frames that no pause holds any more leave, in their order. -/
def State.releaseTx (s : State) : State :=
  let go := s.fab.heldTx.filter fun x => !s.fab.held x.1
  let s := s.modFab fun b => { b with heldTx := b.heldTx.filter fun x => b.held x.1 }
  go.foldl (fun s x => s.putFrame x.1 x.2) s

/-! ### Links (R363, R387, R394) -/

/-- The number of a path. -/
def pathOf (port : Fin 8) (half : Bool) : Fin 16 := Fin.ofNat 16 (2 * port.val + half.toNat)

/-- SPLIT as it is now, or as a link that comes up alone makes it. -/
def Fabric.splitNow (b : Fabric) (port : Fin 8) : Bool :=
  let p := b.ports[port]
  if b.linked (2 * port.val) || b.linked (2 * port.val + 1) then p.split else p.ctl.getLsbD 1

/-- LINK_UP. -/
def execLinkUp (port : Fin 8) (half kr : Bool) (s : State) : Out :=
  let sp := s.fab.splitNow port
  guard (s.fabOn && (s.fab.ports[port]).ctl.getLsbD 0 && !s.fab.linked (pathOf port half) && (sp || !half))
    "the port is not enabled, or the link is up"
    ((s.modPort port fun p => { p with split := sp, anDone := true, kr := kr }).setPath (pathOf port half) .up)

/-- LINK_DOWN: what the link carried is lost with it. -/
def execLinkDown (port : Fin 8) (half : Bool) (s : State) : Out :=
  guard (s.on && s.fab.linked (pathOf port half)) "the link is not up"
    (let s := (s.setPath (pathOf port half) .down).modFab fun b => { b with
       heldTx := b.heldTx.filter fun x => x.1 != (pathOf port half).val }
     s.modPort port fun p => { p with
       linkDrop := true, anDone := s.fab.linked (2 * port.val) || s.fab.linked (2 * port.val + 1) })

/-! ### Ethernet (R366, R367, R392) -/

/-- A port has a link. -/
def Fabric.portUp (b : Fabric) (p : Fin 8) : Bool := b.linked (2 * p.val) || b.linked (2 * p.val + 1)

/-- ARP_REQUEST_RX: requests for the plane's own address are answered. -/
def execArpRequestRx (port : Fin 8) (v6 : Bool) (target : BitVec 128) (s : State) : Out :=
  guard (s.fabOn && s.fab.portUp port) "the port has no link"
    (let s := s.rxOn (2 * port.val)
     if s.fab.planeAddr (port.val / 4) = (v6, target) then
       s.sendOn (2 * port.val) (.arpReply port (s.fab.ports[port]).mac)
     else s)

/-- FRAME_DROP: the management port's drops are counted nowhere; a codeword FEC cannot correct sets FEC_UE. DESIGN CHOICE (log
entry 44): codewords that FEC corrected where every frame was saved come as its FEC form with none uncorrectable; they count
and nothing is dropped. -/
def execFrameDrop (port : Fin 8) (why : FrameBad) (s : State) : Out :=
  match why with
  | .managementOther => guard s.on "the module does not run" s
  | .fec good bad => guard (s.fabOn && s.fab.portUp port) "the port has no link"
      (let s := s.modPort port fun p => { p with fecce := p.fecce + BitVec.ofNat 64 good }
       if bad = 0 then s
       else ((s.rxOn (2 * port.val)).dropOn port).modPort port fun p => { p with
         fecue := p.fecue + BitVec.ofNat 64 bad, fecUe := true })
  | _ => guard (s.fabOn && s.fab.portUp port) "the port has no link" ((s.rxOn (2 * port.val)).dropOn port)

/-- PFC_PAUSE_RX: the priorities a frame pauses, all others being free again; a port without PFC drops it. -/
def execPfcPauseRx (port : Fin 8) (mask : Byte) (s : State) : Out :=
  guard (s.fabOn && s.fab.portUp port) "the port has no link"
    (let s := s.rxOn (2 * port.val)
     if (s.fab.ports[port]).ctl.getLsbD 39 then (s.modPort port fun p => { p with paused := mask }).releaseTx
     else s.dropOn port)

/-! ### Queue pairs (R369, R372) -/

def qpNone : Qp :=
  { entry := List.replicate 16 0, spsn := 0, rpsn := 0, msn := 0, out := [], retries := 0, rate := 1, lastCut := none,
    quiet := none, lastCnp := none, ceSeen := false }

def State.qp (s : State) (n : BitVec 12) : Qp := Tbl.get qpNone s.fab.qps n.toNat
def State.setQp (s : State) (n : BitVec 12) (q : Qp) : State :=
  s.modFab fun b => { b with qps := Tbl.set qpNone b.qps n.toNat q }
def State.modQp (s : State) (n : BitVec 12) (f : Qp → Qp) : State := s.setQp n (f (s.qp n))

def Qp.ctx (q : Qp) : BitVec 9 := (ew q.entry 0 >>> 54).setWidth 9
/-- STATE: 0 RESET, 1 READY, 2 ERROR. -/
def Qp.state (q : Qp) : Nat := nfld (ew q.entry 7) 0 2
def Qp.ready (q : Qp) : Bool := q.state == 1
def Qp.retry (q : Qp) : Nat := nfld (ew q.entry 0) 44 3
def Qp.mkey (q : Qp) : BitVec 32 := (ew q.entry 4 >>> 32).setWidth 32
/-- TIMEOUT in units of a tenth of a tick: 4.096 µs × 2^TIMEOUT. -/
def Qp.timeout (q : Qp) : Nat := 1024 * 2 ^ nfld (ew q.entry 0) 40 4
def Qp.dqpn (q : Qp) : BitVec 24 := (ew q.entry 0).setWidth 24
def Qp.rqprod (q : Qp) : BitVec 32 := (ew q.entry 7 >>> 32).setWidth 32
def Qp.rqcons (q : Qp) : BitVec 32 := (ew q.entry 6 >>> 32).setWidth 32
def Qp.rqfence (q : Qp) : BitVec 14 := (ew q.entry 6).setWidth 14
def Qp.rqSlots (q : Qp) : Nat := 2 ^ nfld (ew q.entry 5) 0 5
def Qp.setState (q : Qp) (x : Nat) : Qp := { q with entry := setEw q.entry 7 (putFld (ew q.entry 7) 0 2 x) }

/-- The 16 B of an address in network order. -/
def addrOf (bs : List Byte) : BitVec 128 := BitVec.ofNat 128 (beNat bs)

/-- PEERIP. -/
def Qp.peerIp (q : Qp) : BitVec 128 := addrOf (wordBytes [ew q.entry 2, ew q.entry 3])

/-- Write the RO fields of a queue pair, word 7, back to its entry (R336, R369). -/
def State.qpWriteBack (s : State) (n : BitVec 12) : State :=
  s.writeEntryAt s.fab.qpbase 16 n.toNat 56 (leBytes 8 (ew (s.qp n).entry 7).toNat)

/-- The path of PORT or of ALTPORT, with the half a split port uses. -/
def Fabric.portPath (b : Fabric) (port : Nat) (half : Bool) : Nat :=
  2 * port + (if (b.ports[Fin.ofNat 8 port]).split then half.toNat else 0)

/-- The path a queue pair sends on (R372). -/
def Fabric.qpPath (b : Fabric) (q : Qp) : Option Nat :=
  let w := ew q.entry 0
  let main := b.portPath (nfld w 51 3) (w.getLsbD 39)
  let alt := b.portPath (nfld w 48 3) (w.getLsbD 38)
  if b.linked main then some main
  else if w.getLsbD 47 && b.linked alt then some alt
  else none

/-! ### Failing requests (R390, R393, R423, R442) -/

/-- Take a request away. -/
def State.dropReq (s : State) (id : Nat) : State := s.modFab fun b => { b with reqs := b.reqs.filter fun r => r.id != id }

def State.modReq (s : State) (id : Nat) (f : Req → Req) : State :=
  s.modFab fun b => { b with reqs := b.reqs.map fun r => if r.id = id then f r else r }

/-- A record of `nct.glob.err`. -/
def State.fabErr (s : State) (obj code msgid : Nat) : State :=
  s.modFab fun b => { b with
    err := faultReg b.err (0x8000000000000000#64 ||| at' obj 50 ||| at' code 46 ||| at' msgid 14) }

/-- Chunks of an image, and the image bytes of chunk c: the last chunk is padded (R442). -/
def DrainJob.chunks (d : DrainJob) : Nat := (d.size + 65535) / 65536
def DrainJob.chunkLen (d : DrainJob) (c : Nat) : Nat := Min.min 65536 (d.size - 65536 * c)

/-- Requests of the running drain that are finished. -/
def State.drainDone (s : State) : List Req := s.fab.reqs.filter fun r => r.by' == .drain && r.done == r.total

/-- Image bytes of the running drain that are acknowledged (R450). -/
def State.drainCount (s : State) : Word :=
  match s.vault.drain with
  | none => 0
  | some d => BitVec.ofNat 64 ((s.drainDone.map fun r => d.chunkLen ((r.raddr - d.base).toNat / 65552)).sum)

/-- The drain is over: its requests go, and the count of its bytes stays. -/
def State.drainOver (s : State) : State :=
  let n := s.drainCount
  let s := s.modFab fun b => { b with reqs := b.reqs.filter fun r => r.by' != .drain }
  s.modVault fun v => { v with drain := none, drainBytes := n }

/-- A record of `vault.err`. -/
def State.vaultErr (s : State) (code op index : Nat) : State :=
  s.modVault fun v => { v with
    err := faultReg v.err (0x8000000000000000#64 ||| at' code 58 ||| at' op 56 ||| at' index 0) }

/-- The running drain stops: a record where it failed, its requests, its fence with the error flag. -/
def State.drainStop (s : State) (code : Option Nat) : State :=
  match s.vault.drain with
  | none => s
  | some d =>
    let s := match code with
      | some c => s.drainOver.vaultErr c 3 0
      | none => s.drainOver
    s.send ⟨d.fence, d.value, true, .block⟩

/-- The context of the transit job. -/
def Transit.ctx (t : Transit) : BitVec 9 := (t.cfg >>> 54).setWidth 9

/-- The running TRANSIT.pull ends: result record, `tr.err` and the error flag where it fails (R420, R423). -/
def State.pullEnd (s : State) (failed : Option Nat) : State :=
  match s.tr.pull with
  | none => s
  | some p =>
    let s := s.modFab fun b => { b with reqs := b.reqs.filter fun r => r.by' != .pull }
    let ws : List Word := match failed with
      | some code => [at' 3 62 ||| at' code 0, 0, 0, 0, 0, 0, 0, s.tick - p.accepted]
      | none => [0, 0, p.first, 0, 0, 0, 0, s.tick - p.accepted]
    let s := (s.blockWrite .transit s.tr.ctx p.result.toNat (wordBytes ws)).1
    let s := s.modTr fun t => { t with
      pull := none
      err := match failed with
        | some code => faultReg t.err (0x8000000000000000#64 ||| at' code 58)
        | none => t.err }
    s.send ⟨p.fence, p.value, failed.isSome, .block⟩

/-- A request fails. -/
def State.failReq (s : State) (r : Req) (obj code : Nat) : State :=
  let s := s.dropReq r.id
  match r.by' with
  | .program => (s.fabErr obj code r.msgid.toNat).send ⟨r.fence, r.value, true, .block⟩
  | .drain => s.drainStop (some 5)
  | .pull => s.pullEnd (some 4)
  | .peer => s

/-- The requests a test picks fail. -/
def State.failReqs (s : State) (p : Req → Bool) (obj code : Nat) : State :=
  (s.fab.reqs.filter p).foldl (fun s r => s.failReq r obj code) s

/-- The queue pair of a request. -/
def Req.qp? (r : Req) : Option (BitVec 12) :=
  match r.kind with
  | .nsend q => some q
  | .qwrite q _ => some q
  | _ => none

/-- The session of a request. -/
def Req.sess? (r : Req) : Option (BitVec 10) :=
  match r.kind with
  | .nput i _ => some i
  | .nget i => some i
  | .serve i => some i
  | _ => none

/-- A queue pair goes to ERROR: its requests fail with QP_ERROR, and mirror writes on it are lost (R354, R372). -/
def State.qpError (s : State) (n : BitVec 12) : State :=
  let lost := (s.qp n).out.any fun x => x.req.isNone
  let s := (s.modQp n fun q => { q.setState 2 with out := [] }).qpWriteBack n
  let s := if lost then s.modHost fun h => { h with mirrorDrop := true } else s
  if s.fab.reqs.any fun r => r.qp? == some n && r.by' == .program then s.failReqs (fun r => r.qp? == some n) n.toNat 7
  else (s.fabErr n.toNat 7 0).failReqs (fun r => r.qp? == some n) n.toNat 7

/-! ### QP_LOAD (R369) -/

/-- The work of a queue pair is discarded; a drain over it ends. -/
def State.qpDiscard (s : State) (n : BitVec 12) : State :=
  let mine (r : Req) : Bool := r.qp? == some n
  let s := if s.fab.reqs.any fun r => mine r && r.by' == .drain then s.drainStop (some 5) else s
  s.modFab fun b => { b with reqs := b.reqs.filter fun r => !mine r }

/-- A write of `fab.glob.qpload`: the entry is read by the catalogue unit and its RO fields are written back. -/
def State.qpLoadOp (s : State) (n : BitVec 12) : State :=
  let (s, e) := s.readEntry s.fab.qpbase 16 n.toNat
  let on := (ew e 0).getLsbD 63
  let e := setEw e 7 (if on then 1 else 0)
  let s := (s.qpDiscard n).setQp n { qpNone with
    entry := e, spsn := (ew e 1 >>> 40).setWidth 24, rpsn := (ew e 1 >>> 16).setWidth 24 }
  s.qpWriteBack n

def execQpLoad (m : RegMaster) (n : BitVec 12) (s : State) : Out := guard (s.busOpen m) "no register path" (s.qpLoadOp n)

/-! ### Sending (R354, R372, R373) -/

/-- Packets of n bytes at the path MTU. -/
def mtuPackets (n : Nat) : Nat := Max.max 1 ((n + 4095) / 4096)

/-- A packet of a queue pair's leaves on a path, to PEERIP. -/
def State.roceOut (s : State) (n : BitVec 12) (path : Nat) (p : RocePkt) : State :=
  let q := s.qp n
  let dscp := nfld s.fab.dscp (if p = .cnp then 18 else 12) 6
  s.sendOn path (.packet path (s.fab.frameHdr path q.peerIp dscp (Config.roceSport n) 4791) (.roce n q.dqpn p))

/-- A request packet leaves. -/
def State.qpEmit (s : State) (n : BitVec 12) (path : Nat) (x : QpReq) : State :=
  s.roceOut n path (.request x.psn x.op x.first x.last x.total x.data)

/-- Put a new packet of a queue pair on the wire and keep it until it is acknowledged. -/
def State.qpNew (s : State) (n : BitVec 12) (path : Nat) (op : QpOp) (data : List Byte) (first last : Bool) (total : Nat)
    (req : Option Nat) : State :=
  let q := s.qp n
  let x : QpReq :=
    { psn := q.spsn, op := op, data := data, first := first, last := last, total := total, req := req, sent := true, at' := s.tick }
  (s.setQp n { q with spsn := q.spsn + 1, out := q.out ++ [x] }).qpEmit n path x

/-- Mark the first packet not yet resent as sent. -/
def markSent (tick : Word) : List QpReq → List QpReq
  | [] => []
  | x :: t => if x.sent then x :: markSent tick t else { x with sent := true, at' := tick } :: t

/-- The bytes of packet j of a request. -/
def State.reqChunk (s : State) (r : Req) (off n : Nat) : State × Except BlockErr (List Byte) :=
  match r.bytes with
  | some bs => (s, .ok ((bs.drop off).take n))
  | none => s.blockRead .fabric r.ctx (r.laddr.toNat + off) n

/-- Send the next data packet of a request over its queue pair. -/
def State.qpSendNext (s : State) (n : BitVec 12) (path : Nat) (r : Req) : State :=
  let off := 4096 * r.queued
  match s.reqChunk r off (Min.min 4096 (r.len - off)) with
  | (s, .error _) => s.failReq r n.toNat 6
  | (s, .ok bs) =>
    let op := match r.kind with
      | .qwrite _ rkey => QpOp.write (r.raddr + BitVec.ofNat 64 off) rkey
      | _ => QpOp.send
    (s.qpNew n path op bs (r.queued == 0) (r.queued + 1 == r.total) r.len (some r.id)).modReq r.id fun r => { r with queued := r.queued + 1 }

/-- ROCE_PACKET_SEND: a packet to resend goes first, then the oldest request with data left. -/
def execRocePacketSend (n : BitVec 12) (s : State) : Out :=
  let q := s.qp n
  match s.fab.qpPath q with
  | none => .refused (.notEnabled "the queue pair has no link")
  | some path =>
    match q.out.find? fun x => !x.sent with
    | some x =>
      guard (s.fabOn && q.ready && !s.fab.held path) "the queue pair does not send"
        ((s.setQp n { q with out := markSent s.tick q.out }).qpEmit n path x)
    | none =>
      match s.fab.reqs.find? fun r => r.qp? == some n && decide (r.queued < r.total) with
      | some r => guard (s.fabOn && q.ready && !s.fab.held path) "the queue pair does not send" (s.qpSendNext n path r)
      | none => .refused (.notEnabled "the queue pair has nothing to send")

/-- MIRROR_WRITE: word 1 and then word 0; a queue pair that is not connected drops them. Writes of the newest state
wait while earlier packets of the queue pair wait. -/
def execMirrorWrite (f : BitVec 14) (s : State) : Out :=
  let s1 := s.loadFence f
  let e := s1.fenceE f
  let n := fMqp e
  let q := s1.qp n
  let done (s : State) : State :=
    let s := s.modHost fun h => { h with mirrors := h.mirrors.filter (· ≠ f) }
    if s.host.leaving.contains (f, true) then s.endLive f else s
  match s1.fab.qpPath q with
  | none =>
    guard (s.fabOn && s.host.mirrors.contains f) "no mirror write is due"
      ((done s1).modHost fun h => { h with mirrorDrop := true })
  | some path =>
    if !q.ready then
      guard (s.fabOn && s.host.mirrors.contains f) "no mirror write is due"
        ((done s1).modHost fun h => { h with mirrorDrop := true })
    else
      guard (s.fabOn && s.host.mirrors.contains f && (q.out.all fun x => x.sent) && !s.fab.held path)
        "no mirror write is due"
        (let a := ew e 2 &&& ~~~(0xF#64)
         let rkey : BitVec 32 := (ew e 3 >>> 32).setWidth 32
         let w1 : Word := flag (fError e) 63 ||| at' f.toNat 49
         let s := (done s1).qpNew n path (.write (a + 8) rkey) (leBytes 8 w1.toNat) true true 8 none
         s.qpNew n path (.write a rkey) (leBytes 8 (fValue e).toNat) true true 8 none)

/-- CNP_RX: r halves, at most once per 50 µs, to no less than 1/64 of line rate. -/
def Qp.cut (q : Qp) (tick : Word) : Qp :=
  let due := match q.lastCut with
    | none => true
    | some t => decide ((tick - t).toNat ≥ 1250)
  let q := { q with quiet := some tick }
  if due then { q with rate := Max.max (1 / 64) (q.rate / 2), lastCut := some tick } else q

/-- So many ticks have passed since a tick, or it has never come. -/
def sinceTick (t : Option Word) (now : Word) (n : Nat) : Bool :=
  match t with
  | some t => decide ((now - t).toNat ≥ n)
  | none => true

/-- ROCE_RATE_INCREASE: a sixteenth of line rate, 55 µs after the latest CNP or increase. -/
def execRoceRateIncrease (n : BitVec 12) (s : State) : Out :=
  guard (s.fabOn && (s.qp n).ready && decide ((s.qp n).rate < 1) && sinceTick (s.qp n).quiet s.tick 1375)
    "no increase is due" (s.modQp n fun q => { q with rate := Min.min 1 (q.rate + 1 / 16), quiet := some s.tick })

/-- CNP_SEND: one in 50 µs. -/
def execCnpSend (n : BitVec 12) (s : State) : Out :=
  match s.fab.qpPath (s.qp n) with
  | some path =>
    guard (s.fabOn && (s.qp n).ready && (s.qp n).ceSeen && sinceTick (s.qp n).lastCnp s.tick 1250) "no CNP is due"
      ((s.modQp n fun q => { q with ceSeen := false, lastCnp := some s.tick }).roceOut n path .cnp)
  | none => .refused (.notEnabled "the queue pair has no link")

/-! ### Receiving (R366, R368, R371, R372) -/

/-- A RoCEv2 packet arrives: it is counted, its CE is noted, and a queue pair that is not READY drops it. -/
def roceRx (f : RoceIn) (s : State) (body : Qp → State → State) : Out :=
  guard (s.fabOn && s.fab.linked f.path) "the link is down"
    (let s := s.meshDemand.rxOn f.path
     if !(s.qp f.qp).ready then s.dropOn (pathPort f.path)
     else
       let s := if f.ce then s.modQp f.qp fun q => { q with ceSeen := true } else s
       body (s.qp f.qp) s)

/-- A reply of the module to a received packet, on the queue pair's own link. -/
def State.qpReply (s : State) (n : BitVec 12) (p : RocePkt) : State :=
  match s.fab.qpPath (s.qp n) with
  | some path => s.roceOut n path p
  | none => s

/-- An acknowledgement of the module's, with its count of requests carried out. -/
def State.qpAnswer (s : State) (n : BitVec 12) (k : AckOut) (psn : BitVec 24) : State :=
  s.qpReply n (.answer k psn (s.qp n).msn)

/-- Where a request's PSN stands: expected, received before, or ahead of what is missing. -/
inductive PsnCase where
  | expected | old | ahead
deriving DecidableEq, Repr

def psnCase (psn rpsn : BitVec 24) : PsnCase :=
  if psn = rpsn then .expected else if (rpsn - psn).toNat < 2 ^ 23 then .old else .ahead

/-- A request of n packets is carried out: the PSN moves on and the last packet is acknowledged. -/
def State.qpAccept (s : State) (f : RoceIn) (n : Nat) (ack : Bool) : State :=
  let s := s.modQp f.qp fun q => { q with rpsn := q.rpsn + BitVec.ofNat 24 n, msn := q.msn + 1 }
  if ack then s.qpAnswer f.qp .ack (f.psn + BitVec.ofNat 24 (n - 1)) else s

/-- A request arrives in order, again, or out of order (go-back-N). -/
def roceRequest (f : RoceIn) (s : State) (act again : Qp → State → State) : Out :=
  roceRx f s fun q s =>
    match psnCase f.psn q.rpsn with
    | .expected => act q s
    | .old => again q s
    | .ahead => s.qpAnswer f.qp .nakSeq q.rpsn

/-- A request received before is acknowledged again. -/
def reAck (f : RoceIn) (q : Qp) (s : State) : State := s.qpAnswer f.qp .ack (q.rpsn - 1)

/-- The receive ring is full once RQCONS has been read from memory again. -/
def State.ringFull (s : State) (n : BitVec 12) : State × Bool :=
  let q := s.qp n
  let full (q : Qp) : Bool := (q.rqprod - q.rqcons).toNat == q.rqSlots
  if full q then
    let (s, e) := s.readEntry s.fab.qpbase 16 n.toNat
    let s := s.modQp n fun q => { q with entry := setEw q.entry 6 (putFld (ew q.entry 6) 32 32 (nfld (ew e 6) 32 32)) }
    (s, full (s.qp n))
  else (s, false)

/-- A SEND of at most one slot. -/
def State.recvSend (s : State) (f : RoceIn) (data : List Byte) : State :=
  if data.length > 4096 then s.qpAnswer f.qp .nakInvalid f.psn
  else
    let (s, full) := s.ringFull f.qp
    if full then s.qpAnswer f.qp .rnr f.psn
    else
      let q := s.qp f.qp
      let slot := nfld (ew q.entry 5) 12 36 * 4096 + 4096 * (q.rqprod.toNat % q.rqSlots)
      match s.blockWrite .fabric q.ctx slot data with
      | (s, .error _) => s.qpAnswer f.qp .nakAccess f.psn
      | (s, .ok _) =>
        let prod := q.rqprod + 1
        let s := (s.modQp f.qp fun q => { q with entry := setEw q.entry 7 (putFld (ew q.entry 7) 32 32 prod.toNat) }).qpWriteBack f.qp
        (s.send ⟨q.rqfence, prod.setWidth 64, false, .block⟩).qpAccept f 1 true

/-- ROCE_SEND_RX. -/
def execRoceSendRx (f : RoceIn) (data : List Byte) (s : State) : Out :=
  roceRequest f s (fun _ s => s.recvSend f data) (reAck f)

/-- ROCE_READ_RESP_RX: the module issues no RDMA READ, so no request waits for a response, and it is dropped. -/
def execRoceReadRespRx (f : RoceIn) (_data : List Byte) (s : State) : Out := roceRx f s fun _ s => s.dropOn (pathPort f.path)

/-- ROCE_UNSUPPORTED_RX. -/
def execRoceUnsupportedRx (f : RoceIn) (s : State) : Out :=
  roceRx f s fun _ s => s.qpAnswer f.qp .nakInvalid f.psn

/-- CNP_RX. -/
def execCnpRx (f : RoceIn) (s : State) : Out := roceRx f s fun _ s => s.modQp f.qp fun q => q.cut s.tick

/-! ### Acknowledgements (R372) -/

/-- The packet lies at or below the acknowledged PSN. -/
def covered (psn : BitVec 24) (x : QpReq) : Bool := x.sent && decide ((psn - x.psn).toNat < 2 ^ 23)

/-- Packets up to a PSN are acknowledged and their requests advance. -/
def State.qpAcked (s : State) (n : BitVec 12) (psn : BitVec 24) : State :=
  let q := s.qp n
  let got := q.out.filter (covered psn)
  let s := s.setQp n { q with
    out := q.out.filter fun x => !covered psn x, retries := if got.isEmpty then q.retries else 0 }
  got.foldl (fun s x => match x.req with
    | some id => s.modReq id fun r => { r with done := r.done + 1 }
    | none => s) s

/-- Go back: every packet not acknowledged is sent again. -/
def State.goBack (s : State) (n : BitVec 12) : State :=
  s.modQp n fun q => { q with out := q.out.map fun x => { x with sent := false } }

/-- One transport retry, or ERROR where RETRY of them are used up. -/
def State.retry (s : State) (n : BitVec 12) : State :=
  let q := s.qp n
  if q.retries < q.retry then (s.setQp n { q with retries := q.retries + 1 }).goBack n else s.qpError n

/-- ROCE_ACK_RX: an RNR NAK and a sequence NAK acknowledge what lies before them; an RNR NAK uses up no retry, and a NAK
that reports an error puts the queue pair in ERROR (log entry 31). A PSN that is not outstanding is dropped. -/
def execRoceAckRx (f : RoceIn) (kind : AckKind) (s : State) : Out :=
  roceRx f s fun q s =>
    if !(q.out.any fun x => x.sent && x.psn == f.psn) then s
    else match kind with
      | .ack => s.qpAcked f.qp f.psn
      | .rnr => (s.qpAcked f.qp (f.psn - 1)).goBack f.qp
      | .nakSeq => (s.qpAcked f.qp (f.psn - 1)).retry f.qp
      | .nakFatal => (s.qpAcked f.qp (f.psn - 1)).qpError f.qp

/-- ROCE_ACK_TIMEOUT: a packet has waited for TIMEOUT. -/
def execRoceAckTimeout (n : BitVec 12) (s : State) : Out :=
  guard (s.fabOn && (s.qp n).ready &&
      (s.qp n).out.any fun x => x.sent && decide (10 * (s.tick - x.at').toNat ≥ (s.qp n).timeout))
    "no packet has waited for TIMEOUT" (s.retry n)

/-! ### PORT instructions (R232, R233, R388, R389) -/

/-- How a block answers a request. -/
inductive Answer where
  | accept (s : State)
  | refuse (s : State) (code : Nat)
  | full (s : State)

/-- A PORT instruction: all earlier work of the stream is complete, the fence is checked, the descriptor is read with the
rights of the issuing context as the block's master, and the block accepts or refuses. -/
def portIssue (p : Site) (i : Instr) (o : LayP) (m : Master) (s : State)
    (body : At → State → (fence : BitVec 14) → (value : Word) → (desc : List Word) → Answer) : Out :=
  issue p i s fun a s =>
    if (s.core a.c).anyPending a.t a.seqNo then .stall s .full
    else
      match s.checkFence a o.fence o.reg o.rf true with
      | (s, none) => .trap s .fenceRight (fenceDetail s a o.fence o.reg o.rf) 0
      | (s, some f) =>
        match s.blockRead m (s.ctxOf a.c) ((s.rx a o.rdesc).toNat % 2 ^ 48 / 64 * 64) 64 with
        | (s, .error _) => .trap s .port 1 (BitVec.ofNat 48 ((s.rx a o.rdesc).toNat % 2 ^ 48 / 64 * 64))
        | (s, .ok bs) =>
          match body a s f (s.rx a o.rv) (leWords 8 bs) with
          | .accept s => .done s
          | .refuse s code => .trap s .port (BitVec.ofNat 64 code) 0
          | .full s => .stall s .full

/-- A request enters the fabric block. -/
def State.addReq (s : State) (r : Req) : State :=
  s.modFab fun b => { b with reqs := b.reqs ++ [{ r with id := b.nextReq }], nextReq := b.nextReq + 1 }

/-- The blank request. -/
def reqNone : Req :=
  { id := 0, kind := .serve 0, by' := .peer, ctx := 0, laddr := 0, raddr := 0, len := 0, bytes := none, msgid := 0,
    fence := 0, value := 0, total := 0, queued := 0, done := 0, signalSent := false, signalAcked := false }

/-- NSEND's reserved fields are zero. -/
def nsendFormat (ws : List Word) : Bool :=
  only (ew ws 0) 0xFFF000FFFFFFFFFF && only (ew ws 1) dvaMask && (ws.drop 2).all fun w => w == 0

/-- NSEND: refusals in the order of their codes. -/
def execNsend (p : Site) (o : LayP) (s : State) : Out :=
  portIssue p (.nsend p o) o .fabric s fun a s f v ws =>
    let n : BitVec 12 := (ew ws 0 >>> 52).setWidth 12
    let len := nfld (ew ws 0) 0 40
    let q := s.qp n
    if !nsendFormat ws then .refuse s 2
    else if q.ctx ≠ s.ctxOf a.c then .refuse s 3
    else if len = 0 ∨ len > 2 ^ 31 then .refuse s 0x12
    else if !q.ready then .refuse s 0x13
    else .accept (s.addReq { reqNone with
      kind := .nsend n, by' := .program, ctx := s.ctxOf a.c, laddr := addr48 (ew ws 1), len := len, fence := f, value := v,
      total := mtuPackets len })

/-- A request of a program is complete: its fence is signalled. -/
def completeReq (s : State) (id : Nat) (kind : Req → Bool) (ready : Req → Bool) : Out :=
  match s.fab.reqs.find? fun r => r.id == id with
  | some r => guard (s.fabOn && r.by' == .program && kind r && ready r) "the request is not complete"
      ((s.dropReq id).send ⟨r.fence, r.value, false, .block⟩)
  | none => .refused (.notEnabled "there is no such request")

/-- NSEND_COMPLETE. -/
def execNsendComplete (id : Nat) (s : State) : Out :=
  completeReq s id (fun r => match r.kind with
    | .nsend _ => true
    | _ => false) fun r => r.done == r.total

end Sys2Proof.Machine
end

