-- ==== Sys2Proof/Machine/Nct.lean ====
section
/-! DEFINITION. NCT: sessions, keys, packets, placement, loss, window, paths and the requests NPUT and NGET (R375-R391,
R393). Packets are sealed and opened with AES-256-GCM under the session's key slots (R379). -/
namespace Sys2Proof.Machine

/-! ### Session fields (R394) -/

def State.sess (s : State) (i : BitVec 10) : Sess := Tbl.get Sess.reset s.fab.sess i.toNat
def State.setSess (s : State) (i : BitVec 10) (x : Sess) : State :=
  s.modFab fun b => { b with sess := Tbl.set Sess.reset b.sess i.toNat x }
def State.modSess (s : State) (i : BitVec 10) (f : Sess → Sess) : State := s.setSess i (f (s.sess i))

def Sess.ctx (x : Sess) : BitVec 9 := (x.cfg >>> 51).setWidth 9
def Sess.pgen (x : Sess) : BitVec 16 := (x.cfg >>> 35).setWidth 16
def Sess.role (x : Sess) : Bool := x.cfg.getLsbD 62
def Sess.peer (x : Sess) : Nat := nfld x.cfg 25 10
def Sess.peerSess (x : Sess) : BitVec 16 := BitVec.ofNat 16 (nfld x.cfg 15 10)
def Sess.key (x : Sess) (slot : Bool) : Option (BitVec 256) := if slot then x.key1 else x.key0
def Sess.sentIn (x : Sess) (slot : Bool) : Nat := if slot then x.sent1 else x.sent0
/-- CONNECTING or UP. -/
def Sess.works (x : Sess) : Bool := x.mode == .connecting || x.mode == .up
/-- A packet may be sent: the sending slot is valid and not used up (R376, R380). -/
def Sess.maySend (x : Sess) : Bool := x.works && (x.key x.txSlot).isSome && decide (x.sentIn x.txSlot < 2 ^ 40)
/-- Packets in flight (R385). -/
def Sess.inFlight (x : Sess) : Nat := (x.out.filter fun y => !y.lost).length
/-- One packet more still leaves fewer than floor(W ÷ 256) in flight. -/
def Sess.room (x : Sess) : Bool := decide (x.inFlight + 1 < x.w / 256)

/-- Bits of `nct.sess.cfg` that a write sets. -/
def cfgMask : Word := 0xCFFFFFFFFFFF8000

/-! ### SESSION_ENABLE, SESSION_DISABLE, SESSION_LOST (R376) -/

/-- The messages of a session fail, and its send side is forgotten. -/
def State.sessEnd (s : State) (i : BitVec 10) (m : SessMode) (code : Nat) : State :=
  (s.failReqs (fun r => r.sess? == some i) i.toNat code).modSess i fun x => { x with mode := m, out := [], refused := [] }

/-- VALID written 1: a session that is OFF takes the other fields and becomes CONNECTING, with its counters and PSNs at
zero; one that is VALID keeps everything. -/
def State.sessOn (s : State) (i : BitVec 10) (v : Word) : State :=
  s.modSess i fun x =>
    if x.mode ≠ .off then x
    else { Sess.reset with
      cfg := v &&& cfgMask, mode := .connecting, win := x.win, rekeyDue := x.rekeyDue, keyBusy := x.keyBusy,
      txSlot := x.txSlot, key0 := x.key0, key1 := x.key1, sent0 := x.sent0, sent1 := x.sent1,
      w := 256 * nfld s.fab.nctWin 16 16, heard := s.tick }

/-- VALID written 0: OFF at once, both key slots cleared, messages in flight fail with SESSION_RESET; the other fields
are written where VALID was 0 already. -/
def State.sessOff (s : State) (i : BitVec 10) (v : Word) : State :=
  let was := (s.sess i).mode != .off
  let s := if was then s.sessEnd i .off 5 else s
  s.modSess i fun x => { x with
    cfg := if was then x.cfg &&& 0x7FFFFFFFFFFFFFFF else v &&& cfgMask
    key0 := none, key1 := none, sent0 := 0, sent1 := 0, txSlot := false }

/-- A write of `nct.sess.cfg`. -/
def State.sessCfg (s : State) (i : BitVec 10) (v : Word) : State := if v.getLsbD 63 then s.sessOn i v else s.sessOff i v

def execSessionEnable (m : RegMaster) (i : BitVec 10) (v : Word) (s : State) : Out :=
  guard (s.busOpen m && v.getLsbD 63) "VALID is not written 1" (s.sessCfg i v)
def execSessionDisable (m : RegMaster) (i : BitVec 10) (v : Word) (s : State) : Out :=
  guard (s.busOpen m && !v.getLsbD 63) "VALID is not written 0" (s.sessCfg i v)

/-- RTO and DEAD of `nct.glob.ctl` in ticks. -/
def Fabric.rto (b : Fabric) : Nat := 25 * nfld b.nctCtl 32 16
def Fabric.dead (b : Fabric) : Nat := 25000 * nfld b.nctCtl 16 16

/-- SESSION_LOST: no packet of the peer's has passed R378 for DEAD. -/
def execSessionLost (i : BitVec 10) (s : State) : Out :=
  guard (s.fabOn && (s.sess i).works && decide ((s.tick - (s.sess i).heard).toNat ≥ s.fab.dead))
    "the session has not been silent for DEAD"
    ((s.sessEnd i .lost 4).modFab fun b => { b with sessLost := true })

/-! ### Keys (R380) -/

/-- SWITCH: to the other slot, where it is valid; a refusal sets KEY_BUSY (log entry 32). -/
def State.keySwitchOp (s : State) (i : BitVec 10) : State :=
  s.modSess i fun x => if (x.key !x.txSlot).isSome then { x with txSlot := !x.txSlot } else { x with keyBusy := true }

/-- RETIREs: not the sending slot, and none with packets of it unacknowledged. -/
def State.keyRetireOp (s : State) (i : BitVec 10) (slot : Bool) : State :=
  s.modSess i fun x =>
    if x.txSlot == slot || x.out.any fun y => y.p.kepoch == slot then { x with keyBusy := true }
    else if slot then { x with key1 := none } else { x with key0 := none }

def execKeySwitch (m : RegMaster) (i : BitVec 10) (s : State) : Out := guard (s.busOpen m) "no register path" (s.keySwitchOp i)
def execKeyRetire (m : RegMaster) (i : BitVec 10) (slot : Bool) (s : State) : Out :=
  guard (s.busOpen m) "no register path" (s.keyRetireOp i slot)

/-! ### Sending (R375, R377, R379, R384-R387) -/

/-- The address of an entry of a peer or site table on a plane, and whether the read met poison; none where the entry is not
VALID (R375, R395). -/
def State.tableAddr (s : State) (m : Master) (base : Word) (entry plane : Nat) : State × Option (BitVec 128) × Bool :=
  let r := s.mem.readBytes m (some 0) (nfld base 21 27 * 0x200000 + 64 * entry) 64 s.tick
  let valid := (ew (leWords 8 r.2.1) 4).getLsbD 63
  ({ s with mem := r.1 }, if valid then some (addrOf ((r.2.1.drop (16 * plane)).take 16)) else none, r.2.2)

/-- The paths in the order of the spray pointer (R386). -/
def sprayOrder (spray : Nat) : List Nat := (List.range 16).map fun i => (spray + i) % 16

/-- The next usable path, of the other plane than `avoid` where one is (R384, R386). -/
def Fabric.nextPath (b : Fabric) (avoid : Option Nat) : Option Nat :=
  let ps := (sprayOrder b.spray).filter fun n => b.usable n
  match avoid with
  | some pl => match ps.find? fun n => pathPlane n != pl with
    | some n => some n
    | none => ps.head?
  | none => ps.head?

/-- The header of the session's next packet. -/
def nctHeader (x : Sess) (path : Nat) (typ : BitVec 4) : NctPkt :=
  { (default : NctPkt) with
    ver := 1, typ := typ, kepoch := x.txSlot, role := x.role, port := BitVec.ofNat 3 (path / 2), pgen := x.pgen,
    dsess := x.peerSess, psn := x.txPsn }

/-- Seal a packet under the slot its header names (R379). -/
def Sess.sealed (x : Sess) (p : NctPkt) : NctPkt := nctSeal ((x.key p.kepoch).getD 0) p

/-- A path carries a packet that waits for its acknowledgement (R387). -/
def Path.waits (x : Path) (tick : Word) : Path := { x with since := x.since.orElse fun _ => some tick }

/-- The headers of an NCT packet's frame: the source port of R386, UDPPORT, and the traffic class of ACK and NAK or of the
other types. -/
def State.nctFrame (s : State) (path : Nat) (dst : BitVec 128) (p : NctPkt) : FrameHdr :=
  s.fab.frameHdr path dst (nfld s.fab.dscp (if p.typ = 1 ∨ p.typ = 5 then 6 else 0) 6)
    (BitVec.ofNat 16 (0xC000 + 64 * p.port.toNat + p.psn.toNat % 64)) ((s.fab.nctCtl >>> 48).setWidth 16)

/-- A packet goes out on a path, to the peer's address on its plane. A peer entry that is not VALID gives no address, and
nothing leaves. -/
def State.nctEmit (s : State) (i : BitVec 10) (path : Nat) (p : NctPkt) : State :=
  let (s, a, _) := s.tableAddr .fabric s.fab.peerbase (s.sess i).peer (pathPlane path)
  match a with
  | none => s
  | some dst =>
    let s := if p.typ = 1 then s else s.modPath (Fin.ofNat 16 path) fun x => x.waits s.tick
    (s.modFab fun b => { b with spray := (path + 1) % 16 }).sendOn path (.packet path (s.nctFrame path dst p) (.nct p))

/-- Count a packet under the sending slot. -/
def Sess.countKey (x : Sess) : Sess :=
  let x := if x.txSlot then { x with sent1 := x.sent1 + 1 } else { x with sent0 := x.sent0 + 1 }
  if x.sentIn x.txSlot ≥ 2 ^ 39 then { x with rekeyDue := true } else x

/-- Send a new reliable packet: it takes the next PSN, is sealed, and is kept. -/
def State.nctNew (s : State) (i : BitVec 10) (path : Nat) (p : NctPkt) (req : Option Nat) : State :=
  let p := (s.sess i).sealed p
  (s.modSess i fun x => { x.countKey with
    txPsn := x.txPsn + 1
    out := x.out ++ [{ p := p, req := req, lost := false, retx := false, path := path, at' := s.tick, higher := 0 }] }).nctEmit i path p

/-- Send a kept packet again, bit for bit. -/
def State.nctAgain (s : State) (i : BitVec 10) (path : Nat) (y : Sent) : State :=
  let s := s.modSess i fun x => { x with
    retx := x.retx + 1
    out := x.out.map fun z => if z.p.psn = y.p.psn then { z with lost := false, retx := true, path := path, at' := s.tick, higher := 0 } else z }
  (s.modPath (Fin.ofNat 16 path) fun x => { x with retx := x.retx + 1 }).nctEmit i path y.p

/-- An ACK of what has been received (R377, R383). -/
def ackPacket (x : Sess) (path : Nat) : NctPkt :=
  { nctHeader x path 1 with
    psn := x.txAck, ce := BitVec.ofNat 16 x.ceRx, cum := x.cum, newc := BitVec.ofNat 16 x.newRx
    sack := (List.range 64).foldl (fun (a : BitVec 64) k =>
      if x.rxSet.contains (x.cum + 1 + BitVec.ofNat 48 k) then a ||| (1#64 <<< k) else a) 0 }

/-- Send an ACK where the session can send and a path is usable. -/
def State.sendAck (s : State) (i : BitVec 10) : State :=
  let x := s.sess i
  match s.fab.nextPath none with
  | some path =>
    if x.maySend then
      (s.setSess i { x.countKey with txAck := x.txAck + 1, newRx := 0, ceRx := 0, unacked := 0 }).nctEmit i path (x.sealed (ackPacket x path))
    else s
  | none => s

/-! ### What a session sends next (R381, R382, R388) -/

/-- 4 KiB blocks that [d, d + n) touches (R381). -/
def nctBlocks (d n : Nat) : Nat := (d % 4096 + n + 4095) / 4096

/-- Offset and length of the part of a message in block j of its destination. -/
def nctPart (d n j : Nat) : Nat × Nat :=
  let lo := if j = 0 then 0 else 4096 * j - d % 4096
  let hi := Min.min n (4096 * (j + 1) - d % 4096)
  (lo, hi - lo)

/-- What of a request goes out now. -/
inductive NctNext where
  | data
  | signal (f : BitVec 14) (v : Word)
  | read
deriving DecidableEq, Repr

def Req.next (r : Req) : Option NctNext :=
  match r.kind with
  | .nput _ rf =>
    if r.queued < r.total then some .data
    else match rf with
      | some (f, v) => if r.done = r.total ∧ !r.signalSent then some (.signal f v) else none
      | none => none
  | .nget _ => if r.signalSent then none else some .read
  | .serve _ => if r.queued < r.total then some .data else none
  | _ => none

/-- Send the next packet of a request. -/
def State.nctSendReq (s : State) (i : BitVec 10) (path : Nat) (r : Req) (w : NctNext) : State :=
  let h := nctHeader (s.sess i) path
  match w with
  | .data =>
    let (off, n) := nctPart r.raddr.toNat r.len r.queued
    match s.reqChunk r off n with
    | (s, .error _) => s.failReq r i.toNat 6
    | (s, .ok bs) =>
      (s.nctNew i path { h 0 with msgid := r.msgid, addr := addr48 (r.raddr + BitVec.ofNat 64 off), mpkts := BitVec.ofNat 32 r.total, payload := bs } (some r.id)).modReq
        r.id fun r => { r with queued := r.queued + 1 }
  | .signal f v =>
    (s.nctNew i path { h 3 with msgid := r.msgid, payload := leBytes 8 f.toNat ++ leBytes 8 v.toNat } (some r.id)).modReq r.id
      fun r => { r with signalSent := true }
  | .read =>
    (s.nctNew i path { h 2 with msgid := r.msgid, payload := leBytes 8 r.raddr.toNat ++ leBytes 8 r.len ++ leBytes 8 r.laddr.toNat }
      (some r.id)).modReq r.id fun r => { r with signalSent := true }

/-- The NAK of a refused packet goes out. -/
def State.nctSendNak (s : State) (i : BitVec 10) (path : Nat) (f : Refused) : State :=
  let x := s.sess i
  (s.modSess i fun x => { x with refused := x.refused.map fun g => if g.psn = f.psn then { g with nak := some x.txPsn } else g }).nctNew
    i path { nctHeader x path 5 with msgid := f.msgid, code := f.code } none

/-- What a session has to send: a lost packet, a NAK, or a part of a request. -/
inductive NctWork where
  | again (y : Sent)
  | nak (f : Refused)
  | req (r : Req) (w : NctNext)

def State.nctWork (s : State) (i : BitVec 10) : Option NctWork :=
  let x := s.sess i
  match x.out.find? fun y => y.lost with
  | some y => some (.again y)
  | none =>
    if x.mode ≠ .up then none
    else match x.refused.find? fun f => f.nak.isNone with
      | some f => some (.nak f)
      | none => (s.fab.reqs.filter fun r => r.sess? == some i).findSome? fun r => r.next.map (NctWork.req r)

/-- NCT_PACKET_SEND. -/
def execNctPacketSend (i : BitVec 10) (s : State) : Out :=
  let x := s.sess i
  match s.nctWork i with
  | none => .refused (.notEnabled "the session has nothing to send")
  | some w =>
    let avoid := match w with
      | .again y => some (pathPlane y.path)
      | _ => none
    match s.fab.nextPath avoid with
    | none => .refused (.notEnabled "no path is usable")
    | some path =>
      guard (s.fabOn && x.maySend && x.room && !s.fab.held path) "the session may not send"
        (match w with
         | .again y => s.nctAgain i path y
         | .nak f => s.nctSendNak i path f
         | .req r n => s.nctSendReq i path r n)

/-- A PROBE is due: a CONNECTING session sends one in RTO on the next path of the round (R386), and a SUSPECT path carries one in
RTO. -/
def State.probeDue (s : State) (x : Sess) (path : Fin 16) : Bool :=
  let mode := s.fab.pathMode path.val
  (x.mode == .connecting && s.fab.nextPath none == some path.val && sinceTick x.probeAt s.tick s.fab.rto) ||
    (mode == .suspect && sinceTick (s.fab.paths[path]).probeAt s.tick s.fab.rto)

/-- NCT_PROBE_SEND. -/
def execNctProbeSend (i : BitVec 10) (path : Fin 16) (s : State) : Out :=
  let x := s.sess i
  guard (s.fabOn && x.maySend && x.room && !s.fab.held path.val && s.probeDue x path) "no PROBE is due"
    (let s := if s.fab.pathMode path.val = .suspect then s.modPath path fun y => { y with probeAt := some s.tick }
       else s.modSess i fun y => { y with probeAt := some s.tick }
     s.nctNew i path.val (nctHeader x path.val 4) none)

/-- NCT_ACK_TIMER: 2 µs after the first packet not acknowledged. -/
def execNctAckTimer (i : BitVec 10) (s : State) : Out :=
  guard (s.fabOn && (s.sess i).maySend && decide ((s.sess i).unacked > 0) && (s.fab.nextPath none).isSome &&
      decide ((s.tick - (s.sess i).ackSince).toNat ≥ 50))
    "nothing waits for an ACK" (s.sendAck i)

/-- NCT_RTO: RTO after it was last sent the packet is lost and goes out again, where the session may send. -/
def execNctRto (i : BitVec 10) (psn : BitVec 48) (s : State) : Out :=
  let x := s.sess i
  match x.out.find? fun y => y.p.psn == psn && !y.lost with
  | none => .refused (.notEnabled "the packet is not in flight")
  | some y =>
    guard (s.fabOn && x.works && decide ((s.tick - y.at').toNat ≥ s.fab.rto)) "the packet's RTO has not passed"
      (let s := s.modSess i fun x => { x with out := x.out.map fun z => if z.p.psn = psn then { z with lost := true } else z }
       match s.fab.nextPath (some (pathPlane y.path)) with
       | some path => if x.maySend && (s.sess i).room && !s.fab.held path then s.nctAgain i path y else s
       | none => s)

/-- For 4 × RTO no packet sent on a path has been acknowledged, while another path has had an acknowledgement (log entry
26). -/
def State.suspectDue (s : State) (path : Fin 16) : Bool :=
  let n := 4 * s.fab.rto
  (match (s.fab.paths[path]).since with
   | some t => decide ((s.tick - t).toNat ≥ n)
   | none => false) &&
    (List.finRange 16).any fun k => k != path && match (s.fab.paths[k]).ackAt with
      | some t => decide ((s.tick - t).toNat ≤ n)
      | none => false

/-- PATH_SUSPECT. -/
def execPathSuspect (path : Fin 16) (s : State) : Out :=
  guard (s.fabOn && s.fab.usable path.val && s.suspectDue path) "the path is not without ACKs" (s.setPath path .suspect)

/-! ### Receiving (R378, R383) -/

/-- The received packet has been noted before. -/
def Sess.seen (x : Sess) (psn : BitVec 48) : Bool := decide (psn.toNat < x.cum.toNat) || x.rxSet.contains psn

/-- Move CUM over what has been received. -/
def advanceCum : (fuel : Nat) → BitVec 48 → List (BitVec 48) → BitVec 48 × List (BitVec 48)
  | 0, c, l => (c, l)
  | n + 1, c, l => if l.contains c then advanceCum n (c + 1) (l.filter (· ≠ c)) else (c, l)

/-- A PSN is received. -/
def Sess.mark (x : Sess) (psn : BitVec 48) : Sess :=
  let l := psn :: x.rxSet
  let (c, l) := advanceCum l.length x.cum l
  { x with cum := c, rxSet := l, unacked := x.unacked + 1 }

/-- Mark a packet as received; the sixteenth sends an ACK. -/
def State.nctMark (s : State) (i : BitVec 10) (psn : BitVec 48) (data ce : Bool) : State :=
  let s := s.modSess i fun x =>
    let x := { x.mark psn with ackSince := if x.unacked = 0 then s.tick else x.ackSince }
    if data then { x with newRx := x.newRx + 1, ceRx := x.ceRx + ce.toNat } else x
  if (s.sess i).unacked ≥ 16 then s.sendAck i else s

/-- The session a packet names. -/
def pktSess (p : NctPkt) : Option (BitVec 10) := if p.dsess.toNat < 1024 then some (p.dsess.setWidth 10) else none

/-- The checks of R378, with the counters of each drop, and the opened packet; `none` where the packet is dropped. A
datagram to another port than UDPPORT is no NCT packet. -/
def State.nctCheck (s : State) (u : Udp) (p : NctPkt) : State × Option (BitVec 10 × NctPkt) :=
  let drop (s : State) : State := s.dropOn (pathPort u.path)
  match pktSess p with
  | none => (drop s, none)
  | some i =>
    let x := s.sess i
    if u.dport ≠ (s.fab.nctCtl >>> 48).setWidth 16 ∨ p.ver ≠ 1 ∨ !x.works then (drop s, none)
    else if p.pgen ≠ x.pgen then ((drop s).modSess i fun x => { x with stale := satAdd16 x.stale }, none)
    else match x.key p.kepoch with
      | none => (drop s, none)
      | some k =>
        match nctOpen k p with
        | none => ((drop s).modSess i fun x => { x with authfail := satAdd16 x.authfail }, none)
        | some q =>
          if p.typ ≠ 1 ∧ p.psn.toNat ≥ x.cum.toNat + 16384 then (drop s, none)
          else (s.modSess i fun x => { x with heard := s.tick }, some (i, q))

/-- An NCT packet of a type arrives; the body meets it opened. -/
def nctRx (u : Udp) (p : NctPkt) (typ : BitVec 4) (s : State) (body : BitVec 10 → NctPkt → State → State) : Out :=
  guard (s.fabOn && s.fab.linked u.path && p.typ == typ) "no such packet arrives"
    (let s := (s.meshDemand.rxOn u.path).modPath u.path fun x => { x with rx := x.rx + 1, ce := x.ce + (if u.ce then 1 else 0) }
     match s.nctCheck u p with
     | (s, none) => s
     | (s, some (i, q)) => body i q s)

/-- A reliable packet: one received before is dropped and causes an ACK; one refused before waits for its NAK. -/
def nctReliable (u : Udp) (p : NctPkt) (typ : BitVec 4) (s : State) (body : BitVec 10 → NctPkt → State → State) : Out :=
  nctRx u p typ s fun i q s =>
    let x := s.sess i
    if x.seen p.psn then (s.dropOn (pathPort u.path)).sendAck i
    else if x.refused.any fun f => f.psn == p.psn then s.dropOn (pathPort u.path)
    else body i q s

/-- Refuse a packet (R382): its NAK waits to be sent. -/
def State.nctRefuse (s : State) (i : BitVec 10) (p : NctPkt) (code : BitVec 8) : State :=
  s.modSess i fun x => { x with refused := x.refused ++ [{ psn := p.psn, msgid := p.msgid, code := code, nak := none }] }

/-- [d, d + n) lies in the session window with the right asked for (R394 `nct.sess.win`). -/
def Sess.window (x : Sess) (write : Bool) (d n : Nat) : Bool :=
  let base := nfld x.win 21 27 * 0x200000
  x.win.getLsbD (if write then 49 else 48) && decide (base ≤ d) && decide (d + n ≤ base + nfld x.win 52 12 * 0x200000)

/-- The NGET a DATA packet answers: its MSGID, and a destination that holds the packet's (log entry 33). -/
def State.ngetOf (s : State) (i : BitVec 10) (p : NctPkt) : Option Req :=
  s.fab.reqs.find? fun r => r.kind == .nget i && r.msgid == p.msgid && decide (r.laddr.toNat ≤ p.addr.toNat) &&
    decide (p.addr.toNat + p.payload.length ≤ r.laddr.toNat + r.len)

/-- A packet of an NGET has been placed. -/
def State.ngetStep (s : State) (r : Option Req) : State :=
  match r with
  | some r => s.modReq r.id fun r => { r with done := r.done + 1 }
  | none => s

/-- A local request whose placement fails (R390). -/
def State.ngetFault (s : State) (i : BitVec 10) (r : Option Req) : State :=
  match r with
  | some r => s.failReq r i.toNat 6
  | none => s

/-- A READ of a TRANSIT.pull, over its session (R423); the beacon's value is kept, the regions are placed. The peer's
regions are read at the addresses of this module's own `tr.reg` registers (log entry 35). -/
def State.pullRead (s : State) (i : BitVec 10) (addr : Word) (len : Nat) (keep : Bool) : State :=
  (s.addReq { reqNone with
    kind := .nget i, by' := .pull, ctx := s.tr.ctx, laddr := addr48 addr, raddr := addr, len := len,
    bytes := if keep then some [] else none, msgid := (s.sess i).txMsg, total := nctBlocks addr.toNat len }).modSess i
    fun x => { x with txMsg := x.txMsg + 1 }

/-- The address bits of a region register that count: 1 KiB alignment, for the beacon 8 B. -/
def trRegMask (i : Fin 11) : Word := if i = 10 then 0x0000FFFFFFFFFFF8 else 0x0000FFFFFFFFFC00
/-- The address a region register names. DESIGN CHOICE (log entry 27): an address written off its alignment is held and read
back as written (R14), and the region starts at the aligned address below it. -/
def Transit.addr (t : Transit) (i : Fin 11) : Word := t.regs[i] &&& trRegMask i

/-- The finished READ of a pull brings its next stage. -/
def State.pullAdvance (s : State) : State :=
  match s.tr.pull, s.fab.reqs.find? fun r => r.by' == .pull && r.done == r.total with
  | some p, some r =>
    let got : Word := BitVec.ofNat 64 (leNat (r.bytes.getD []))
    let a := if p.stage = 0 then got else p.first
    let odd := (nfld a 0 48) % 2
    let len := 1024 * nfld s.tr.blocks 0 32
    let s := s.dropReq r.id
    let put (p : Pull) (s : State) : State := s.modTr fun t => { t with pull := some p }
    match p.stage with
    | 0 => (put { p with stage := 1, first := a } s).pullRead p.sess (s.tr.addr (Fin.ofNat 11 (1 + odd))) len false
    | 1 => (put { p with stage := 2 } s).pullRead p.sess (s.tr.addr (Fin.ofNat 11 (3 + odd))) len false
    | 2 => (put { p with stage := 3 } s).pullRead p.sess (s.tr.addr 10) 8 true
    | _ => put { p with stage := 4, second := got } s
  | _, _ => s

/-- Place a DATA packet, or refuse it (R382). What a TRANSIT.pull reads for itself is kept and not written. -/
def State.nctPlace (s : State) (i : BitVec 10) (p : NctPkt) (ce : Bool) : State :=
  let r := s.ngetOf i p
  match r.bind fun r => r.bytes with
  | some bs => ((s.nctMark i p.psn true ce).ngetStep r).modReq ((r.map Req.id).getD 0) fun r => { r with bytes := some (bs ++ p.payload) }
  | none =>
    if !(s.sess i).window true p.addr.toNat p.payload.length then (s.nctRefuse i p 1).ngetFault i r
    else match s.blockWrite .fabric (s.sess i).ctx p.addr.toNat p.payload with
      | (s, .error _) => (s.nctRefuse i p 3).ngetFault i r
      | (s, .ok _) => (s.nctMark i p.psn true ce).ngetStep r

def execNctDataRx (u : Udp) (p : NctPkt) (s : State) : Out := nctReliable u p 0 s fun i q s => (s.nctPlace i q u.ce).pullAdvance

/-- Serve a READ, or refuse it. -/
def State.nctServe (s : State) (i : BitVec 10) (p : NctPkt) : State :=
  let ws := leWords 3 p.payload
  let src := (ew ws 0).toNat
  let len := (ew ws 1).toNat
  let dst := ew ws 2
  if !(s.sess i).window false src len then s.nctRefuse i p 1
  else match s.blockPages (s.sess i).ctx false src len with
    | (s, .error _) => s.nctRefuse i p 3
    | (s, .ok _) =>
      (s.nctMark i p.psn false false).addReq { reqNone with
        kind := .serve i, by' := .peer, ctx := (s.sess i).ctx, laddr := BitVec.ofNat 48 src, raddr := dst, len := len,
        msgid := p.msgid, total := if len = 0 then 0 else nctBlocks dst.toNat len }

def execNctReadRx (u : Udp) (p : NctPkt) (s : State) : Out := nctReliable u p 2 s fun i q s => s.nctServe i q

/-- Signal a local fence, or refuse (R353, R382). -/
def State.nctSignal (s : State) (i : BitVec 10) (p : NctPkt) : State :=
  let ws := leWords 2 p.payload
  let f : BitVec 14 := (ew ws 0).setWidth 14
  let c := (s.sess i).ctx
  let s := (s.loadCtx c).loadFence f
  if maySignal c (s.ctxE c) (s.fenceE f) then (s.nctMark i p.psn false false).send ⟨f, ew ws 1, false, .block⟩
  else s.nctRefuse i p 2

def execNctSignalRx (u : Udp) (p : NctPkt) (s : State) : Out := nctReliable u p 3 s fun i q s => s.nctSignal i q

/-- NCT_PROBE_RX: the probe is received, and its ACK follows as any other's. -/
def execNctProbeRx (u : Udp) (p : NctPkt) (s : State) : Out :=
  nctReliable u p 4 s fun i q s => s.nctMark i q.psn false false

/-- The message a NAK names fails: a request of this end, else the serving of a peer's READ. -/
def State.nctNaked (s : State) (i : BitVec 10) (p : NctPkt) : State :=
  let own := s.fab.reqs.find? fun r => r.sess? == some i && r.msgid == p.msgid && r.by' != .peer
  let r := match own with
    | some r => some r
    | none => s.fab.reqs.find? fun r => r.sess? == some i && r.msgid == p.msgid
  match r with
  | some r => s.failReq r i.toNat p.code.toNat
  | none => s

def execNctNakRx (u : Udp) (p : NctPkt) (s : State) : Out :=
  nctReliable u p 5 s fun i q s => (s.nctMark i q.psn false false).nctNaked i q

/-! ### NCT_ACK_RX (R376, R384, R385, R387) -/

/-- An ACK shows the PSN received. -/
def shows (p : NctPkt) (psn : BitVec 48) : Bool :=
  decide (psn.toNat < p.cum.toNat) ||
    (decide (p.cum.toNat < psn.toNat) && decide (psn.toNat ≤ p.cum.toNat + 64) && p.sack.getLsbD (psn.toNat - p.cum.toNat - 1))

/-- Count the higher PSNs newly shown received; three of them declare a packet lost. -/
def Sent.pass (y : Sent) (got : List (BitVec 48)) : Sent :=
  let n := y.higher + (got.filter fun g => decide (g.toNat > y.p.psn.toNat)).length
  { y with higher := n, lost := y.lost || decide (n ≥ 3) }

/-- The window rule of R385. -/
def Sess.windowOn (x : Sess) (p : NctPkt) (lo hi : Nat) (tick : Word) : Sess :=
  let n := p.newc.toNat
  if n = 0 then x
  else if p.ce.toNat > 0 then
    if tick.toNat ≥ x.lastCut.toNat + x.srtt then
      { x with w := Max.max (256 * lo) (x.w - x.w * p.ce.toNat / (2 * n)), lastCut := tick }
    else x
  else { x with w := Min.min (256 * hi) (x.w + 65536 * n / x.w) }

/-- srtt moves an eighth of the way to a sample, rounded down (log entry 34). -/
def smooth (srtt sample : Nat) : Nat := (((srtt : Int) + ((sample : Int) - (srtt : Int)) / 8)).toNat

/-- A path's packet is acknowledged: what else of it waits has waited since now (R387). -/
def State.pathAcked (s : State) (path : Nat) : State :=
  let more := s.fab.sess.any fun x => x.2.out.any fun y => y.path == path
  s.modPath (Fin.ofNat 16 path) fun x => { x with ackAt := some s.tick, since := if more then some s.tick else none }

/-- The round trip an ACK measures, in ticks: that of the packet sent last among those it shows, retransmitted ones left
out (R385, log entry 34). -/
def ackSample (got : List Sent) (tick : Word) : Option Nat :=
  ((got.filter fun y => !y.retx).map fun y => (tick - y.at').toNat).min?

/-- What the acknowledgement of one packet brings. -/
def State.nctAcked (s : State) (i : BitVec 10) (y : Sent) : State :=
  let s := s.pathAcked y.path
  let s := match y.req with
    | some id => s.modReq id fun r =>
        if y.p.typ = 0 then { r with done := r.done + 1 } else { r with signalAcked := true }
    | none => s
  if y.p.typ = 4 then
    let s := s.modSess i fun x => if x.mode = .connecting then { x with mode := .up } else x
    if s.fab.pathMode y.path = .suspect then s.setPath (Fin.ofNat 16 y.path) .up else s
  else if y.p.typ = 5 then
    match (s.sess i).refused.find? fun f => f.nak == some y.p.psn with
    | some f => (s.modSess i fun x => { x with refused := x.refused.filter fun g => g.psn != f.psn }).nctMark i f.psn false false
    | none => s
  else s

/-- An ACK takes effect. -/
def State.nctAck (s : State) (i : BitVec 10) (p : NctPkt) : State :=
  let x := s.sess i
  let got : List Sent := x.out.filter fun y => shows p y.p.psn
  let psns := got.map fun y => y.p.psn
  let x := { x with out := (x.out.filter fun (y : Sent) => !shows p y.p.psn).map fun (y : Sent) => y.pass psns }
  let x := { x with srtt := ((ackSample got s.tick).map (smooth x.srtt)).getD x.srtt }
  let x := x.windowOn p (nfld s.fab.nctWin 0 16) (nfld s.fab.nctWin 32 16) s.tick
  let s := got.foldl (fun s y => s.nctAcked i y) (s.setSess i x)
  s.modFab fun b => { b with reqs := b.reqs.filter fun r => !(r.kind == .serve i && r.done == r.total) }

def execNctAckRx (u : Udp) (p : NctPkt) (s : State) : Out :=
  nctRx u p 1 s fun i q s => s.nctAck i q

/-! ### NPUT and NGET (R232, R388, R389, R329) -/

/-- Reserved fields of the descriptor are zero. -/
def nctFormat (put : Bool) (ws : List Word) : Bool :=
  only (ew ws 0) 0xFFC000FFFFFFFFFF && only (ew ws 1) dvaMask && only (ew ws 2) dvaMask &&
    (if put then only (ew ws 3) 0x8000000000003FFF && ew ws 5 == 0
     else ew ws 3 == 0 && only (ew ws 5) 0xFFFFFF0000000000) && ew ws 6 == 0 && ew ws 7 == 0

/-- A shard gather's group is outside R329. -/
def badGroup (w : Word) : Bool :=
  w != 0 && (nfld w 60 4 == 1 || decide (nfld w 60 4 > 8) || decide (nfld w 56 4 ≥ nfld w 60 4))

/-- Accept a message of a session: it takes the next MSGID. -/
def State.nctMessage (s : State) (i : BitVec 10) (r : Req) : State :=
  (s.addReq { r with msgid := (s.sess i).txMsg }).modSess i fun x => { x with txMsg := x.txMsg + 1 }

/-- Accept or refuse an NPUT or NGET, in the order of the codes. -/
def nctRequest (put : Bool) (a : At) (s : State) (f : BitVec 14) (v : Word) (ws : List Word) : Answer :=
  let i : BitVec 10 := (ew ws 0 >>> 54).setWidth 10
  let len := nfld (ew ws 0) 0 40
  let x := s.sess i
  if !nctFormat put ws then .refuse s 2
  else if x.ctx ≠ s.ctxOf a.c then .refuse s 3
  else if !put && badGroup (ew ws 5) then .refuse s 0x10
  else if x.mode ≠ .up then .refuse s 0x11
  else if len = 0 then .refuse s 0x12
  else
    let rf := if (ew ws 3).getLsbD 63 then some ((ew ws 3).setWidth 14, ew ws 4) else none
    let dst := if put then ew ws 2 else ew ws 1
    .accept (s.nctMessage i { reqNone with
      kind := if put then .nput i rf else .nget i
      by' := .program, ctx := s.ctxOf a.c, laddr := addr48 (ew ws 1), raddr := ew ws 2, len := len, fence := f, value := v
      total := nctBlocks dst.toNat len })

def execNput (p : Site) (o : LayP) (s : State) : Out := portIssue p (.nput p o) o .fabric s (nctRequest true)
def execNget (p : Site) (o : LayP) (s : State) : Out := portIssue p (.nget p o) o .fabric s (nctRequest false)

/-- Every DATA packet of an NPUT and its SIGNAL are acknowledged. -/
def Req.putDone (r : Req) : Bool :=
  match r.kind with
  | .nput _ rf => r.done == r.total && (rf.isNone || r.signalAcked)
  | _ => false

/-- Every DATA packet of an NGET is placed. -/
def Req.getDone (r : Req) : Bool :=
  match r.kind with
  | .nget _ => r.done == r.total
  | _ => false

/-- NPUT_COMPLETE. -/
def execNputComplete (id : Nat) (s : State) : Out := completeReq s id Req.putDone fun _ => true

/-- NGET_COMPLETE. -/
def execNgetComplete (id : Nat) (s : State) : Out := completeReq s id Req.getDone fun _ => true

/-! ### CONTEXT_DESTROY (R393) -/

/-- The fabric's part of R356: the requests of the context's sessions and queue pairs end unsignalled, its sessions go
OFF and its queue pairs to ERROR, which their entries show (R336). -/
def State.fabricCancel (s : State) (c : BitVec 9) : State :=
  let ns := (s.fab.qps.filter fun e => e.2.ctx == c && e.2.ready).map fun e => BitVec.ofNat 12 e.1
  let s := s.modFab fun b => { b with
    reqs := b.reqs.filter fun r => r.ctx != c
    sess := b.sess.foldl (fun t e => if e.2.ctx = c ∧ e.2.mode ≠ .off then
        Tbl.set Sess.reset t e.1 { e.2 with
          cfg := e.2.cfg &&& 0x7FFFFFFFFFFFFFFF, mode := .off, key0 := none, key1 := none, sent0 := 0, sent1 := 0,
          txSlot := false, out := [], refused := [] }
      else t) b.sess
    qps := b.qps.foldl (fun t e => if e.2.ctx = c ∧ e.2.ready then
        Tbl.set qpNone t e.1 { e.2.setState 2 with out := [] } else t) b.qps }
  ns.foldl State.qpWriteBack s

end Sys2Proof.Machine
end

