-- ==== Sys2Proof/Machine/Transit.lean ====
section
/-! DEFINITION. The transit engine: outer exchanges, fragments and their code, acknowledgement, merge, routes, pulls
(R395-R426). -/
namespace Sys2Proof.Machine

/-! ### Fields (R395, R397, R426) -/

def Transit.valid (t : Transit) : Bool := t.cfg.getLsbD 63
def Transit.site (t : Transit) : BitVec 6 := (t.cfg >>> 48).setWidth 6
def Transit.coord (t : Transit) : BitVec 6 := (t.cfg >>> 40).setWidth 6
def Transit.sliceNo (t : Transit) : BitVec 8 := (t.cfg >>> 32).setWidth 8
def Transit.window (t : Transit) : Nat := nfld t.cfg 24 8
def Transit.job (t : Transit) : BitVec 16 := t.cfg.setWidth 16
/-- B, the blocks of the slice. -/
def Transit.nblocks (t : Transit) : Nat := nfld t.blocks 0 32
def Transit.rxstride (t : Transit) : Nat := nfld t.blocks 32 32 * 4096
/-- Sites of the job in ascending order. -/
def Transit.siteList (t : Transit) : List (BitVec 6) :=
  ((List.range 64).filter fun i => t.sites.getLsbD i).map fun i => BitVec.ofNat 6 i
def Transit.slot (t : Transit) (b : Bool) : TrSlot := if b then t.slot1 else t.slot0
def Transit.setSlot (t : Transit) (b : Bool) (x : TrSlot) : Transit := if b then { t with slot1 := x } else { t with slot0 := x }
/-- The step field of an accession (R396). -/
def stepField (a : Word) : Nat := nfld a 0 48
def accJob (a : Word) : BitVec 16 := (a >>> 48).setWidth 16
/-- The accession of the job with a step field. -/
def Transit.accession (t : Transit) (n : Nat) : Word := at' t.job.toNat 48 ||| BitVec.ofNat 64 (n % 2 ^ 48)

/-- Counters of `tr.stat`. -/
inductive TrStat where
  | tx | rx | late | early | authfail | dup | gdec | glost
deriving DecidableEq, Repr

def TrStat.idx : TrStat → Fin 8
  | .tx => 0 | .rx => 1 | .late => 2 | .early => 3 | .authfail => 4 | .dup => 5 | .gdec => 6 | .glost => 7

def State.trCount (s : State) (c : TrStat) (n : Nat) : State :=
  s.modTr fun t => { t with stat := t.stat.set c.idx (t.stat[c.idx] + BitVec.ofNat 64 n) }

def State.modExch (s : State) (k : Word) (f : Exchange → Exchange) : State :=
  s.modTr fun t => { t with exch := t.exch.map fun x => if x.step = k then f x else x }
def State.exchOf (s : State) (k : Word) : Option Exchange := s.tr.exch.find? fun x => x.step == k
def Exchange.isOpen (x : Exchange) : Bool := x.phase != .finished
def Transit.openCount (t : Transit) : Nat := (t.exch.filter Exchange.isOpen).length

/-! ### Regions (R397) -/

/-- Bytes of the job's memory; none where R397 fails the access. -/
def State.trRead (s : State) (dva len : Nat) : State × Option (List Byte) :=
  match s.blockRead .transit s.tr.ctx dva len with
  | (s, .ok bs) => (s, some bs)
  | (s, .error _) => (s, none)

def State.trWrite (s : State) (dva : Nat) (bs : List Byte) : State × Bool :=
  match s.blockWrite .transit s.tr.ctx dva bs with
  | (s, .ok _) => (s, true)
  | (s, .error _) => (s, false)

/-- Registers by name. -/
def Transit.reg (t : Transit) (i : Fin 11) : Nat := (t.addr i).toNat
/-- Block b of region i, as FP32 words. -/
def State.trBlock (s : State) (i : Fin 11) (b : Nat) : State × Option (List W32) :=
  match s.trRead (s.tr.reg i + 1024 * b) 1024 with
  | (s, some bs) => (s, some (unpackElems .fp32 256 bs))
  | (s, none) => (s, none)
def State.putBlock (s : State) (i : Fin 11) (b : Nat) (xs : List W32) : State × Bool :=
  s.trWrite (s.tr.reg i + 1024 * b) (packElems .fp32 xs)
/-- The base region of an accession's parity. -/
def baseReg (a : Word) : Fin 11 := if stepField a % 2 = 0 then 1 else 2
/-- Address of the receive slot of a site and step. -/
def Transit.rxSlot (t : Transit) (k : Word) (p : BitVec 6) : Nat := t.reg 9 + t.rxstride * (64 * (k.toNat % 2) + p.toNat)

/-! ### FP32 and quantisation (R401, R402, R148) -/

def rne32 (v : Val) : W32 := (Fmt.fp32.rne v).bits
def add32 (a b : W32) : W32 := rne32 ((f32 a).add (f32 b))
def sub32 (a b : W32) : W32 := rne32 ((f32 a).add (f32 b).negate)
def finite32 (a : W32) : Bool := !(f32 a).isNan && !(f32 a).isInf
/-- The sum of squares, rounded once. -/
def ssq32 (us : List W32) : W32 := rne32 (Val.sum (us.map fun u => (f32 u).mul (f32 u)))

/-- Element format of QFMT. -/
def qElem (q : BitVec 2) : Fmt := if q = 0 then .e4m3 else if q = 1 then .e2m1 else .int4
/-- Bytes of a kept block in the stream (R403). -/
def qBytes (q : BitVec 2) : Nat := if q = 0 then 264 else 136

/-- One sub-block of 32: its scale byte and elements. -/
def quantSub (q : BitVec 2) (us : List W32) : Byte × List W32 :=
  let vs := us.map f32
  if q = 2 then
    let x := match blockExp vs with
      | none => -127
      | some l => scaleExp .int4 l
    (BitVec.ofNat 8 (x + 127).toNat, vs.map fun v => (Fmt.int4.conv .rne false (v.scale (2 - x))).bits)
  else
    let r := mxBlock (qElem q) false (List.replicate 32 .rne) vs
    (r.1, r.2.1)

/-- Element value × 2^(scale − 127); the scale 0xFF is NaN (R47). -/
def deqElem (q : BitVec 2) (sc : Byte) (e : W32) : Val :=
  let v := (qElem q).toVal e
  if sc = 0xFF then .nan false else (if q = 2 then v.scale (-2) else v).scale ((sc.toNat : Int) - 127)

/-- A kept block as the stream holds it. -/
def quantBlock (q : BitVec 2) (us : List W32) : List Byte :=
  let subs := (List.range 8).map fun j => quantSub q ((us.drop (32 * j)).take 32)
  subs.map Prod.fst ++ packElems (qElem q) (subs.flatMap Prod.snd)

/-- deq of a block of the stream. -/
def deqBlock (q : BitVec 2) (bs : List Byte) : List W32 :=
  let es := unpackElems (qElem q) 256 (bs.drop 8)
  (List.range 256).map fun i => rne32 (deqElem q (bs.getD (i / 32) 0) (es.getD i 0))

/-- The bitmap of the kept blocks (R403). -/
def bitmapBytes (keep : List Bool) : List Byte :=
  (List.range (8 * ((keep.length + 63) / 64))).map fun i =>
    (List.range 8).foldl (fun (b : Byte) j => if keep.getD (8 * i + j) false then b ||| (1#8 <<< j) else b) 0

def bitsOf (n : Nat) (bs : List Byte) : List Bool := (List.range n).map fun i => (bs.getD (i / 8) 0).getLsbD (i % 8)

/-- Bytes of the bitmap of B blocks. -/
def bitmapLen (b : Nat) : Nat := 8 * ((b + 63) / 64)

/-! ### The code (R405, R406) -/

def gfm2 (a : Byte) : Byte := (a <<< 1) ^^^ (if a.getLsbD 7 then 0x1D#8 else 0)
def gfmulGo (b : Byte) : (n : Nat) → Byte → Byte
  | 0, _ => 0
  | n + 1, a => (if b.getLsbD (7 - n) then a else 0) ^^^ gfmulGo b n (gfm2 a)
/-- Multiplication in GF(2^8) with 0x11D. -/
def gfmul (a b : Byte) : Byte := gfmulGo b 8 a
def gfpow (a : Byte) : Nat → Byte
  | 0 => 1
  | n + 1 => gfmul a (gfpow a n)
/-- Inverse: a^254. -/
def gfinv (a : Byte) : Byte := gfpow a 254
/-- c[j][t]. -/
def coef (j t : Nat) : Byte := gfinv (BitVec.ofNat 8 (j ^^^ (16 + t)))

def xorBytes (a b : List Byte) : List Byte := List.zipWith (· ^^^ ·) a b
def scaleBytes (c : Byte) (a : List Byte) : List Byte := a.map (gfmul c)
def zeroFrag : List Byte := List.replicate 8192 0

/-- Parity fragment j of a group's data fragments. -/
def parityOf (j : Nat) (ds : List (List Byte)) : List Byte :=
  (ds.mapIdx fun t d => (t, d)).foldl (fun a x => xorBytes a (scaleBytes (coef j x.1) x.2)) zeroFrag

/-- Solve a square system over GF(2^8) whose right sides are fragments. -/
def gfSolve : (n : Nat) → List (List Byte × List Byte) → List (List Byte)
  | 0, _ => []
  | n + 1, rows =>
    match rows.find? fun r => r.1.headD 0 != 0 with
    | none => []
    | some p =>
      let i := gfinv (p.1.headD 0)
      let pc := p.1.tail.map (gfmul i)
      let pv := scaleBytes i p.2
      let rest := (rows.erase p).map fun r =>
        let h := r.1.headD 0
        (xorBytes r.1.tail (scaleBytes h pc), xorBytes r.2 (scaleBytes h pv))
      let xs := gfSolve n rest
      ((List.zip pc xs).foldl (fun v cx => xorBytes v (scaleBytes cx.1 cx.2)) pv) :: xs

/-- Recover the data fragments of a group of k from any k of its fragments, given by index; none with fewer. -/
def recover (k : Nat) (fs : List (Nat × List Byte)) : Option (List (List Byte)) :=
  let have' := (List.range k).filter fun t => fs.any fun f => f.1 = t
  let missing := (List.range k).filter fun t => !fs.any fun f => f.1 = t
  let par := (fs.filter fun f => decide (f.1 ≥ k)).take missing.length
  let frag (t : Nat) : List Byte := ((fs.find? fun f => f.1 == t).map Prod.snd).getD zeroFrag
  if par.length < missing.length then none
  else
    let rows := par.map fun p =>
      (missing.map fun t => coef (p.1 - k) t,
       have'.foldl (fun v t => xorBytes v (scaleBytes (coef (p.1 - k) t) (frag t))) p.2)
    let xs := gfSolve missing.length rows
    some ((List.range k).map fun t => match missing.findIdx? (· == t) with
      | some i => xs.getD i zeroFrag
      | none => frag t)

/-- Data fragments of a stream of L bytes, and groups of them (R405). -/
def dataFrags (len : Nat) : Nat := (len + 8191) / 8192
def groupsOf (len kd : Nat) : Nat := (dataFrags len + kd - 1) / kd
/-- K′ of group g. -/
def groupK (len kd g : Nat) : Nat := Min.min kd (dataFrags len - kd * g)

/-- Data fragment t of a stream, padded. -/
def dataFrag (stream : List Byte) (t : Nat) : List Byte :=
  (((stream.drop (8192 * t)).take 8192) ++ zeroFrag).take 8192

/-- Fragment FIDX of group g of an exchange's contribution. -/
def Exchange.frag (x : Exchange) (g f : Nat) : List Byte :=
  let k := groupK x.stream.length x.kdata g
  if f < k then dataFrag x.stream (x.kdata * g + f)
  else parityOf (f - k) ((List.range k).map fun t => dataFrag x.stream (x.kdata * g + t))

/-- The fragments of a contribution in order. -/
def allFrags (len kd m : Nat) : List (Nat × Nat) :=
  (List.range (groupsOf len kd)).flatMap fun g => (List.range (groupK len kd g + m)).map fun f => (g, f)

/-! ### The end of an exchange (R417, R418, R420) -/

/-- Groups lost and decoded of a step, over all senders (R406, R420). -/
def RxStep.groups (r : RxStep) : Nat × Nat :=
  (r.sites.foldl (fun n x => n + (x.ngroups - x.decoded.length)) 0, r.sites.foldl (fun n x => n + x.decoded.length) 0)

def State.rxStep (s : State) (k : Word) : RxStep :=
  (s.tr.rx.find? fun r => r.step == k).getD { step := k, sites := [], late := 0, closed := false, fault := false }

/-- Write the result record, signal the completion fence, and close the exchange. Fragments of a contribution that still wait
for a route go out when one returns (R410); those of a FAILED one do not. -/
def State.exchEnd (s : State) (x : Exchange) (status code : Nat) (produced senders : Word) (merged : Nat) : State :=
  let r := s.rxStep x.step
  let g := r.groups
  let ws : List Word :=
    [at' status 62 ||| at' code 0, x.step, produced, senders, at' (x.keep.filter id).length 32 ||| at' merged 0,
     at' g.1 32 ||| at' g.2 0, BitVec.ofNat 64 (r.late % 2 ^ 32), s.tick - x.accepted]
  let s := (s.trWrite x.result.toNat (wordBytes ws)).1
  let s := if status = 3 then
      match x.snap with
      | some (f, v) => s.send ⟨f, v, true, .block⟩
      | none => s
    else s
  let s := s.send ⟨x.fence, x.value, status == 3, .block⟩
  s.modExch x.step fun y => { y with
    phase := .finished, snap := none, toSend := if status = 3 then [] else y.toSend, unmerged := status == 1, failed := status == 3 }

/-- An exchange fails: NONFINITE 1 or LOCAL_FAULT 2 at a block (R397, R401, R420). -/
def State.exchFail (s : State) (x : Exchange) (code block : Nat) : State :=
  (s.exchEnd x 3 code 0 0 0).modTr fun t => { t with
    err := faultReg t.err (0x8000000000000000#64 ||| at' code 58 ||| at' block 0) }

/-! ### TRANSIT.out (R399-R401, R422) -/

/-- Reserved fields of the descriptor are zero, and QFMT is no reserved value. -/
def outFormat (ws : List Word) : Bool :=
  only (ew ws 0) 0xFFFC0000FFFFFFFF && nfld (ew ws 0) 62 2 != 3 && only (ew ws 4) 0x8000000000003FFF &&
    only (ew ws 6) 0x0000FFFFFFFFFFC0 && ew ws 7 == 0

/-- Parameters in range (PARAM). -/
def outParams (ws : List Word) : Bool :=
  let listen := (ew ws 0).getLsbD 61
  let kd := nfld (ew ws 0) 55 6
  let n := nfld (ew ws 0) 0 32
  let t2 : W32 := (ew ws 3 >>> 32).setWidth 32
  let dl := nfld (ew ws 3) 0 32
  decide (1 ≤ kd) && decide (kd ≤ 32) && decide (nfld (ew ws 0) 50 5 ≤ 16) &&
    (if listen then n == 0 else decide (1 ≤ n) && decide (n < 2 ^ 24)) &&
    finite32 t2 && !t2.getLsbD 31 && decide (10 ≤ dl) && decide (dl ≤ 600000)

/-- The stream of the largest contribution fits a receive slot (FIT). -/
def Transit.fits (t : Transit) (q : BitVec 2) : Bool :=
  decide (bitmapLen t.nblocks + t.nblocks * qBytes q ≤ t.rxstride)

/-- `tr.job.seen` has run ahead of the base by more than WINDOW (BEHIND); accessions compare within one job. -/
def Transit.behind (t : Transit) (base : Word) : Bool :=
  accJob t.seen == t.job && decide (stepField t.seen > stepField base + t.window)

/-- OSTEP or BASEACC break the order (ORDER). -/
def Transit.disorder (t : Transit) (step base : Word) : Bool :=
  (match t.lastStep with
   | some (j, n) => j == t.job && decide (step.toNat ≤ n.toNat)
   | none => false) || accJob base != t.job || decide (stepField base > step.toNat)

/-- The snapshot fence may be signalled by the context (R353). -/
def State.snapOk (s : State) (c : BitVec 9) (w : Word) : State × Bool :=
  if w.getLsbD 63 then
    let s := (s.loadCtx c).loadFence (w.setWidth 14)
    (s, maySignal c (s.ctxE c) (s.fenceE (w.setWidth 14)))
  else (s, true)

/-- The coordinator has still to decide the step of an exchange. -/
def Transit.undecided (t : Transit) (x : Exchange) : Bool := t.coord == t.site && !t.decided.contains x.step

/-- The receive slot of the step's parity is taken over from older steps that have completed: what they left there goes
(R412, R418), but for fragments that wait for a route (R410) and for what the coordinator needs to decide a step (R415). -/
def State.reuseSlot (s : State) (k : Word) : State :=
  s.modTr fun t =>
    let old (x : Word) : Bool := x != k && x.toNat % 2 == k.toNat % 2 && decide (x.toNat < k.toNat) &&
      !t.exch.any fun y => y.step == x && y.isOpen
    let out := t.exch.filter fun x => old x.step
    { t with
      gone := t.gone ++ ((out.filter fun x => x.unmerged && !x.listen).map fun x => x.step)
      left := t.left ++ out.filter fun x => !x.toSend.isEmpty
      old := t.old ++ ((out.filter t.undecided).map fun x => (x, s.rxStep x.step))
      exch := t.exch.filter fun x => !old x.step
      rx := t.rx.filter fun r => !old r.step
      acks := t.acks.filter fun a => !old a.step || out.any fun x => x.step == a.step && t.undecided x }

/-- The exchange a descriptor asks for. -/
def exchangeOf (ws : List Word) (f : BitVec 14) (v : Word) (tick : Word) : Exchange :=
  { step := ew ws 1, qfmt := (ew ws 0 >>> 62).setWidth 2, listen := (ew ws 0).getLsbD 61, kdata := nfld (ew ws 0) 55 6,
    mpar := nfld (ew ws 0) 50 5, nsteps := (ew ws 0).setWidth 32, baseacc := ew ws 2, t2 := (ew ws 3 >>> 32).setWidth 32,
    deadline := nfld (ew ws 3) 0 32
    snap := if (ew ws 4).getLsbD 63 then some ((ew ws 4).setWidth 14, ew ws 5) else none
    result := addr48 (ew ws 6), fence := f, value := v, accepted := tick,
    phase := if (ew ws 0).getLsbD 61 then .sent else .pass1
    keep := [], stream := [], toSend := [], under0 := false, under1 := false, acked := false, mergeParts := 0,
    mergeLen := 0, merge := [], merged := false, mergeAt := none, unmerged := false, contributed := false, failed := false }

/-- Accept an exchange; one that contributes writes BASEACC to the beacon. One whose receive slots have failed already
fails. -/
def State.exchAccept (s : State) (x : Exchange) : State :=
  let s := (s.reuseSlot x.step).modTr fun t => { t with exch := t.exch ++ [x], lastStep := some (t.job, x.step) }
  if (s.rxStep x.step).fault then s.exchFail x 2 0
  else if x.listen then s
  else
    let (s, ok) := s.trWrite (s.tr.reg 10) (leBytes 8 x.baseacc.toNat)
    if ok then s else s.exchFail x 2 0

/-- An open exchange of an earlier step holds the receive slot that the step uses (R412). -/
def Transit.slotTaken (t : Transit) (k : Word) : Bool :=
  t.exch.any fun x => x.isOpen && decide (x.step.toNat < k.toNat) && x.step.toNat % 2 == k.toNat % 2

/-- TRANSIT.out: JOB_OFF is tested before the right, since without a job no context has one (log entry 36). -/
def execTransitOut (p : Site) (o : LayP) (s : State) : Out :=
  portIssue p (.transitOut p o) o .transit s fun a s f v ws =>
    let t := s.tr
    let (s, snap) := s.snapOk (s.ctxOf a.c) (ew ws 4)
    if !outFormat ws then .refuse s 2
    else if !t.valid then .refuse s 0x10
    else if t.ctx ≠ s.ctxOf a.c ∨ !snap then .refuse s 3
    else if !outParams ws then .refuse s 0x11
    else if t.behind (ew ws 2) then .refuse (s.modTr fun t => { t with rejoin := true }) 0x12
    else if t.disorder (ew ws 1) (ew ws 2) then .refuse s 0x13
    else if !t.fits ((ew ws 0 >>> 62).setWidth 2) then .refuse s 0x14
    else if t.pull.isSome then .refuse s 0x15
    else if t.rejoin && !(ew ws 0).getLsbD 61 then .refuse s 0x16
    else if t.openCount ≥ 2 then .full s
    else .accept (s.exchAccept (exchangeOf ws f v s.tick))

/-! ### The two passes (R401) -/

/-- How a pass ends early: the code and the block. -/
abbrev PassErr := Option (Nat × Nat)

/-- One block of pass 1: its keep bit. Elements are taken in order up to one that is not finite. -/
def State.pass1Block (s : State) (x : Exchange) (b : Nat) : State × Except Nat Bool :=
  let (s, l) := s.trBlock 0 b
  let (s, base) := s.trBlock (baseReg x.baseacc) b
  let (s, e) := s.trBlock 5 b
  match l, base, e with
  | some l, some base, some e =>
    let d := List.zipWith sub32 l base
    let u := List.zipWith add32 d e
    let bad := (List.zip d u).findIdx? fun p => !finite32 p.1 || !finite32 p.2
    let n := match bad with
      | some i => i + 1
      | none => 256
    let (s, ok) := s.trWrite (s.tr.reg 6 + 1024 * b) (packElems .fp32 (d.take n))
    if !ok then (s, .error 2)
    else if bad.isSome then (s, .error 1)
    else (s, .ok ((f32 x.t2).lt (f32 (ssq32 u))))
  | _, _, _ => (s, .error 2)

/-- Pass 1 over the blocks. -/
def State.pass1 (s : State) (x : Exchange) : State × List Bool × PassErr :=
  (List.range s.tr.nblocks).foldl (fun a b =>
    match a.2.2 with
    | some _ => a
    | none => match a.1.pass1Block x b with
      | (s, .ok k) => (s, a.2.1 ++ [k], none)
      | (s, .error c) => (s, a.2.1, some (c, b))) (s, [], none)

/-- The oldest exchange in a phase. -/
def State.exchIn (s : State) (p : ExPhase) : Option Exchange := s.tr.exch.find? fun x => x.phase == p

/-- TRANSIT_PASS1_DONE. -/
def execTransitPass1Done (s : State) : Out :=
  match s.exchIn .pass1 with
  | none => .refused (.notEnabled "no exchange runs pass 1")
  | some x =>
    guard s.fabOn "the engine does not run"
      (match s.pass1 x with
       | (s, _, some (c, b)) => s.exchFail x c b
       | (s, keep, none) =>
         let s := match x.snap with
           | some (f, v) => s.send ⟨f, v, false, .block⟩
           | none => s
         s.modExch x.step fun y => { y with phase := .pass2, keep := keep, snap := none })

/-- One block of pass 2: the stream bytes of a kept block. -/
def State.pass2Block (s : State) (x : Exchange) (b : Nat) : State × Option (List Byte) :=
  let (s, d) := s.trBlock 6 b
  let (s, e) := s.trBlock 5 b
  match d, e with
  | some d, some e =>
    let u := List.zipWith add32 d e
    let q := if x.keep.getD b false then quantBlock x.qfmt u else []
    let r := if x.keep.getD b false then List.zipWith sub32 u (deqBlock x.qfmt q) else u
    let (s, ok) := s.putBlock 5 b r
    (s, if ok then some q else none)
  | _, _ => (s, none)

def State.pass2 (s : State) (x : Exchange) : State × List Byte × PassErr :=
  (List.range s.tr.nblocks).foldl (fun a b =>
    match a.2.2 with
    | some _ => a
    | none => match a.1.pass2Block x b with
      | (s, some q) => (s, a.2.1 ++ q, none)
      | (s, none) => (s, a.2.1, some (2, b))) (s, [], none)

/-! ### Merge (R416-R419) -/

/-- The bytes of a MERGE whose parts have all come. -/
def Exchange.mergeBytes (x : Exchange) : Option (List Byte) :=
  if x.mergeParts > 0 ∧ x.merge.length = x.mergeParts then
    some (((List.range x.mergeParts).flatMap fun i => ((x.merge.find? fun p => p.1 == i).map Prod.snd).getD []).take x.mergeLen)
  else none

/-- One sender of a MERGE: site, NSTEPS, and the blocks common to all receivers over its kept blocks, where they can be
read. -/
structure MergeSender where
  site : BitVec 6
  nsteps : BitVec 32
  common : Option (List Bool)
deriving DecidableEq, Repr

/-- Words of common[p], where the site knows p's kept blocks. -/
def keptWords (n : Option Nat) : Option Nat := n.map fun n => (n + 63) / 64

/-- The sum of the words of some senders, where all are known. -/
def wordsSum (l : List (Option Nat)) : Option Nat := l.foldl (fun a x => a.bind fun n => x.map fun m => n + m) (some 0)

/-- Where the words of sender j begin among the `total` words, and how many there are: counted from the front, or from the
back, over the senders whose counts are known; a single unknown sender has what the others leave. -/
def commonAt (total : Nat) (ws : List (Option Nat)) (j : Nat) : Option (Nat × Nat) :=
  let before := wordsSum (ws.take j)
  let after := wordsSum (ws.drop (j + 1))
  match before, (ws.getD j none), after with
  | some a, some n, _ => some (a, n)
  | none, some n, some b => some (total - b - n, n)
  | some a, none, some b => some (a, total - a - b)
  | _, _, _ => none

/-- A MERGE payload read: senders, accession produced, and per sender its words; `kept` gives a sender's kept blocks where
the site knows them. The words of a sender it cannot place are none (R416; log entry 27). -/
def parseMerge (kept : BitVec 6 → Option Nat) (bs : List Byte) : Word × Word × List MergeSender :=
  let w (i : Nat) : Word := BitVec.ofNat 64 (leNat ((bs.drop (8 * i)).take 8))
  let ps := (List.range 64).filter fun i => (w 0).getLsbD i
  let fixed := 3 + 2 * ps.length
  let ws := ps.map fun p => keptWords (kept (BitVec.ofNat 6 p))
  (w 0, w 2, ps.mapIdx fun j p =>
    { site := BitVec.ofNat 6 p, nsteps := (w (3 + 2 * j)).setWidth 32
      common := (commonAt (bs.length / 8 - fixed) ws j).map fun x =>
        bitsOf ((kept (BitVec.ofNat 6 p)).getD (64 * x.2)) (bs.drop (8 * (fixed + x.1))) })

/-- What the site holds of a sender's stream: its format, kept bits where the bitmap is decoded, and which of its kept
blocks are decoded. -/
structure Held' where
  qfmt : BitVec 2
  keep : List Bool
  decoded : List Bool
deriving DecidableEq, Repr

/-- Every data fragment that holds bytes [a, a + n) of the stream is there. -/
def RxSite.has (r : RxSite) (a n : Nat) : Bool :=
  (List.range ((a + n + 8191) / 8192 - a / 8192)).all fun i => r.data.contains (a / 8192 + i)

/-- The sender's state of a step. -/
def State.rxSite (s : State) (k : Word) (p : BitVec 6) : Option RxSite := (s.rxStep k).sites.find? fun r => r.site == p

/-- The kept blocks of a sender: its own exchange's, or what the stream length L of its packets leaves (R403, R407). -/
def State.keptCount (s : State) (x : Exchange) (p : BitVec 6) : Option Nat :=
  if p = s.tr.site then if x.contributed then some (x.keep.filter id).length else none
  else (s.rxSite x.step p).map fun r => (r.len - bitmapLen s.tr.nblocks) / qBytes (r.qfmt.setWidth 2)

/-- The kept bits of a sender, from its receive slot (its own from the exchange once its contribution is complete); an
error where the slot cannot be read (R397). -/
def State.keptOf (s : State) (x : Exchange) (p : BitVec 6) : State × Except Unit (Option Held') :=
  if p = s.tr.site then
    (s, .ok (if x.contributed then some ⟨x.qfmt, x.keep, List.replicate (x.keep.filter id).length true⟩ else none))
  else
    match s.rxSite x.step p with
    | none => (s, .ok none)
    | some r =>
      let w := bitmapLen s.tr.nblocks
      if !r.has 0 w then (s, .ok none)
      else match s.trRead (s.tr.rxSlot x.step p) w with
        | (s, none) => (s, .error ())
        | (s, some bs) =>
          let keep := bitsOf s.tr.nblocks bs
          let q : BitVec 2 := r.qfmt.setWidth 2
          (s, .ok (some ⟨q, keep, (List.range (keep.filter id).length).map fun i => r.has (w + i * qBytes q) (qBytes q)⟩))

/-- Index of block b among the kept blocks. -/
def keptIdx (keep : List Bool) (b : Nat) : Nat := ((keep.take b).filter id).length

/-- deq of a kept block of a sender, from its receive slot. -/
def State.deqOf (s : State) (k : Word) (p : BitVec 6) (h : Held') (b : Nat) : State × Option (List W32) :=
  match s.trRead (s.tr.rxSlot k p + bitmapLen s.tr.nblocks + keptIdx h.keep b * qBytes h.qfmt) (qBytes h.qfmt) with
  | (s, some bs) => (s, some (deqBlock h.qfmt bs))
  | (s, none) => (s, none)

/-- Add one sender's part of a block. -/
def State.mergeOne (s : State) (k : Word) (b : Nat) (acc : List W32 × Nat) (m : MergeSender) (h : Held') :
    State × Option (List W32 × Nat) :=
  if h.keep.getD b false && (m.common.getD []).getD (keptIdx h.keep b) false then
    let (s, d) := s.deqOf k m.site h b
    let w := Val.ofInt m.nsteps.toNat
    (s, d.map fun d => (List.zipWith (fun a e => add32 a (rne32 (w.mul (f32 e)))) acc.1 d, acc.2 + m.nsteps.toNat))
  else (s, some acc)

/-- Merge one block over the senders, and write its sum and count. -/
def State.mergeBlock (s : State) (k : Word) (b : Nat) (ms : List (MergeSender × Held')) : State × Bool :=
  let (s, r) := ms.foldl (fun (a : State × Option (List W32 × Nat)) m => match a.2 with
    | none => a
    | some acc => a.1.mergeOne k b acc m.1 m.2) (s, some (List.replicate 256 0, 0))
  match r with
  | none => (s, false)
  | some (xs, n) =>
    let (s, ok) := s.putBlock 7 b xs
    if ok then s.trWrite (s.tr.reg 8 + 4 * b) (leBytes 4 n) else (s, false)

/-- Give own kept blocks back to the residual, or take them out again: those the test picks. -/
def State.residual (s : State) (x : Exchange) (f : W32 → W32 → W32) (pick : Nat → Bool) : State × Option Nat :=
  let w := bitmapLen s.tr.nblocks
  ((List.range s.tr.nblocks).filter fun b => x.keep.getD b false && pick (keptIdx x.keep b)).foldl
    (fun (a : State × Option Nat) b => match a.2 with
      | some _ => a
      | none =>
        let d := deqBlock x.qfmt (((x.stream.drop (w + keptIdx x.keep b * qBytes x.qfmt))).take (qBytes x.qfmt))
        let (s, e) := a.1.trBlock 5 b
        match e with
        | none => (s, some b)
        | some e =>
          let (s, ok) := s.putBlock 5 b (List.zipWith f e d)
          (s, if ok then none else some b)) (s, none)

/-- `tr.job.seen` takes the accession of a MERGE of a later step (R419). -/
def State.noteSeen (s : State) (acc : Word) : State :=
  s.modTr fun t => if accJob t.seen ≠ t.job ∨ stepField acc > stepField t.seen then { t with seen := acc } else t

/-- The common blocks of the site's own contribution. -/
def ownCommon (site : BitVec 6) (ms : List MergeSender) : List Bool :=
  ((ms.find? fun m => m.site == site).bind MergeSender.common).getD []

/-- Senders of a MERGE with what the site holds of each; an error where a receive slot cannot be read. -/
def State.heldAll (s : State) (x : Exchange) (ms : List MergeSender) : State × Except Unit (List (MergeSender × Held')) :=
  ms.foldl (fun a m => match a.2 with
    | .error e => (a.1, .error e)
    | .ok l => match a.1.keptOf x m.site with
      | (s, .error e) => (s, .error e)
      | (s, .ok h) => (s, .ok (l ++ [(m, h.getD ⟨0, [], []⟩)]))) (s, .ok [])

/-- Every block of common[p] is decoded here; where common[p] cannot be read, the site lacks what it may hold. -/
def lacksNone (ms : List (MergeSender × Held')) : Bool :=
  ms.all fun m => match m.1.common with
    | some c => (List.range c.length).all fun i => !c.getD i false || m.2.decoded.getD i false
    | none => false

/-- Apply the whole MERGE of an open exchange (R417). -/
def State.applyMerge (s : State) (x : Exchange) (bs : List Byte) : State :=
  let (senders, acc, ms) := parseMerge (s.keptCount x) bs
  let (s, held) := s.heldAll x ms
  let hs := match held with
    | .ok hs => hs
    | .error _ => []
  let behind := !lacksNone hs || stepField x.baseacc != x.step.toNat
  let (s, bad) := match held with
    | .error _ => (s, some 0)
    | .ok _ =>
      if behind then (s, none) else
        (List.range s.tr.nblocks).foldl (fun (a : State × Option Nat) b => match a.2 with
          | some _ => a
          | none =>
            let (s, ok) := a.1.mergeBlock x.step b hs
            (s, if ok then none else some b)) (s, none)
  match bad with
  | some b => s.exchFail x 2 b
  | none =>
    let own := ownCommon s.tr.site ms
    match s.residual x add32 (fun i => !own.getD i false) with
    | (s, some b) => s.exchFail x 2 b
    | (s, none) =>
      (s.exchEnd x (if behind then 2 else 0) 0 acc senders (own.filter id).length).modExch x.step fun y => { y with merged := true }

/-- A MERGE that comes after the exchange completed UNMERGED, with its slot still there (R418). DEDUCED (log entry 27): where
the residual of a block cannot be read or written (R397), the exchange having completed already, `tr.err` records LOCAL_FAULT,
LATE_MERGE is not set, and REJOIN is, as for blocks the site can no longer remove. -/
def State.lateMergeOp (s : State) (x : Exchange) (bs : List Byte) : State :=
  let (_, _, ms) := parseMerge (s.keptCount x) bs
  let own := ownCommon s.tr.site ms
  let (s, bad) := s.residual x sub32 (fun i => own.getD i false)
  (s.modTr fun t => match bad with
    | none => { t with lateMerge := true }
    | some b => { t with rejoin := true, err := faultReg t.err (0x8000000000000000#64 ||| at' 2 58 ||| at' b 0) }).modExch x.step
      fun y => { y with merged := true, unmerged := false }

/-- So many ticks had passed since the acceptance at some tick. -/
def Exchange.aged (x : Exchange) (at' : Word) (n : Nat) : Bool := decide ((at' - x.accepted).toNat ≥ n)

/-- The MERGE came whole before 2 × DEADLINE. -/
def Exchange.inTime (x : Exchange) : Bool :=
  match x.mergeAt with
  | some t => !x.aged t (50000 * x.deadline)
  | none => false

/-- What a MERGE that is whole does now: it waits for pass 2 and applies; one that came whole after 2 × DEADLINE waits until the
exchange has completed UNMERGED, and applies late (R418). -/
def State.mergeReady (s : State) (k : Word) : State :=
  match s.exchOf k with
  | none => s
  | some x =>
    match x.mergeBytes with
    | none => s
    | some bs =>
      if x.merged then s
      else match x.phase with
        | .sent => if x.inTime then s.applyMerge x bs else s
        | .finished => if x.unmerged then s.lateMergeOp x bs else s
        | _ => s

/-- TRANSIT_PASS2_DONE: the contribution is complete; a MERGE that came meanwhile is applied. The stream goes into the
receive slot once that is free (R412; log entry 27). -/
def execTransitPass2Done (s : State) : Out :=
  match s.exchIn .pass2 with
  | none => .refused (.notEnabled "no exchange runs pass 2")
  | some x =>
    guard (s.fabOn && !s.tr.slotTaken x.step) "the receive slot is not free"
      (match s.pass2 x with
       | (s, _, some (c, b)) => s.exchFail x c b
       | (s, q, none) =>
         let stream := bitmapBytes x.keep ++ q
         let s := s.reuseSlot x.step
         let (s, ok) := s.trWrite (s.tr.rxSlot x.step s.tr.site) stream
         if !ok then s.exchFail x 2 0
         else
           (s.modExch x.step fun y => { y with
             phase := .sent, contributed := true, stream := stream, toSend := allFrags stream.length x.kdata x.mpar }).mergeReady x.step)

/-! ### Sending (R407-R410) -/

def trHeader (t : Transit) (typ : BitVec 4) (dst : BitVec 6) (step : Word) : TrPkt :=
  { (default : TrPkt) with
    ver := 1, typ := typ, kslot := t.txSlot, job := t.job, src := t.site, dst := dst, slice := t.sliceNo, ostep := step }

/-- Routes that carry packets: EN and UP, in ascending order. -/
def Transit.routesUp (t : Transit) : List (Fin 8) :=
  (List.finRange 8).filter fun r => (t.routes[r]).up && (t.routes[r]).cfg.getLsbD 63

/-- The sending slot is valid, and no other step with the same OSTEP[31:0] has been sent under it, in this job or from the same
site and slice in an earlier one, whose nonces the step's would repeat (R408). -/
def Transit.mayStep (t : Transit) (k : Word) : Bool :=
  let sl := t.slot t.txSlot
  sl.key.isSome && (sl.steps.all fun f => f == k || nfld f 0 32 != nfld k 0 32) &&
    !sl.spent.any fun e => e.1 == t.site && e.2.1 == t.sliceNo && nfld e.2.2 0 32 == nfld k 0 32

/-- A step is sent under the sending slot. -/
def Transit.useStep (t : Transit) (k : Word) : Transit :=
  let sl := t.slot t.txSlot
  let t := if sl.steps.contains k then t else t.setSlot t.txSlot { sl with steps := sl.steps ++ [k] }
  if nfld k 0 32 ≥ 2 ^ 31 then { t with rekeyDue := true } else t

/-- The steps sent in a job that ends stay used up under their slots. -/
def TrSlot.spend (sl : TrSlot) (site : BitVec 6) (slice : BitVec 8) : TrSlot :=
  { sl with steps := [], spent := sl.spent ++ sl.steps.map fun k => (site, slice, k) }
def Transit.spendSteps (t : Transit) : Transit :=
  { t with slot0 := t.slot0.spend t.site t.sliceNo, slot1 := t.slot1.spend t.site t.sliceNo }

/-- The next UP path for transit. -/
def State.trPath (s : State) : Option Nat := (sprayOrder s.tr.spray).find? fun n => s.fab.usable n

/-- Seal a packet under the slot its header names. -/
def Transit.sealed (t : Transit) (p : TrPkt) : TrPkt := trSeal (((t.slot p.kslot).key).getD 0) p

/-- A packet of an exchange met poison in the site table: the exchange fails (R397). -/
def State.pktFault (s : State) (p : TrPkt) : State :=
  match s.exchOf p.ostep with
  | some x => if p.typ.toNat < 4 && x.isOpen then s.exchFail x 2 0 else s
  | none => s

/-- One packet leaves on a route, sealed: to port TRPORT, with TRDSCP (R409). A site whose table entry is not VALID, or is read
as poison, gets none. -/
def State.trEmit (s : State) (r : Fin 8) (p : TrPkt) : State :=
  match s.trPath with
  | none => s
  | some path =>
    let (s, a, bad) := s.tableAddr .transit s.tr.sitebase p.dst.toNat (pathPlane path)
    match (if bad then none else a) with
    | none => if bad then s.pktFault p else s
    | some dst =>
      let x := s.tr.routes[r]
      let port := nfld x.cfg 16 16 + x.sent % nfld x.cfg 0 16
      let h := s.fab.frameHdr path dst (nfld s.tr.net 42 6) (BitVec.ofNat 16 port) ((s.tr.net >>> 48).setWidth 16)
      let s := (s.trCount .tx 1).modTr fun t => { t with
        spray := (path + 1) % 16, routes := t.routes.set r { t.routes[r] with sent := t.routes[r].sent + 1 } }
      s.sendOn path (.packet path h (.transit (s.tr.sealed p)))

/-- ACK and MERGE packets go on every route; with no route UP and no path they wait, and so does one whose step may not be
sent under the slot. -/
def State.trFlush (s : State) : State :=
  if s.tr.routesUp.isEmpty || s.trPath.isNone then s
  else
    let ps := s.tr.held
    let s := s.modTr fun t => { t with held := [] }
    ps.foldl (fun s p =>
      if !s.tr.mayStep p.ostep then s.modTr fun t => { t with held := t.held ++ [p] }
      else
        let s := s.modTr fun t => t.useStep p.ostep
        s.tr.routesUp.foldl (fun s r => s.trEmit r { p with kslot := s.tr.txSlot }) s) s

def State.trSend (s : State) (ps : List TrPkt) : State := (s.modTr fun t => { t with held := t.held ++ ps }).trFlush

/-- The packet of a fragment for one peer. -/
def fragPacket (t : Transit) (x : Exchange) (g f : Nat) (r : Fin 8) (dst : BitVec 6) : TrPkt :=
  let k := groupK x.stream.length x.kdata g
  { trHeader t (if f < k then 0 else 1) dst x.step with
    route := BitVec.ofNat 3 r.val, group := BitVec.ofNat 24 g, fidx := BitVec.ofNat 8 f, k := BitVec.ofNat 8 k,
    m := BitVec.ofNat 8 x.mpar, qfmt := x.qfmt.setWidth 8, nsteps := x.nsteps,
    ngroups := BitVec.ofNat 32 (groupsOf x.stream.length x.kdata), len := BitVec.ofNat 64 x.stream.length, acc := x.baseacc,
    payload := x.frag g f }

/-- A fragment of an exchange has been sent. -/
def State.sentFrag (s : State) (x : Exchange) (rest : List (Nat × Nat)) : State :=
  let f (y : Exchange) : Exchange :=
    { y with toSend := rest, under0 := y.under0 || !s.tr.txSlot, under1 := y.under1 || s.tr.txSlot }
  s.modTr fun t => match t.left with
    | y :: l => { t with left := if rest.isEmpty then l else f y :: l }
    | [] => { t with exch := t.exch.map fun y => if y.step = x.step then f y else y }

/-- TRANSIT_FRAGMENT_SEND: the next fragment of the oldest contribution goes to every peer, on its route. -/
def execTransitFragmentSend (s : State) : Out :=
  match (s.tr.left ++ s.tr.exch).find? fun x => !x.toSend.isEmpty with
  | none => .refused (.notEnabled "no fragment waits")
  | some x =>
    match x.toSend, s.tr.routesUp with
    | (g, f) :: rest, r0 :: rs =>
      guard (s.fabOn && s.tr.mayStep x.step && s.trPath.isSome) "no path or key"
        (let r := (r0 :: rs).getD ((g + f) % (rs.length + 1)) r0
         let s := (s.sentFrag x rest).modTr fun t => t.useStep x.step
         (s.tr.siteList.filter fun p => p != s.tr.site).foldl (fun s p => s.trEmit r (fragPacket s.tr x g f r p)) s)
    | _, _ => .refused (.notEnabled "no route is UP")

/-! ### Receiving (R412, R413) -/

/-- Checks 1 and 2 of R412, and the opened packet. -/
def State.trCheck (s : State) (p : TrPkt) : State × Option TrPkt :=
  let t := s.tr
  let s := s.trCount .rx 1
  if !t.valid || p.ver != 1 || p.job != t.job || p.dst != t.site || p.slice != t.sliceNo then (s.trCount .dup 1, none)
  else match (t.slot p.kslot).key.bind fun k => trOpen k p with
    | some q => (s, some q)
    | none => (s.trCount .authfail 1, none)

/-- A transit packet of a type arrives; the body meets it opened. A datagram to another port than TRPORT is no transit
packet. -/
def trRx (typ : BitVec 4 → Bool) (u : Udp) (p : TrPkt) (s : State) (body : TrPkt → State → State) : Out :=
  guard (s.fabOn && s.fab.linked u.path && typ p.typ) "no such packet arrives"
    (let s := s.meshDemand.rxOn u.path
     if u.dport ≠ (s.tr.net >>> 48).setWidth 16 then s.dropOn (pathPort u.path)
     else match s.trCheck p with
       | (s, none) => s
       | (s, some q) => body q s)

/-- The site holds receive state for the step: exchange k or k − 1 has been accepted and no open exchange of an earlier
step has its slot. -/
def Transit.holds (t : Transit) (k : Word) : Bool :=
  (t.exch.any fun x => x.step == k || x.step + 1 == k) && !t.slotTaken k

/-- The step lies above every step the site holds. -/
def Transit.above (t : Transit) (k : Word) : Bool :=
  t.exch.all fun x => [x.step, x.step + 1].all fun j => !t.holds j || decide (k.toNat > j.toNat)

/-- T(k) has passed: the deadline event has come, or its tick has. -/
def State.pastT (s : State) (k : Word) : Bool :=
  (s.rxStep k).closed || match s.exchOf k with
    | some x => decide (s.tick.toNat ≥ x.accepted.toNat + 25000 * x.deadline)
    | none => false

def State.modRxStep (s : State) (r : RxStep) : State :=
  s.modTr fun t => { t with rx := (t.rx.filter fun y => y.step != r.step) ++ [r] }

/-- Count a packet EARLY or LATE; a LATE one counts for its step, where an exchange of it stands. -/
def State.trMiss (s : State) (k : Word) : State :=
  if s.tr.above k then s.trCount .early 1
  else
    let s := s.trCount .late 1
    if (s.exchOf k).isSome then
      let r := s.rxStep k
      s.modRxStep { r with late := r.late + 1 }
    else s

/-- The stream number of data fragment FIDX of a group. -/
def fragIndex (len ngroups k g f : Nat) : Nat := if g + 1 = ngroups then dataFrags len - k + f else k * g + f

/-- Write data fragments into the receive slot; bytes beyond L are padding. -/
def State.putFrags (s : State) (k : Word) (p : BitVec 6) (len : Nat) (fs : List (Nat × List Byte)) : State × Bool :=
  fs.foldl (fun a f =>
    let (s, ok) := a.1.trWrite (a.1.tr.rxSlot k p + 8192 * f.1) (f.2.take (len - 8192 * f.1))
    (s, a.2 && ok)) (s, true)

/-- A receive slot of a step has failed: its exchange fails, or will when it is accepted (R397). -/
def State.slotFault (s : State) (k : Word) : State :=
  let s := s.modRxStep { s.rxStep k with fault := true }
  match s.exchOf k with
  | some x => if x.isOpen then s.exchFail x 2 0 else s
  | none => s

/-- The sender's state with a fragment added, and the data fragments that it brings. -/
def RxSite.take (r : RxSite) (g f k : Nat) (bs : List Byte) : RxSite × List (Nat × List Byte) :=
  let key := 256 * g + f
  let parts := r.parts ++ [(key, bs)]
  let mine := (parts.filter fun x => x.1 / 256 == g).map fun x => (x.1 % 256, x.2)
  let own := if f < k then [(fragIndex r.len r.ngroups k g f, bs)] else []
  if mine.length ≥ k then
    match recover k mine with
    | some ds =>
      let fs := ds.mapIdx fun t d => (fragIndex r.len r.ngroups k g t, d)
      ({ r with
          got := key :: r.got, parts := parts.filter fun x => x.1 / 256 != g, decoded := g :: r.decoded
          data := (fs.map Prod.fst ++ r.data).dedup }, fs)
    | none => ({ r with got := key :: r.got, parts := parts, data := (own.map Prod.fst) ++ r.data }, own)
  else ({ r with got := key :: r.got, parts := parts, data := (own.map Prod.fst) ++ r.data }, own)

/-- A DATA or PARITY fragment that passes its checks. -/
def State.trPlace (s : State) (p : TrPkt) : State :=
  let s := s.reuseSlot p.ostep
  let st := s.rxStep p.ostep
  let r := (st.sites.find? fun r => r.site == p.src).getD
    { site := p.src, len := p.len.toNat, nsteps := p.nsteps, baseacc := p.acc, qfmt := p.qfmt, ngroups := p.ngroups.toNat,
      m := p.m.toNat, got := [], parts := [], decoded := [], data := [] }
  let g := p.group.toNat
  if r.got.contains (256 * g + p.fidx.toNat) then s.trCount .dup 1
  else if r.decoded.contains g then
    s.modRxStep { st with sites := (st.sites.filter fun y => y.site != p.src) ++ [{ r with got := (256 * g + p.fidx.toNat) :: r.got }] }
  else
    let (r', fs) := r.take g p.fidx.toNat p.k.toNat p.payload
    let (s, ok) := s.putFrags p.ostep p.src r.len fs
    let s := if r'.decoded.length > r.decoded.length then s.trCount .gdec 1 else s
    let s := s.modRxStep { st with sites := (st.sites.filter fun y => y.site != p.src) ++ [r'] }
    if ok then s else s.slotFault p.ostep

/-- TRANSIT_DATA_RX. -/
def execTransitDataRx (u : Udp) (p : TrPkt) (s : State) : Out :=
  trRx (fun t => t == 0 || t == 1) u p s fun p s =>
    if s.tr.holds p.ostep && !s.pastT p.ostep then s.trPlace p else s.trMiss p.ostep

/-! ### Acknowledgement (R414) -/

/-- Every group of every other site has decoded. -/
def State.allDecoded (s : State) (k : Word) : Bool :=
  (s.tr.siteList.filter fun p => p != s.tr.site).all fun p =>
    match (s.rxStep k).sites.find? fun r => r.site == p with
    | some r => decide (r.ngroups > 0) && decide (r.decoded.length = r.ngroups)
    | none => false

/-- Bytes cut into parts of one packet, the last padded; at least one. -/
def cutParts (bs : List Byte) : List (List Byte) :=
  (List.range (Max.max 1 ((bs.length + 8191) / 8192))).map fun i => dataFrag bs i

/-- The ACK series of a step about one sender, from what the site holds of it. -/
def Transit.ackSeries (t : Transit) (x : Exchange) (p : BitVec 6) (h : Option Held') : List TrPkt :=
  let bits := match h with
    | some h => h.decoded
    | none => []
  let ps := cutParts (bitmapBytes bits)
  ps.mapIdx fun i b =>
    { trHeader t 2 t.coord x.step with
      known := h.isSome, listen := x.listen, group := BitVec.ofNat 24 (p.toNat * 2 ^ 18 + i), nsteps := x.nsteps,
      ngroups := BitVec.ofNat 32 ps.length, len := BitVec.ofNat 64 bits.length, payload := b }

/-- Keep a part of an ACK series at the coordinator; a copy is dropped and counted. -/
def State.noteAck (s : State) (p : TrPkt) : State :=
  let sender : BitVec 6 := (p.group >>> 18).setWidth 6
  let part := p.group.toNat % 2 ^ 18
  let a := (s.tr.acks.find? fun a => a.step == p.ostep && a.src == p.src && a.sender == sender).getD
    { step := p.ostep, src := p.src, sender := sender, listen := p.listen, known := p.known, kept := p.len.toNat,
      nparts := p.ngroups.toNat, parts := [] }
  if a.parts.any fun x => x.1 == part then s.trCount .dup 1
  else s.modTr fun t => { t with
    acks := (t.acks.filter fun y => !(y.step == p.ostep && y.src == p.src && y.sender == sender)) ++
      [{ a with parts := a.parts ++ [(part, p.payload)] }] }

/-- The ACK packets of a step about every site of the job, where the receive slots can be read. -/
def State.ackPackets (s : State) (x : Exchange) : State × Except Unit (List TrPkt) :=
  s.tr.siteList.foldl (fun (a : State × Except Unit (List TrPkt)) p => match a.2 with
    | .error e => (a.1, .error e)
    | .ok l => match a.1.keptOf x p with
      | (s, .error e) => (s, .error e)
      | (s, .ok h) => (s, .ok (l ++ s.tr.ackSeries x p h))) (s, .ok [])

/-- The site's acknowledgements of a step, kept here where the site is the coordinator; a receive slot that cannot be read
fails the exchange instead (R397). -/
def State.sendAcks (s : State) (x : Exchange) : State :=
  match s.ackPackets x with
  | (s, .error _) => if x.isOpen then s.exchFail x 2 0 else s
  | (s, .ok ps) => if s.tr.coord = s.tr.site then ps.foldl (fun s p => s.noteAck p) s else s.trSend ps

/-- The ticks of a step's deadline; T(k) is that long after its exchange's acceptance (R412). -/
def Exchange.ticks (x : Exchange) : Nat := 25000 * x.deadline
/-- So many ticks have passed since an exchange's acceptance. -/
def State.exchAge (s : State) (x : Exchange) (n : Nat) : Bool := decide ((s.tick - x.accepted).toNat ≥ n)

/-- TRANSIT_DEADLINE: at T(k), or once every group has decoded, the acknowledgements go out once; at T(k) reception ends
and groups not decoded are lost. A FAILED exchange sends none (R425). -/
def execTransitDeadline (k : Word) (s : State) : Out :=
  match s.exchOf k with
  | none => .refused (.notEnabled "the exchange has not been accepted")
  | some x =>
    let full := s.allDecoded k && (x.contributed || x.listen)
    let st := s.rxStep k
    let quiet := x.acked || x.failed
    guard (s.fabOn && (full || s.exchAge x x.ticks) && !(quiet && (st.closed || full))) "no deadline is due"
      (let s := if full then s else
         (s.trCount .glost (if st.closed then 0 else st.groups.1)).modRxStep { st with closed := true }
       if quiet then s else (s.modExch k fun y => { y with acked := true }).sendAcks x)

/-- TRANSIT_ACK_RX: the coordinator takes ACKs until T(k) (R412) and until it has decided (log entry 37). -/
def execTransitAckRx (u : Udp) (p : TrPkt) (s : State) : Out :=
  trRx (fun t => t == 2) u p s fun p s =>
    if s.tr.coord != s.tr.site then s.trCount .dup 1
    else if s.tr.holds p.ostep && !s.pastT p.ostep && !s.tr.decided.contains p.ostep then s.noteAck p
    else s.trMiss p.ostep

/-! ### The coordinator (R415, R416) -/

/-- A site's ACK series about a sender has come whole. -/
def AckRec.whole (a : AckRec) : Bool := decide (a.nparts > 0) && decide (a.parts.length = a.nparts)

/-- The bits of a series. -/
def AckRec.bits (a : AckRec) : List Bool :=
  if a.known then bitsOf a.kept ((List.range a.nparts).flatMap fun i => ((a.parts.find? fun p => p.1 == i).map Prod.snd).getD [])
  else []

/-- Sites whose whole acknowledgement of a step has come. -/
def Transit.ackedBy (t : Transit) (k : Word) : List (BitVec 6) :=
  t.siteList.filter fun s => t.siteList.all fun p => t.acks.any fun a => a.step == k && a.src == s && a.sender == p && a.whole

/-- NSTEPS and BASEACC of a contribution as the coordinator has them. -/
def State.contribution (s : State) (x : Exchange) (p : BitVec 6) : Option (BitVec 32 × Word) :=
  if p = s.tr.site then if x.contributed then some (x.nsteps, x.baseacc) else none
  else (s.rxSite x.step p).map fun r => (r.nsteps, r.baseacc)

/-- common[p]: the AND of the receivers' bitmaps, over p's kept blocks. -/
def State.common (s : State) (x : Exchange) (receivers : List (BitVec 6)) (p : BitVec 6) : List Bool :=
  let mine := s.tr.acks.filter fun a => a.step == x.step && a.sender == p && receivers.contains a.src
  (List.range ((s.keptCount x p).getD 0)).map fun i => mine.all fun a => a.bits.getD i false

/-- A mask of sites. -/
def siteMask (l : List (BitVec 6)) : Word := l.foldl (fun m p => m ||| (1#64 <<< p.toNat)) 0

/-- The MERGE of a step as its coordinator decides it. -/
def State.mergeOf (s : State) (x : Exchange) : List Byte :=
  let t := s.tr
  let receivers := (t.ackedBy x.step).filter fun p => !t.acks.any fun a => a.step == x.step && a.src == p && a.listen
  let senders := receivers.filterMap fun p => (s.contribution x p).bind fun c =>
    if stepField c.2 + t.window ≥ x.step.toNat then some (p, c.1, c.2) else none
  wordBytes ([siteMask (senders.map fun p => p.1), siteMask receivers, t.accession (x.step.toNat + 1)] ++
      senders.flatMap fun p => [p.2.1.setWidth 64, p.2.2]) ++
    senders.flatMap fun p => bitmapBytes (s.common x receivers p.1)

/-- An exchange of the step, or of a later one, has been accepted. -/
def Transit.past (t : Transit) (k : Word) : Bool :=
  match t.lastStep with
  | some (j, n) => j == t.job && decide (k.toNat ≤ n.toNat)
  | none => false

/-- The parts of a MERGE arrive at an exchange; a copy that comes when its record is gone is counted (R425). -/
def State.takeMerge (s : State) (k : Word) (acc : Word) (nparts len part : Nat) (bs : List Byte) : State :=
  let s := s.noteSeen acc
  match s.exchOf k with
  | none =>
    if s.tr.gone.contains k then s.modTr fun t => { t with rejoin := true, gone := t.gone.filter fun y => y != k }
    else if s.tr.past k then s.trCount .dup 1
    else s
  | some x =>
    if x.merged || x.merge.any fun p => p.1 == part then s.trCount .dup 1
    else (s.modExch k fun y => { y with
      mergeParts := nparts, mergeLen := len, merge := y.merge ++ [(part, bs)]
      mergeAt := if y.merge.length + 1 = nparts then some s.tick else none }).mergeReady k

/-- The coordinator's view of a step: the exchange, with the slot as it held it where that has been used again. -/
def State.coordView (s : State) (k : Word) : State × Option Exchange :=
  match s.exchOf k with
  | some x => (s, some x)
  | none => match s.tr.old.find? fun e => e.1.step == k with
    | some (x, r) => (s.modTr fun t => { t with exch := [x], rx := [r] }, some x)
    | none => (s, none)

/-- COORD_DECIDE: every site has sent its ACKs, or 1.25 × DEADLINE has passed. -/
def execCoordDecide (k : Word) (s : State) : Out :=
  let (v, x) := s.coordView k
  match x with
  | none => .refused (.notEnabled "the exchange has not been accepted")
  | some x =>
    guard (s.fabOn && s.tr.valid && s.tr.coord == s.tr.site && !s.tr.decided.contains k &&
        (decide ((s.tr.ackedBy k).length = s.tr.siteList.length) || s.exchAge x (x.ticks + x.ticks / 4))) "nothing to decide"
      (let bs := v.mergeOf x
       let acc := s.tr.accession (k.toNat + 1)
       let ps := cutParts bs
       let s := s.modTr fun t => { t with decided := t.decided ++ [k], old := t.old.filter fun e => e.1.step != k }
       let out := (s.tr.siteList.filter fun p => p != s.tr.site).flatMap fun d => ps.mapIdx fun i b =>
         { trHeader s.tr 3 d k with
           group := BitVec.ofNat 24 i, nsteps := x.nsteps, ngroups := BitVec.ofNat 32 ps.length, len := BitVec.ofNat 64 bs.length, acc := acc, payload := b }
       let s := s.trSend out
       (ps.mapIdx fun i b => (i, b)).foldl (fun s p => s.takeMerge k acc ps.length bs.length p.1 p.2) s)

/-- TRANSIT_MERGE_RX: only from COORD. -/
def execTransitMergeRx (u : Udp) (p : TrPkt) (s : State) : Out :=
  trRx (fun t => t == 3) u p s fun p s =>
    if p.src != s.tr.coord then s.trCount .dup 1
    else s.takeMerge p.ostep p.acc p.ngroups.toNat p.len.toNat p.group.toNat p.payload

/-- TRANSIT_UNMERGED: 2 × DEADLINE has passed and no whole MERGE came by then, in whatever pass the exchange is; an exchange whose
contribution is not complete has nothing to give back. A MERGE that came since is applied late. -/
def execTransitUnmerged (k : Word) (s : State) : Out :=
  match s.exchOf k with
  | none => .refused (.notEnabled "the exchange has not been accepted")
  | some x =>
    guard (s.fabOn && x.isOpen && !x.inTime && s.exchAge x (2 * x.ticks)) "the exchange is not without its MERGE"
      (match s.residual x add32 (fun _ => x.contributed) with
       | (s, some b) => s.exchFail x 2 b
       | (s, none) => (s.exchEnd x 1 0 0 0 0).mergeReady k)

/-! ### Routes (R411) -/

/-- PROBEINT in ticks. -/
def Transit.probeInt (t : Transit) : Nat := 25000 * nfld t.net 16 16

/-- TRANSIT_PROBE_SEND: one on each route to each peer in PROBEINT. -/
def execTransitProbeSend (route : Fin 8) (dst : BitVec 6) (s : State) : Out :=
  let t := s.tr
  let sl := t.slot t.txSlot
  guard (s.fabOn && t.valid && (t.routes[route]).cfg.getLsbD 63 && sl.key.isSome && decide (sl.probes < 2 ^ 32) &&
      dst != t.site && t.siteList.contains dst && s.trPath.isSome &&
      sinceTick (Tbl.get none t.probed (64 * route.val + dst.toNat)) s.tick (t.probeInt)) "no PROBE is due"
    (let n := BitVec.ofNat 64 sl.probes
     let p := { trHeader t 4 dst n with route := BitVec.ofNat 3 route.val, len := s.tick }
     let s := s.modTr fun t => { (t.setSlot t.txSlot { sl with probes := sl.probes + 1 }) with
       probes := t.probes ++ [(t.txSlot, n, route)], probed := Tbl.set none t.probed (64 * route.val + dst.toNat) (some s.tick), rekeyDue := t.rekeyDue || decide (sl.probes ≥ 2 ^ 31) }
     s.trEmit route p)

/-- TRANSIT_PROBE_RX: an ECHO goes back on the route, under the PROBE's key slot, in which its number is unique (R411). -/
def execTransitProbeRx (u : Udp) (p : TrPkt) (s : State) : Out :=
  trRx (fun t => t == 4) u p s fun p s =>
    s.trEmit p.route.toFin { trHeader s.tr 5 p.src p.ostep with kslot := p.kslot, len := p.len }

/-- TRANSIT_ECHO_RX: the round trip since the tick that LEN carries moves srtt, in µs, and the route is UP; packets that
waited for one go out. -/
def execTransitEchoRx (u : Udp) (p : TrPkt) (s : State) : Out :=
  trRx (fun t => t == 5) u p s fun p s =>
    match s.tr.probes.find? fun x => x.1 == p.kslot && x.2.1 == p.ostep with
    | none => s.trCount .dup 1
    | some (b, n, r) =>
      (s.modTr fun t => { t with
        probes := t.probes.filter fun x => !(x.1 == b && x.2.1 == n)
        routes := t.routes.set r { t.routes[r] with
          up := true, echoAt := s.tick, srtt := BitVec.ofNat 32 (smooth (t.routes[r]).srtt.toNat ((s.tick - p.len).toNat / 25)) } }).trFlush

/-- ROUTE_DEAD: four probe intervals without an echo. The echo of a PROBE still in flight makes the route UP again. -/
def execRouteDead (route : Fin 8) (s : State) : Out :=
  guard (s.fabOn && (s.tr.routes[route]).up && decide ((s.tick - (s.tr.routes[route]).echoAt).toNat ≥ 4 * s.tr.probeInt))
    "the route has had an echo"
    (s.modTr fun t => { t with
      routes := t.routes.set route { t.routes[route] with up := false } })

/-! ### TRANSIT.pull (R423) -/

/-- Reserved fields of the descriptor are zero. -/
def pullFormat (ws : List Word) : Bool :=
  only (ew ws 0) 0xFFC0000000000000 && only (ew ws 1) 0x0000FFFFFFFFFFC0 && (ws.drop 2).all fun w => w == 0

/-- TRANSIT.pull. -/
def execTransitPull (p : Site) (o : LayP) (s : State) : Out :=
  portIssue p (.transitPull p o) o .transit s fun a s f v ws =>
    let t := s.tr
    let i : BitVec 10 := (ew ws 0 >>> 54).setWidth 10
    if !pullFormat ws then .refuse s 2
    else if !t.valid then .refuse s 0x10
    else if t.ctx ≠ s.ctxOf a.c ∨ (s.sess i).ctx ≠ t.ctx then .refuse s 3
    else if t.openCount > 0 || t.pull.isSome then .refuse s 0x15
    else
      let pull : Pull :=
        { sess := i, result := addr48 (ew ws 1), fence := f, value := v, stage := 0, first := 0, second := 0, accepted := s.tick }
      let s := s.modTr fun t => { t with pull := some pull }
      .accept (if (s.sess i).mode = .up then s.pullRead i (s.tr.addr 10) 8 true else s.pullEnd (some 4))

/-- TRANSIT_PULL_COMPLETE. -/
def execTransitPullComplete (s : State) : Out :=
  match s.tr.pull with
  | none => .refused (.notEnabled "no pull runs")
  | some p => guard (s.fabOn && p.stage == 4) "the second beacon has not been read"
      (s.pullEnd (if p.second = p.first then none else some 3))

/-! ### Job registers (R408, R426) -/

/-- Writable bits of `tr.job.cfg`, and those fixed while VALID is 1. -/
def trCfgMask : Word := 0xFFFF3FFFFF00FFFF
def trCfgFixed : Word := 0x7FFF00FF0000FFFF

/-- Open work ends: exchanges and a pull fail without a `tr.err` code (log entry 38). -/
def State.trEnd (s : State) : State :=
  let s := (s.tr.exch.filter Exchange.isOpen).foldl (fun s x => s.exchEnd x 3 0 0 0 0) s
  let s := match s.tr.pull with
    | some p => ((s.modFab fun b => { b with reqs := b.reqs.filter fun r => r.by' != ReqBy.pull }).modTr fun t => { t with pull := none }).send
        ⟨p.fence, p.value, true, .block⟩
    | none => s
  s.modTr fun t => { t.spendSteps with exch := [], rx := [], acks := [], decided := [], gone := [], left := [], old := [], held := [] }

/-- A write of `tr.job.cfg`. -/
def State.trCfgOp (s : State) (v : Word) : State :=
  let v := v &&& trCfgMask
  let was := s.tr.valid
  let s := if was && !v.getLsbD 63 then s.trEnd else s
  s.modTr fun t => { t with cfg := if was then (t.cfg &&& trCfgFixed) ||| (v &&& ~~~trCfgFixed) else v }

/-- TRANSIT_JOB_END: VALID written 0. -/
def execTransitJobEnd (m : RegMaster) (v : Word) (s : State) : Out :=
  guard (s.busOpen m && !v.getLsbD 63) "VALID is not written 0" (s.trCfgOp v)

/-- SWITCH of `tr.job.key`. -/
def State.trSwitch (s : State) : State :=
  (s.modTr fun t => if ((t.slot !t.txSlot).key).isSome then { t with txSlot := !t.txSlot } else { t with keyBusy := true }).trFlush

/-- RETIREs of `tr.job.key`: not the sending slot, and none an open exchange has sent under. -/
def State.trRetire (s : State) (slot : Bool) : State :=
  s.modTr fun t =>
    if t.txSlot == slot || t.exch.any fun x => x.isOpen && (if slot then x.under1 else x.under0) then { t with keyBusy := true }
    else t.setSlot slot TrSlot.empty

def execTransitKeySwitch (m : RegMaster) (s : State) : Out := guard (s.busOpen m) "no register path" s.trSwitch
def execTransitKeyRetire (m : RegMaster) (slot : Bool) (s : State) : Out :=
  guard (s.busOpen m) "no register path" (s.trRetire slot)

/-- CONTEXT_DESTROY of JOBCTX (R425): everything open ends unsignalled; VALID and both key slots clear. -/
def State.transitCancel (s : State) (c : BitVec 9) : State :=
  if s.tr.ctx == c then
    s.modTr fun t => { t with
      cfg := t.cfg &&& 0x7FFFFFFFFFFFFFFF, slot0 := TrSlot.empty, slot1 := TrSlot.empty, exch := [], rx := [], acks := [],
      decided := [], gone := [], left := [], old := [], held := [], pull := none }
  else s

end Sys2Proof.Machine
end

