-- ==== Sys2Proof/Machine/Vault.lean ====
section
/-! DEFINITION. The vault: its region, saves, commits, drains and restores (R427-R449). -/
namespace Sys2Proof.Machine

/-! ### Generations and their lines (R427, R429, R436) -/

/-- Generation A is 0, B is 1. -/
def genIdx (g : Bool) : Fin 2 := if g then 1 else 0

def State.gen (s : State) (g : Bool) : Gener := s.vault.gens[genIdx g]
def State.modGen (s : State) (g : Bool) (f : Gener → Gener) : State :=
  s.modVault fun v => { v with gens := v.gens.set (genIdx g) (f v.gens[genIdx g]) }

/-- GP, the pages of a generation. -/
def Mem.genPages (m : Mem) : Nat := m.vaultPages.toNat / 2

/-- The first page of a generation. -/
def Mem.genPage (m : Mem) (g : Bool) : Nat := memPages - m.vaultPages.toNat + (if g then m.genPages else 0)

/-- A byte of a generation by its offset. -/
def Mem.genDpa (m : Mem) (g : Bool) (off : Nat) : Nat := 0x200000 * m.genPage g + off

/-- The line of page q that takes the copy of line l: the same place of the same group. -/
def copyLine (l q : Nat) : Nat := lineOf (lineStack l) (lineGroup l) (32 * q + lineK l % 32)

/-- The cached lines of a page. -/
def Mem.cachedIn (m : Mem) (p : Nat) : List (Way SliceLine) :=
  (m.slice.flatMap fun e => e.2.ways.filterMap id).filter fun w => linePage w.tag == p

/-- The slices write back a page's dirty lines; writes that wait there go first. -/
def Mem.flushPage (m : Mem) (p : Nat) (tick : Word) : Mem :=
  let m := (m.parts.filter fun x => linePage x.line.toNat == p).foldl (fun m x => m.settle x.line.toNat noErr tick) m
  (m.cachedIn p).foldl (fun m w =>
    let m := m.writeBack (some w)
    { m with slice := cacheUpdate 16 m.slice (sliceSet w.tag) w.tag fun x => { x with dirty := false } }) m

/-- The in-stack copy of a page: ciphertext, sideband and written-map bits as stored (R314). -/
def Mem.copyPage (m : Mem) (p q : Nat) (tick : Word) : Mem :=
  let m := m.flushPage p tick
  let here (n l : Nat) : Bool := decide (l < memLines) && linePage l == n
  { m with
    slice := cacheDrop m.slice fun _ t _ => linePage t == q
    side := (m.side.filter fun e => here p e.1).foldl (fun t e => Tbl.set LineMeta.fresh t (copyLine e.1 q) e.2)
      (m.side.filter fun e => !here q e.1)
    dram := (m.dram.filter fun e => here p (e.1 / 256)).foldl
      (fun t e => Tbl.set 0 t (256 * copyLine (e.1 / 256) q + e.1 % 256) e.2)
      (m.dram.filter fun e => !here q (e.1 / 256)) }

/-- Clear the written map of every page from p on (R289, R428). -/
def Mem.clearFrom (m : Mem) (p : Nat) : Mem :=
  let mine (l : Nat) : Bool := decide (l < memLines) && decide (linePage l ≥ p)
  { m with
    side := m.side.filter fun e => !mine e.1
    dram := m.dram.filter fun e => !mine (e.1 / 256)
    slice := cacheDrop m.slice fun _ t _ => mine t }

/-- Clear the written map of one page in every stack. -/
def Mem.clearPage (m : Mem) (p : Nat) : Mem := (List.finRange 16).foldl (fun m k => m.mapClear k p) m

/-! ### Reading the vault back (R314, R441) -/

/-- What a read of the vault brings: bytes, and whether a line was poisoned or its tag failed. -/
structure VGot where
  bytes : List Byte
  poison : Bool
  held : Bool
deriving DecidableEq, Repr

def VGot.none' : VGot := ⟨[], false, false⟩
def VGot.ok (g : VGot) : Bool := !g.poison && !g.held

/-- Read a line through the controller under the address value its copy keeps. -/
def Mem.vaultLine (m : Mem) (l a : Nat) (tick : Word) : Mem × LineRes :=
  if m.stopped then (m, .withheld) else
  let m := m.settle l noErr tick
  match m.sliceFind l with
  | some x => (m, if x.poison then .data zeroLine true else .data x.data false)
  | none =>
    let x := m.side1 l
    if !x.written then (m, .data zeroLine false)
    else if !m.keyValid then (m, .withheld)
    else
      let (m, d) := m.decodeLine .demand (lineStack l) (lineGroup l) (lineK l) noErr tick
      if d.uncorr then (m.poisonLine l noErr, .data zeroLine true)
      else if d.poison then (m, .data zeroLine true)
      else if x.intact && x.keyGen == m.keyGen && x.a == a then (m, .data (m.dramLine l) false)
      else (m.tagHalt (lineStack l) .vault false a tick, .withheld)

/-- Read a run of bytes that starts at byte `dpa` as its lines were numbered when they were written; `home` says where
such a line stands. -/
def Mem.vaultRun (m : Mem) (home : Nat → Nat) (dpa n : Nat) (tick : Word) (got : VGot) : Mem × VGot :=
  (runsOf dpa (List.replicate n 0)).foldl (fun a r =>
    let (m, x) := a.1.vaultLine (home r.1) r.1 tick
    (m, { bytes := a.2.bytes ++ r.2.map (fun o => x.line.getD o.1 0),
          poison := a.2.poison || (match x with
            | .data _ p => p
            | .withheld => false),
          held := a.2.held || x == .withheld })) (m, got)

/-- The vault's own records: lines it wrote itself. -/
def State.vaultOwn (s : State) (g : Bool) (off n : Nat) : State × VGot :=
  let r := s.mem.vaultRun id (s.mem.genDpa g off) n s.tick VGot.none'
  ({ s with mem := r.1 }, r.2)

/-- The bytes of a shard: `pages` are its source pages, copied to the data pages from `vpage0` on. -/
def State.vaultShard (s : State) (g : Bool) (src len vpage0 : Nat) (pages : List Nat) : State × VGot :=
  let r := ((pagesOf src len).zip (pages.zipIdx)).foldl (fun a x =>
    a.1.vaultRun (fun l => copyLine l (s.mem.genPage g + vpage0 + x.2.2)) (0x200000 * x.2.1 + x.1.1 % 0x200000) x.1.2 s.tick a.2)
    (s.mem, VGot.none')
  ({ s with mem := r.1 }, r.2)

/-! ### Shard records (R438) -/

def shTensor (ws : List Word) : Nat := nfld (ew ws 0) 32 32
def shFmt (ws : List Word) : Option Fmt := Fmt.ofCode (BitVec.ofNat 5 (nfld (ew ws 0) 27 5))
def shLayout (ws : List Word) : Nat := nfld (ew ws 0) 16 8
def shTrows (ws : List Word) : Nat := nfld (ew ws 1) 32 32
def shTcols (ws : List Word) : Nat := nfld (ew ws 1) 0 32
def shR0 (ws : List Word) : Nat := nfld (ew ws 2) 32 32
def shR1 (ws : List Word) : Nat := nfld (ew ws 2) 0 32
def shC0 (ws : List Word) : Nat := nfld (ew ws 3) 32 32
def shC1 (ws : List Word) : Nat := nfld (ew ws 3) 0 32
/-- SRC of a shard, DST of a placement entry; STRIDE and DSTRIDE. -/
def shSrc (ws : List Word) : Nat := nfld (ew ws 4) 0 48
def shStride (ws : List Word) : Nat := nfld (ew ws 5) 0 48
/-- Element width in bits. -/
def shBits (ws : List Word) : Nat :=
  match shFmt ws with
  | some f => f.bits
  | none => 8
def shRowLen (ws : List Word) : Nat := (shC1 ws - shC0 ws) * shBits ws / 8
def shLen (ws : List Word) : Nat := (shR1 ws - shR0 ws - 1) * shStride ws + shRowLen ws

/-- Pages that [src, src + len) touches. -/
def touched (src len : Nat) : Nat := (src % 0x200000 + len + 0x1FFFFF) / 0x200000

/-- Reserved values and fields of a save's descriptor. -/
def saveFormat (ws : List Word) : Bool :=
  only (ew ws 0) 0xFFFFFFFFFFFF0000 && only (ew ws 4) dvaMask && only (ew ws 5) dvaMask && ew ws 7 == 0 &&
    (shFmt ws).isSome && decide (shLayout ws ≤ 1)

/-- The ranges and fields of a shard record are as R438 has them. -/
def shardRanges (ws : List Word) : Bool :=
  let group := match shFmt ws with
    | some f => f.group
    | none => 1
  decide (shR0 ws < shR1 ws) && decide (shR1 ws ≤ shTrows ws) && decide (shC0 ws < shC1 ws) &&
    decide (shC1 ws ≤ shTcols ws) && decide (shStride ws ≥ shRowLen ws) && shC0 ws % group == 0 && shC1 ws % group == 0 &&
    (shLayout ws == 0 || (shFmt ws == some .uint8 && shR0 ws == 0 && shR1 ws == 1 && shC0 ws == 0 && shC1 ws == shTcols ws))

/-! ### Requests (R434, R435) -/

/-- The open generation. -/
def Vault.openGen (v : Vault) : Option Bool :=
  if (v.gens[genIdx false]).isOpen then some false else if (v.gens[genIdx true]).isOpen then some true else none

def Vault.anyCommit (v : Vault) : Bool := (v.gens[genIdx false]).committed || (v.gens[genIdx true]).committed

/-- The generation the next open takes. -/
def Vault.target (v : Vault) : Bool := if v.anyCommit then !v.newest else false

def VaultJob.isRestore : VaultJob → Bool
  | .restore .. => true
  | _ => false
def VaultJob.isCommit : VaultJob → Bool
  | .commit .. => true
  | _ => false

def VaultJob.isSave : VaultJob → Bool
  | .save .. => true
  | _ => false

/-- A restore runs, or a commit of the open generation runs. -/
def Vault.busy (v : Vault) : Bool := v.jobs.any fun j => j.isRestore || j.isCommit

/-- A VAULT instruction: VAULT_OFF, NO_RIGHT and the format are tested first (log entry 36). -/
def vaultIssue (p : Site) (i : Instr) (o : LayP) (s : State) (format : List Word → Bool)
    (body : State → (fence : BitVec 14) → (value : Word) → (desc : List Word) → Answer) : Out :=
  portIssue p i o .vault s fun a s f v ws =>
    if !format ws then .refuse s 2
    else if !s.mem.vaultEn then .refuse s 0x10
    else if s.ctxOf a.c ≠ s.vault.vctx then .refuse s 3
    else body s f v ws

/-- Some page of a range is sealed. -/
def State.anySealed (s : State) (src len : Nat) : State × Bool :=
  (pagesOf src len).foldl (fun a r =>
    let (s, f) := a.1.xlate a.1.vault.vctx r.1
    (s, a.2 || (match f with
      | some f => f.s
      | none => false))) (s, false)

/-- Open a generation for an accession (R435): saves of an abandoned one fail, a drain of the target stops. -/
def State.openFor (s : State) (g : Bool) (acc : Word) : State :=
  let s := s.vault.jobs.foldl (fun s j => match j with
    | .save f v _ i => (s.vaultErr 3 0 i).send ⟨f, v, true, .block⟩
    | _ => s) s
  let s := s.modVault fun v => { v with jobs := [] }
  let s := match s.vault.openGen with
    | some o => s.modGen o fun x => { x with isOpen := false }
    | none => s
  let s := s.modMem fun m => m.clearPage (m.genPage g)
  let s := match s.vault.drain with
    | some d => if d.gen = g then (s.drainStop (some 3)).modVault fun v => { v with preempt := true } else s
    | none => s
  s.modGen g fun _ => { Gener.empty with isOpen := true, acc := acc }

/-- The generation a save goes to, and whether it is opened for it; none where the accession breaks the order. -/
def Vault.saveTo (v : Vault) (acc : Word) : Option (Bool × Bool) :=
  match v.openGen with
  | none => some (v.target, true)
  | some g =>
    let x := (v.gens[genIdx g]).acc
    if nfld x 48 16 ≠ nfld acc 48 16 ∨ acc.toNat < x.toNat then none
    else if acc = x then some (g, false) else some (v.target, true)

def execVaultSave (p : Site) (o : LayP) (s : State) : Out :=
  vaultIssue p (.vaultSave p o) o s saveFormat fun s f v ws =>
    let acc := ew ws 6
    let src := shSrc ws
    let len := shLen ws
    let n := touched src len
    let to' := s.vault.saveTo acc
    let (used, shards) := match to' with
      | some (g, false) => ((s.gen g).used, (s.gen g).shards.length)
      | _ => (0, 0)
    if !shardRanges ws then .refuse s 0x11
    else if s.mem.genPages - 1 - used < n ∨ shards ≥ 4096 then .refuse s 0x12
    else
      let (s, sealed') := s.anySealed src len
      if sealed' then .refuse s 0x13
      else match to' with
        | none => .refuse s 0x14
        | some (g, fresh) =>
          if s.vault.busy then .refuse s 0x15
          else
            let s := if fresh then s.openFor g acc else s
            let i := (s.gen g).shards.length
            let s := s.modGen g fun x => { x with
              used := x.used + n
              shards := x.shards ++ [{ words := ws.take 6, npages := n, vpage0 := x.used + 1, pages := [] }] }
            .accept (s.modVault fun y => { y with jobs := y.jobs ++ [.save f v g i] })

def commitFormat (ws : List Word) : Bool := (ws.drop 3).all fun w => w == 0

def execVaultCommit (p : Site) (o : LayP) (s : State) : Out :=
  vaultIssue p (.vaultCommit p o) o s commitFormat fun s f v ws =>
    match s.vault.openGen with
    | none => .refuse s 0x14
    | some g =>
      if (s.gen g).acc ≠ ew ws 1 ∨ (s.gen g).shards.length ≠ nfld (ew ws 0) 0 32 then .refuse s 0x14
      else if s.vault.busy then .refuse s 0x15
      else .accept (s.modVault fun y => { y with jobs := y.jobs ++ [.commit f v g ws] })

def restoreFormat (ws : List Word) : Bool :=
  let w := ew ws 0
  let src := nfld w 62 2
  let place := nfld w 16 16
  let img := nfld w 0 16
  let keys := nfld (ew ws 4) 0 16
  only w 0xE0000000FFFFFFFF && only (ew ws 1) dvaMask && only (ew ws 2) dvaMask && only (ew ws 3) dvaMask &&
    only (ew ws 4) 0xFFFF && only (ew ws 5) 0x0000FFFFFFFFFFC0 && ew ws 6 == 0 && ew ws 7 == 0 &&
    decide (1 ≤ place) && decide (place ≤ 4096) && decide (1 ≤ keys) && decide (keys ≤ 1024) &&
    (if src = 3 then decide (1 ≤ img) && decide (img ≤ 4096) else img == 0)

/-- VAULT.restore. DEDUCED (log entry 28): a save has a generation open (R449) while it runs; once no save runs, a generation that
a failure left open without a commit keeps no restore from the older one (R447). -/
def execVaultRestore (p : Site) (o : LayP) (images : List StagedImage) (s : State) : Out :=
  vaultIssue p (.vaultRestore p o images) o s restoreFormat fun s f v ws =>
    let src := nfld (ew ws 0) 62 2
    let committed := match src with
      | 0 => s.vault.anyCommit
      | 1 => (s.gen false).committed
      | 2 => (s.gen true).committed
      | _ => true
    if s.vault.busy || (src != 3 && s.vault.jobs.any VaultJob.isSave) then .refuse s 0x15
    else if !committed then .refuse s 0x16
    else .accept (s.modVault fun y => { y with jobs := y.jobs ++ [.restore f v ws images s.tick] })

/-! ### The work (R436, R441) -/

/-- The first job is done. -/
def State.jobDone (s : State) (f : BitVec 14) (v : Word) (failed : Bool) : State :=
  (s.modVault fun y => { y with jobs := y.jobs.tail }).send ⟨f, v, failed, .block⟩

/-- Copy the pages of a save in ascending order: the source pages, or nothing where a page has no translation or right. -/
def State.saveCopy (s : State) (g : Bool) (x : Shard) : State × Option (List Nat) :=
  (pagesOf (shSrc x.words) (shLen x.words)).foldl (fun a r =>
    match a.2 with
    | none => a
    | some ps =>
      let (s, f) := a.1.xlate a.1.vault.vctx r.1
      match f with
      | none => (s, none)
      | some f =>
        if f.s || !f.r then (s, none)
        else (s.modMem fun m => m.copyPage f.page.toNat (m.genPage g + x.vpage0 + ps.length) s.tick,
              some (ps ++ [f.page.toNat]))) (s, some [])

/-- Put shard i of a generation. -/
def State.setShard (s : State) (g : Bool) (i : Nat) (x : Shard) : State :=
  s.modGen g fun y => { y with shards := y.shards.set i x }

/-- VAULT_SAVE_COMPLETE: a page without translation or right fails the save and with it the generation. -/
def execVaultSaveComplete (s : State) : Out :=
  match s.vault.jobs with
  | .save f v g i :: _ =>
    let x := (s.gen g).shards.getD i { words := [], npages := 0, vpage0 := 0, pages := [] }
    guard (s.fabOn && s.glob.stackRun) "the vault does not run"
      (match s.saveCopy g x with
       | (s, some ps) => (s.setShard g i { x with pages := ps }).jobDone f v false
       | (s, none) => ((s.modGen g fun y => { y with broken := true }).vaultErr 1 0 i).jobDone f v true)
  | _ => .refused (.notEnabled "no save is next")

/-- The key its 32 bytes spell. -/
def keyOf (bs : List Byte) : BitVec 256 := BitVec.ofNat 256 (beNat (bs.take 32))

/-- The shard record the engine writes (R438). -/
def shardRecord (x : Shard) (digest : BitVec 256) : List Byte :=
  wordBytes (x.words ++ [at' x.npages 32 ||| at' x.vpage0 0, BitVec.ofNat 64 (shLen x.words)]) ++ keyBytes digest ++
    List.replicate 32 0

/-- The accession record (R439). -/
def accRecord (s : State) (g : Gener) (ws : List Word) : List Byte :=
  wordBytes [g.acc, ew ws 2, (ew ws 0 &&& 0xFFFFFFFF00000000) ||| at' g.shards.length 0,
    0x100000000 ||| s.reg.resetgen.setWidth 64] ++ keyBytes identityKey

/-- The commit record (R440). -/
def commitRecord (gen : Bool) (g : Gener) (manifest : List Byte) : List Byte :=
  wordBytes [0x8000000000000000 ||| flag gen 62 ||| at' g.shards.length 0, g.acc, BitVec.ofNat 64 manifest.length,
    BitVec.ofNat 64 g.used] ++ keyBytes (sha256 manifest)

/-- The engine writes its own records, as class 0. -/
def State.vaultPut (s : State) (g : Bool) (off : Nat) (bs : List Byte) : State :=
  s.modMem fun m => m.writeBytes .vault 0 (m.genDpa g off) bs s.tick

/-- Step 1 of a commit: the digests of the shards in order; the first shard that is poisoned, or whose tag failed. -/
def State.digests (s : State) (g : Bool) : State × List (BitVec 256) × Option (Nat × Bool) :=
  (s.gen g).shards.zipIdx.foldl (fun a x =>
    match a.2.2 with
    | some _ => a
    | none =>
      let (s, got) := a.1.vaultShard g (shSrc x.1.words) (shLen x.1.words) x.1.vpage0 x.1.pages
      if got.held then (s, a.2.1, some (x.2, true))
      else if got.poison then (s, a.2.1, some (x.2, false))
      else (s, a.2.1 ++ [sha256 got.bytes], none)) (s, [], none)

/-- Steps 2 to 5 of a commit. The commit closes its generation. -/
def State.commitWrite (s : State) (g : Bool) (ds : List (BitVec 256)) (f : BitVec 14) (v : Word) (ws : List Word) : State :=
  let x := s.gen g
  let body := accRecord s x ws ++ (List.zipWith shardRecord x.shards ds).flatten
  let pages := (x.shards.flatMap fun y => y.pages).flatMap fun p => leBytes 4 p
  let s := (s.vaultPut g 0x1000 body).vaultPut g 0x100000 pages
  if !s.reg.idReady then (s.vaultErr 6 1 0).jobDone f v true
  else
    let manifest := body ++ slhSig body
    let s := (s.vaultPut g 0x1000 manifest).vaultPut g 0 (commitRecord g x manifest)
    let s := s.modGen g fun y => { y with committed := true, isOpen := false }
    (s.modVault fun y => { y with newest := g, since := s.tick, fired := false }).jobDone f v false

/-- VAULT_COMMIT_COMPLETE: a poisoned line or a failed save fails the commit; a failed tag starts the halt, which ends
all work. -/
def execVaultCommitComplete (s : State) : Out :=
  match s.vault.jobs with
  | .commit f v g ws :: _ =>
    guard (s.fabOn && s.glob.stackRun) "the vault does not run"
      (if (s.gen g).broken then (s.vaultErr 1 1 0).jobDone f v true
       else match s.digests g with
         | (s, _, some (_, true)) => s
         | (s, _, some (i, false)) => (s.vaultErr 2 1 i).jobDone f v true
         | (s, ds, none) => s.commitWrite g ds f v ws)
  | _ => .refused (.notEnabled "no commit is next")

/-! ### Images (R439, R440, R442) -/

/-- A committed image as a drain, a restore from the vault or a staged image has it: its commit record and manifest, and
where its shards' bytes are. -/
structure VImage where
  /-- Its place in the list of staged images. -/
  index : Nat
  cr : List Word
  mdigest : List Byte
  manifest : List Byte
  /-- The generation, where the image stands in the vault; else its whole plaintext. -/
  gen : Option Bool
  bytes : List Byte
deriving DecidableEq, Repr

def VImage.acc (x : VImage) : Word := ew (leWords 8 x.manifest) 0
def VImage.modules (x : VImage) : Nat := nfld (ew (leWords 8 x.manifest) 2) 48 16
def VImage.modidx (x : VImage) : Nat := nfld (ew (leWords 8 x.manifest) 2) 32 16
def VImage.idkey (x : VImage) : BitVec 256 := keyOf (x.manifest.drop 32)

/-- The length the commit record gives the manifest, within what a manifest can have. -/
def manifestLen (cr : List Word) : Nat := Min.min (nfld (ew cr 2) 0 32) (64 + 128 * 4096 + 17088)

/-- The shard records of an image: sixteen words each. -/
def VImage.records (x : VImage) : List (List Word) :=
  let n := Min.min (nfld (ew (leWords 8 x.manifest) 2) 0 32) ((x.manifest.length - 64 - 17088) / 128)
  (List.range n).map fun i => leWords 16 (x.manifest.drop (64 + 128 * i))

/-- Round up to 4 KiB. -/
def up4k (n : Nat) : Nat := (n + 4095) / 4096 * 4096

/-- Bytes of a shard in a packed image. -/
def packedLen (ws : List Word) : Nat := (shR1 ws - shR0 ws) * shRowLen ws

/-- Where shard i begins in a packed image. -/
def VImage.offset (x : VImage) (i : Nat) : Nat :=
  up4k (64 + x.manifest.length) + ((x.records.take i).map fun ws => up4k (packedLen ws)).sum

/-- The commit record and manifest of a generation as its lines read. -/
def State.vaultImage (s : State) (g : Bool) : State × VImage × VGot :=
  let (s, a) := s.vaultOwn g 0 64
  let cr := leWords 8 a.bytes
  let (s, b) := s.vaultOwn g 0x1000 (manifestLen cr)
  (s, { index := 0, cr := cr, mdigest := a.bytes.drop 32, manifest := b.bytes, gen := some g, bytes := [] },
   ⟨[], a.poison || b.poison, a.held || b.held⟩)

/-- The source pages of a shard, from the page list. -/
def State.pageList (s : State) (g : Bool) (ws : List Word) : State × List Nat × VGot :=
  let n := nfld (ew ws 6) 32 32
  let (s, b) := s.vaultOwn g (0x100000 + 4 * (nfld (ew ws 6) 0 32 - 1)) (4 * n)
  (s, (List.range n).map (fun i => leNat ((b.bytes.drop (4 * i)).take 4)), b)

/-- The LEN bytes of a shard of a generation. -/
def State.genShard (s : State) (g : Bool) (ws : List Word) : State × VGot :=
  let (s, ps, a) := s.pageList g ws
  let (s, b) := s.vaultShard g (shSrc ws) (shLen ws) (nfld (ew ws 6) 0 32) ps
  (s, ⟨b.bytes, a.poison || b.poison, a.held || b.held⟩)

/-- Rows of a shard, packed at the row length. -/
def packRows (ws : List Word) (bs : List Byte) : List Byte :=
  (List.range (shR1 ws - shR0 ws)).flatMap fun j => (bs.drop (j * shStride ws)).take (shRowLen ws)

def pad4k (bs : List Byte) : List Byte := bs ++ List.replicate (up4k bs.length - bs.length) 0

/-- The drained image of a generation in plaintext. -/
def State.drainImage (s : State) (g : Bool) : State × VImage × VGot :=
  let (s, x, a) := s.vaultImage g
  let head := pad4k (wordBytes (x.cr.take 4) ++ x.mdigest ++ x.manifest)
  let r := x.records.foldl (fun (b : State × VGot) ws =>
    let (s, got) := b.1.genShard g ws
    (s, ⟨b.2.bytes ++ pad4k (packRows ws got.bytes), b.2.poison || got.poison, b.2.held || got.held⟩))
    (s, ⟨head, a.poison, a.held⟩)
  (r.1, x, r.2)

/-! ### Drain (R442, R449) -/

/-- The nonce of chunk c, and the additional data. -/
def chunkNonce (acc : Word) (modidx c : Nat) : List Byte := beBytes 6 (nfld acc 0 48) ++ beBytes 2 modidx ++ beBytes 4 c
def chunkAad (acc : Word) : List Byte := beBytes 8 acc.toNat

/-- Chunk c sealed: 65,536 B of ciphertext and the tag. -/
def sealChunk (key : BitVec 256) (acc : Word) (modidx c : Nat) (bs : List Byte) : List Byte :=
  let n := chunkNonce acc modidx c
  let ct := gcmCrypt key n (bs ++ List.replicate (65536 - bs.length) 0)
  ct ++ gcmTag key n (chunkAad acc) ct

/-- Where a drain goes: a session or a queue pair. -/
def drainSess (ws : List Word) : BitVec 10 := (ew ws 0 >>> 52).setWidth 10
def drainQp (ws : List Word) : BitVec 12 := (ew ws 0 >>> 50).setWidth 12

def drainFormat (ws : List Word) : Bool :=
  (ws.drop 3).all (fun w => w == 0) &&
    (if (ew ws 0).getLsbD 62 then only (ew ws 0) 0xFFF0000000000000 && only (ew ws 1) dvaMask && ew ws 2 == 0
     else only (ew ws 0) 0xFFFC000000000000 && only (ew ws 2) 0xFFFFFFFF00000000)

/-- A chunk becomes a request of the fabric. -/
def State.drainChunk (s : State) (ws : List Word) (c : Nat) (bs : List Byte) : State :=
  let at'' := ew ws 1 + BitVec.ofNat 64 (65552 * c)
  let r : Req := { reqNone with by' := .drain, ctx := s.vault.vctx, raddr := at'', len := bs.length, bytes := some bs }
  if (ew ws 0).getLsbD 62 then
    s.nctMessage (drainSess ws) { r with kind := .nput (drainSess ws) none, total := nctBlocks at''.toNat bs.length }
  else s.addReq { r with kind := .qwrite (drainQp ws) (ew ws 2 >>> 32 |>.setWidth 32), total := mtuPackets bs.length }

def Vault.key (v : Vault) (slot : Bool) : Option (BitVec 256) := if slot then v.key1 else v.key0

/-- The session or queue pair belongs to VCTX, and it works. -/
def State.drainMine (s : State) (ws : List Word) : Bool :=
  if (ew ws 0).getLsbD 62 then (s.sess (drainSess ws)).ctx == s.vault.vctx else (s.qp (drainQp ws)).ctx == s.vault.vctx
def State.drainUp (s : State) (ws : List Word) : Bool :=
  if (ew ws 0).getLsbD 62 then (s.sess (drainSess ws)).mode == .up else (s.qp (drainQp ws)).ready

/-- Start a drain of the newest generation. Its image is read at once: it stays as it is while the drain reads it. -/
def State.drainStart (s : State) (f : BitVec 14) (v : Word) (ws : List Word) (key : BitVec 256) : State :=
  let g := s.vault.newest
  let (s, x, got) := s.drainImage g
  let d : DrainJob := { fence := f, value := v, gen := g, slot := s.vault.txSlot, base := ew ws 1, size := got.bytes.length }
  let s := s.modVault fun y => { y with drain := some d, drainBytes := 0 }
  if got.held then s
  else if got.poison then s.drainStop (some 2)
  else if !s.drainUp ws then s.drainStop (some 5)
  else (List.range d.chunks).foldl (fun s c =>
    s.drainChunk ws c (sealChunk key x.acc x.modidx c ((got.bytes.drop (65536 * c)).take 65536))) s

/-- VAULT.drain. A START while a drain runs waits for its end: the spec gives it no refusal (DESIGN CHOICE, log entry
28). -/
def execVaultDrain (p : Site) (o : LayP) (s : State) : Out :=
  vaultIssue p (.vaultDrain p o) o s drainFormat fun s f v ws =>
    if !(ew ws 0).getLsbD 63 then .accept ((s.drainStop none).send ⟨f, v, false, .block⟩)
    else if !s.drainMine ws then .refuse s 3
    else match s.vault.key s.vault.txSlot with
      | none => .refuse s 3
      | some key =>
        if s.vault.busy then .refuse s 0x15
        else if !s.vault.anyCommit then .refuse s 0x16
        else if s.vault.drain.isSome then .full s
        else .accept (s.drainStart f v ws key)

/-- DRAIN_COMPLETE. -/
def execDrainComplete (s : State) : Out :=
  match s.vault.drain with
  | some d =>
    guard (s.fabOn && s.drainDone.length == d.chunks) "chunks are not acknowledged"
      (s.drainOver.send ⟨d.fence, d.value, false, .block⟩)
  | none => .refused (.notEnabled "no drain runs")

/-! ### Restore (R443-R446) -/

/-- Open a staged image: every chunk decrypts under the key slot, the accession and the index it was sealed under. -/
def openChunks (key : BitVec 256) (h : StagedImage) : (n c : Nat) → List Byte → Option (List Byte)
  | 0, _, _ => some []
  | n + 1, c, bs =>
    match gcmOpen key (chunkNonce h.acc h.modidx.toNat c) (chunkAad h.acc) (bs.take 65536) ((bs.drop 65536).take 16) with
    | none => none
    | some p => (openChunks key h n (c + 1) (bs.drop 65552)).map (p ++ ·)

/-- A staged image parsed. -/
def parseImage (i : Nat) (bs : List Byte) : VImage :=
  let cr := leWords 8 (bs.take 64)
  { index := i, cr := cr, mdigest := (bs.drop 32).take 32, manifest := (bs.drop 64).take (manifestLen cr), gen := none, bytes := bs }

/-- VALID, MDIGEST, the signature and its key; a record that names a reserved format is malformed (R44). -/
def VImage.good (x : VImage) (keys : List (BitVec 256)) : Bool :=
  let body := x.manifest.take (x.manifest.length - 17088)
  (ew x.cr 0).getLsbD 63 && keyBytes (sha256 x.manifest) == x.mdigest &&
    decide (x.manifest.length = 64 + 128 * x.records.length + 17088) &&
    slhVerify slh128f x.idkey body (x.manifest.drop (x.manifest.length - 17088)) && keys.contains x.idkey &&
    x.records.all fun ws => (shFmt ws).isSome

/-- A shard record and a placement entry match (R445); of an opaque entry R0 names the producing module. -/
def matches' (modidx : Nat) (sh e : List Word) : Bool :=
  shTensor sh == shTensor e && shFmt sh == shFmt e && shLayout sh == shLayout e &&
    (if shLayout e = 1 then modidx == shR0 e else shTrows sh == shTrows e && shTcols sh == shTcols e)

/-- A shard ready to be placed: its record, the module, the bytes from row to row and the bytes. -/
structure Loaded where
  words : List Word
  modidx : Nat
  pitch : Nat
  bytes : List Byte
deriving DecidableEq, Repr

/-- The LEN bytes of a packed shard: the bytes between its rows are not in the image, and what they were is open. -/
def unpackRows (ws : List Word) (bs : List Byte) (free : Nat) : List Byte :=
  (List.range (shLen ws)).map fun o =>
    let r := o / shStride ws
    let c := o % shStride ws
    if c < shRowLen ws then bs.getD (r * shRowLen ws + c) 0 else Config.freeByte free o

/-- Load a shard of an image and check its DIGEST; none where it does not match. -/
def State.loadShard (s : State) (x : VImage) (i : Nat) (ws : List Word) : State × Option Loaded :=
  let good (bs : List Byte) : Bool := keyBytes (sha256 bs) == (wordBytes (ws.drop 8)).take 32
  match x.gen with
  | some g =>
    let (s, got) := s.genShard g ws
    (s, if got.ok && good got.bytes then some ⟨ws, x.modidx, shStride ws, got.bytes⟩ else none)
  | none =>
    let bs := (x.bytes.drop (x.offset i)).take (packedLen ws)
    let full := unpackRows ws bs s.glob.free
    (s.modGlob fun g => { g with free := g.free + 1 },
     if good full then some ⟨ws, x.modidx, shRowLen ws, bs⟩ else none)

/-- Load every shard of the images that an entry needs: the shards, or the number of the first that does not match. -/
def State.loadSet (s : State) (xs : List VImage) (es : List (List Word)) : State × Except Nat (List Loaded) :=
  (xs.flatMap fun x => x.records.zipIdx.map fun r => (x, r.2, r.1)).foldl (fun a r =>
    match a.2 with
    | .error _ => a
    | .ok l =>
      if !(es.any fun e => matches' r.1.modidx r.2.2 e) then a
      else match a.1.loadShard r.1 r.2.1 r.2.2 with
        | (s, some y) => (s, .ok (l ++ [y]))
        | (s, none) => (s, .error r.2.1)) (s, .ok [])

/-- A candidate set: its images in ascending MODIDX, whether it is complete, and how many shards or images it counts for
with the number of the first when it is rejected. -/
structure Candidate where
  images : List VImage
  whole : Bool
  count : Nat
  first : Nat
deriving DecidableEq, Repr

/-- Exactly one image of each MODIDX from 0 to MODULES − 1. -/
def wholeSet (xs : List VImage) : Bool :=
  match xs with
  | [] => false
  | x :: _ => (xs.all fun y => y.modules == x.modules) && xs.length == x.modules &&
      (List.range x.modules).all fun i => xs.any fun y => y.modidx == i

/-- Insert into a list in order. -/
def insertBy {α : Type} (le : α → α → Bool) (x : α) : List α → List α
  | [] => [x]
  | y :: t => if le x y then x :: y :: t else y :: insertBy le x t

/-- A list in order. -/
def sortBy {α : Type} (le : α → α → Bool) (l : List α) : List α := l.foldr (insertBy le) []

/-- Accessions of images, newest first. -/
def accessions (xs : List VImage) : List Word :=
  sortBy (fun a b => decide (a.toNat ≥ b.toNat)) (xs.map VImage.acc).eraseDups

/-- The candidates of the staged images. -/
def stagedSets (xs : List VImage) : List Candidate :=
  (accessions xs).map fun a =>
    let g := xs.filter fun (x : VImage) => x.acc == a
    { images := sortBy (fun x y => decide (x.modidx ≤ y.modidx)) g, whole := wholeSet g, count := g.length
      first := (g.map VImage.index).foldl Min.min 65535 }

/-- The candidates of the vault. -/
def State.vaultSets (s : State) (src : Nat) : State × List Candidate :=
  let gs := sortBy (fun a b => decide ((s.gen a).acc.toNat ≥ (s.gen b).acc.toNat))
    ([false, true].filter fun g => (s.gen g).committed && (src == 0 || src == (genIdx g).val + 1))
  gs.foldl (fun a g =>
    let (s, x, got) := a.1.vaultImage g
    (s, a.2 ++ [{ images := [x], whole := got.ok, count := (s.gen g).shards.length, first := 0 }])) (s, [])

/-- What choosing a set finds: the set with its shards, and the count and the first number of what was rejected. -/
structure Choice where
  set : Option (Candidate × List Loaded)
  bad : Nat
  first : Option Nat

/-- Try the candidates in order. -/
def State.choose (s : State) (keys : List (BitVec 256)) (es : List (List Word)) (cs : List Candidate) (c : Choice) :
    State × Choice :=
  cs.foldl (fun a x =>
    match a.2.set with
    | some _ => a
    | none =>
      let reject (s : State) (i : Nat) : State × Choice :=
        (s, { a.2 with bad := a.2.bad + x.count, first := match a.2.first with
          | some f => some f
          | none => some i })
      if !(x.whole && x.images.all fun y => y.good keys) then reject a.1 x.first
      else match a.1.loadSet x.images es with
        | (s, .ok l) => (s, { a.2 with set := some (x, l) })
        | (s, .error i) => reject s (if (x.images.any fun y => y.gen.isSome) then i else x.first)) (s, c)

/-- The runs of an entry that a shard covers: byte in the shard, destination and length. DESIGN CHOICE (log entry 46): in a
packed format an entry whose C0 or C1 is no group boundary has its bit offsets and lengths rounded down to bytes. -/
def coverRuns (y : Loaded) (e : List Word) : List (Nat × Nat × Nat) :=
  if shLayout e = 1 then [(0, shSrc e, Min.min (shC1 e) y.bytes.length)].filter fun p => decide (p.2.2 > 0)
  else
    let ws := y.words
    let r0 := Max.max (shR0 ws) (shR0 e)
    let r1 := Min.min (shR1 ws) (shR1 e)
    let c0 := Max.max (shC0 ws) (shC0 e)
    let c1 := Min.min (shC1 ws) (shC1 e)
    let b := shBits ws
    if c1 ≤ c0 then []
    else (List.range (r1 - r0)).map fun j =>
      ((r0 + j - shR0 ws) * y.pitch + (c0 - shC0 ws) * b / 8,
       shSrc e + (r0 + j - shR0 e) * shStride e + (c0 - shC0 e) * b / 8, (c1 - c0) * b / 8)

/-- Elements of an entry that no shard covers. -/
def uncovered (ls : List Loaded) (e : List Word) : Nat :=
  if shLayout e = 1 then shC1 e - (ls.map fun y => Min.min (shC1 e) y.bytes.length).foldl Max.max 0
  else ((List.range (shR1 e - shR0 e)).map fun j =>
    ((List.range (shC1 e - shC0 e)).filter fun k => !(ls.any fun y =>
      let r := shR0 e + j
      let c := shC0 e + k
      decide (shR0 y.words ≤ r) && decide (r < shR1 y.words) && decide (shC0 y.words ≤ c) && decide (c < shC1 y.words))).length).sum

/-- Place the shards of a set in their order, each into every entry it matches, so that a later shard wins (R445); what a
page refuses ends the restore. -/
def State.placeSet (s : State) (ls : List Loaded) (es : List (List Word)) : State × Bool :=
  (ls.flatMap fun y => (es.filter fun e => matches' y.modidx y.words e).flatMap fun e =>
    (coverRuns y e).map fun p => (p.2.1, (y.bytes.drop p.1).take p.2.2)).foldl (fun a w =>
      if !a.2 then a
      else match a.1.blockWrite .vault a.1.vault.vctx w.1 w.2 with
        | (s, .ok _) => (s, true)
        | (s, .error _) => (s, false)) (s, true)

/-- Write the result record and end the restore (R446); `code` is the failure. -/
def State.restoreEnd (s : State) (f : BitVec 14) (v : Word) (ws : List Word) (accepted : Word) (status src : Nat)
    (rest : List Word) (code : Option Nat) : State :=
  let rec' := [at' status 62 ||| at' src 60] ++ rest ++ [s.tick - accepted, 0]
  let s := (s.blockWrite .vault s.vault.vctx (nfld (ew ws 5) 0 48) (wordBytes rec')).1
  match code with
  | some c => (s.vaultErr c 2 (ew rest 3).toNat).jobDone f v true
  | none => s.jobDone f v false

/-- Read the staged images (R443): those that open, the numbers of those that do not, or a failed translation. -/
def State.readImages (s : State) (ws : List Word) (hints : List StagedImage) : State × Except BlockErr (List VImage × List Nat) :=
  let n := nfld (ew ws 0) 0 16
  match s.blockRead .vault s.vault.vctx (nfld (ew ws 1) 0 48) (16 * n) with
  | (s, .error e) => (s, .error e)
  | (s, .ok bs) =>
    (List.range n).foldl (fun a i =>
      match a.2 with
      | .error e => (a.1, .error e)
      | .ok (xs, bad) =>
        let ent := leWords 2 (bs.drop (16 * i))
        let len := (ew ent 1).toNat
        match a.1.blockRead .vault a.1.vault.vctx (nfld (ew ent 0) 0 48) len, a.1.vault.key ((ew ws 0).getLsbD 61), hints[i]? with
        | (s, .error .poison), _, _ => (s, .ok (xs, bad ++ [i]))
        | (s, .error e), _, _ => (s, .error e)
        | (s, .ok c), some key, some h =>
          if len % 65552 ≠ 0 then (s, .ok (xs, bad ++ [i]))
          else match openChunks key h (len / 65552) 0 c with
            | some p => (s, .ok (xs ++ [parseImage i p], bad))
            | none => (s, .ok (xs, bad ++ [i]))
        | (s, .ok _), _, _ => (s, .ok (xs, bad ++ [i]))) (s, .ok ([], []))

/-- Placement entries and trusted keys. -/
def State.readPlan (s : State) (ws : List Word) : State × Except BlockErr (List (List Word) × List (BitVec 256)) :=
  let np := nfld (ew ws 0) 16 16
  let nk := nfld (ew ws 4) 0 16
  match s.blockRead .vault s.vault.vctx (nfld (ew ws 2) 0 48) (64 * np) with
  | (s, .error e) => (s, .error e)
  | (s, .ok ps) =>
    match s.blockRead .vault s.vault.vctx (nfld (ew ws 3) 0 48) (32 * nk) with
    | (s, .error e) => (s, .error e)
    | (s, .ok ks) =>
      (s, .ok ((List.range np).map (fun i => leWords 8 (ps.drop (64 * i))), (List.range nk).map fun i => keyOf (ks.drop (32 * i))))

/-- The code of a failed access: POISON or LOCAL_FAULT. -/
def BlockErr.vaultCode : BlockErr → Nat
  | .poison => 2
  | _ => 1

/-- The candidates of a restore, with the count and first number of images that do not open. -/
def State.candidates (s : State) (ws : List Word) (hints : List StagedImage) : State × Except BlockErr (List Candidate × Choice) :=
  let src := nfld (ew ws 0) 62 2
  if src = 3 then
    match s.readImages ws hints with
    | (s, .error e) => (s, .error e)
    | (s, .ok (xs, bad)) => (s, .ok (stagedSets xs, ⟨none, bad.length, bad.head?⟩))
  else
    let (s, cs) := s.vaultSets src
    (s, .ok (cs, ⟨none, 0, none⟩))

/-- The whole of a restore; a placement entry that names a reserved format is malformed and fails it (R44; log entry
28). -/
def State.restore (s : State) (f : BitVec 14) (v : Word) (ws : List Word) (hints : List StagedImage) (accepted : Word) :
    State :=
  let failed (s : State) (e : BlockErr) : State := s.restoreEnd f v ws accepted 3 0 [0, 0, 0, 0, 0] (some e.vaultCode)
  match s.readPlan ws with
  | (s, .error e) => failed s e
  | (s, .ok (es, keys)) =>
    if !es.all fun e => (shFmt e).isSome then s.restoreEnd f v ws accepted 3 0 [0, 0, 0, 0, 0] (some 1)
    else
    match s.candidates ws hints with
    | (s, .error e) => failed s e
    | (s, .ok (cs, c0)) =>
      let (s, c) := s.choose keys es cs c0
      let bad := BitVec.ofNat 64 c.bad
      let first := BitVec.ofNat 64 (c.first.getD 0)
      match c.set with
      | none => s.restoreEnd f v ws accepted 1 0 [0, 0, bad, first, 0] (some 4)
      | some (set, ls) =>
        let src := match (set.images.head?).bind VImage.gen with
          | some g => (genIdx g).val
          | none => 2
        let acc := ((set.images.head?).map VImage.acc).getD 0
        let (s, ok) := s.placeSet ls es
        let n := (ls.filter fun y => es.any fun e => matches' y.modidx y.words e && !(coverRuns y e).isEmpty).length
        let open' := (es.map fun e => uncovered (ls.filter fun y => matches' y.modidx y.words e) e).sum
        if ok then s.restoreEnd f v ws accepted 0 src [acc, BitVec.ofNat 64 n, bad, first, BitVec.ofNat 64 open'] none
        else s.restoreEnd f v ws accepted 3 src [acc, 0, bad, first, 0] (some 1)

/-- RESTORE_COMPLETE. -/
def execRestoreComplete (s : State) : Out :=
  match s.vault.jobs with
  | .restore f v ws hints accepted :: _ =>
    guard (s.fabOn && s.glob.stackRun) "the vault does not run" (s.restore f v ws hints accepted)
  | _ => .refused (.notEnabled "no restore is next")

/-! ### Triggers (R430, R531) -/

/-- A due event: DUE, DUECOUNT and the due record. -/
def State.vaultDue (s : State) (timer supply : Bool) : State :=
  let s := s.modVault fun v => { v with due := true, dueCount := v.dueCount + 1 }
  if s.vault.dueaddr = 0 then s
  else
    let w : Word := (s.vault.dueCount.setWidth 64 <<< 32) ||| flag supply 1 ||| flag timer 0
    (s.blockWrite .vault s.vault.vctx s.vault.dueaddr.toNat (leBytes 8 w.toNat)).1

/-- PERIOD seconds have passed since EN became 1 and since the latest commit. -/
def State.timerDue (s : State) : Bool :=
  s.mem.vaultEn && s.vault.period != 0 && decide ((s.tick - s.vault.since).toNat ≥ s.vault.period.toNat * 25000000)

/-- VAULT_TIMER_DUE: once for each EN or commit. -/
def execVaultTimerDue (s : State) : Out :=
  guard (s.fabOn && s.timerDue && !s.vault.fired) "the timer is not due"
    ((s.modVault fun v => { v with fired := true }).vaultDue true false)

/-- The supply trigger, which needs no EN; a timer that is due in the same cycle shares its event (R449). -/
def State.supplyDue (s : State) : State :=
  if !s.vault.supplyEn then s
  else
    let timer := s.timerDue && !s.vault.fired
    (s.modVault fun v => { v with fired := v.fired || timer }).vaultDue timer true

/-! ### `vault.cfg` and CONTEXT_DESTROY (R428, R448) -/

/-- Every open save, commit and restore ends; `signal` says whether its fence learns of it. -/
def State.vaultStop (s : State) (signal : Bool) : State :=
  let js := s.vault.jobs
  let s := s.modVault fun v => { v with jobs := [] }
  if !signal then s
  else js.foldl (fun s j => match j with
    | .save f v _ _ => s.send ⟨f, v, true, .block⟩
    | .commit f v _ _ => s.send ⟨f, v, true, .block⟩
    | .restore f v _ _ _ => s.send ⟨f, v, true, .block⟩) s

/-- VPAGES takes even values from 2 to 196,608. -/
def vpagesOk (n : BitVec 18) : Bool := n.toNat % 2 == 0 && decide (2 ≤ n.toNat) && decide (n.toNat ≤ 196608)

/-- A write of `vault.cfg`: VCTX and VPAGES only while EN is 0; EN 0 to 1 empties the region; EN 1 to 0 ends the open
work (log entry 40). -/
def State.vaultCfg (s : State) (v : Word) : State :=
  let en := v.getLsbD 63
  let n : BitVec 18 := (v >>> 32).setWidth 18
  if s.mem.vaultEn then
    if en then s else ((s.vaultStop true).drainStop none).modMem fun m => { m with vaultEn := false }
  else
    let s := (s.modVault fun y => { y with vctx := (v >>> 54).setWidth 9 }).modMem fun m =>
      { m with vaultPages := if vpagesOk n then n else m.vaultPages }
    if !en then s
    else
      let s := s.modMem fun m => { m.clearFrom (m.genPage false) with vaultEn := true }
      s.modVault fun y => { y with
        gens := Vector.replicate 2 Gener.empty, newest := false, since := s.tick, fired := false }

def execVaultEnable (m : RegMaster) (v : Word) (s : State) : Out := guard (s.busOpen m) "no register path" (s.vaultCfg v)

/-- CONTEXT_DESTROY of VCTX: the open work ends unsignalled, the region is cleared and set free, the checkpoint key slots
clear. -/
def State.vaultCancel (s : State) (c : BitVec 9) : State :=
  if s.vault.vctx == c then
    let s := s.vaultStop false
    let s := (if s.vault.drain.isSome then s.drainOver else s).modMem fun m => { m.clearFrom (m.genPage false) with vaultEn := false }
    s.modVault fun v => { v with
      gens := Vector.replicate 2 Gener.empty, newest := false, key0 := none, key1 := none, txSlot := false }
  else s

end Sys2Proof.Machine
end

