-- ==== Sys2Proof/Machine/Almanac.lean ====
section
/-! DEFINITION. The almanac: what SFDP says of the device, and the contents of the partitions: boot state ring, firmware images,
settings banks, logbook and repair records (R465, R493, R505-R512). -/
namespace Sys2Proof.Machine

/-- Zero bytes. -/
def zeros (n : Nat) : List Byte := List.replicate n 0

/-! ### SFDP (R505; JESD216B, PRESUMED, log entry 49) -/

/-- A 32-bit word of the SFDP space. -/
def Almanac.sfdpWord (a : Almanac) (p : Nat) : Nat := leNat ((a.sfdp.drop p).take 4)

/-- The header names SFDP, of revision 1.6 (B) or later. -/
def Almanac.sfdpOk (a : Almanac) : Bool :=
  a.sfdpWord 0 == 0x50444653 && decide (a.sfdpWord 4 / 256 % 256 * 256 + a.sfdpWord 4 % 256 ≥ 0x106)

/-- Address of the parameter table with an identification, from the parameter headers. -/
def Almanac.sfdpTable (a : Almanac) (ident : Nat) : Option Nat :=
  ((List.range (a.sfdpWord 4 / 65536 % 256 + 1)).map fun i => (a.sfdpWord (8 + 8 * i), a.sfdpWord (12 + 8 * i))).findSome? fun h =>
    if h.1 % 256 + h.2 / 16777216 * 256 = ident then some (h.2 % 16777216) else none

/-- 4 KiB erase, and a density of 512 Mbit at least, by the Basic Flash Parameter Table. -/
def Almanac.basicOk (a : Almanac) (p : Nat) : Bool :=
  let d := a.sfdpWord (p + 4)
  a.sfdpWord p % 4 == 1 && (if d ≥ 2 ^ 31 then decide (d - 2 ^ 31 ≥ 29) else decide (d + 1 ≥ 2 ^ 29))

/-- 1-4-4 fast read and page program with 4-byte addresses, by the 4-byte Address Instruction Table. -/
def Almanac.fourOk (a : Almanac) (p : Nat) : Bool := (a.sfdpWord p).testBit 5 && (a.sfdpWord p).testBit 6

/-- The module can use the device. -/
def Almanac.usable (a : Almanac) : Bool :=
  a.sfdpOk && ((a.sfdpTable 0xFF00).map a.basicOk).getD false && ((a.sfdpTable 0xFF84).map a.fourOk).getD false

/-- SFDPREV: major and minor revision. -/
def Almanac.sfdprev (a : Almanac) : Byte :=
  BitVec.ofNat 8 (a.sfdpWord 4 / 256 % 16 * 16 + a.sfdpWord 4 % 16)

/-! ### Boot state ring (R507) -/

/-- Words 0 to 3 of a boot state record. -/
def BootRec.words (r : BootRec) : List Word :=
  [r.bseq, (r.resv.setWidth 64 <<< 32) ||| flag r.active 2 ||| flag r.staged 1 ||| flag r.trial 0, 0, 0]
def BootRec.good (r : BootRec) : Bool := r.digest == sha256 (wordBytes r.words)
def BootRec.sealed (r : BootRec) : BootRec := { r with digest := sha256 (wordBytes r.words) }
def BootRec.bytes (r : BootRec) : List Byte := wordBytes r.words ++ keyBytes r.digest

/-- The later of two records by BSEQ, the first of two good ones of one BSEQ. -/
def laterBoot (b : Option (Nat × BootRec)) (x : Nat × BootRec) : Option (Nat × BootRec) :=
  if !x.2.good then b
  else match b with
    | some y => if y.2.bseq.toNat < x.2.bseq.toNat then some x else some y
    | none => some x

/-- The sector and the record of the boot state, where the ring holds a good record. -/
def Almanac.bestBoot (a : Almanac) : Option (Nat × BootRec) := a.ring.foldl laterBoot none

/-- The boot ROM reads the boot state: boot A with STAGED, TRIAL and RESV 0 where no record is good. -/
def Almanac.readBoot (a : Almanac) : Almanac :=
  match a.bestBoot with
  | some (i, r) => { a with sector := i, bseq := r.bseq, resv := r.resv, active := r.active, staged := r.staged, trial := r.trial }
  | none => { a with sector := 254, bseq := 0, resv := 0, active := false, staged := false, trial := false }

/-- The record of the boot state as it stands. -/
def Almanac.bootRec (a : Almanac) : BootRec :=
  BootRec.sealed { bseq := a.bseq, resv := a.resv, active := a.active, staged := a.staged, trial := a.trial, digest := 0 }

/-- A new boot state: BSEQ advances and the record goes into the next sector of the ring. -/
def Almanac.bootPut (a : Almanac) (f : Almanac → Almanac) : Almanac :=
  let a := { f a with bseq := a.bseq + 1, sector := (a.sector + 1) % 255 }
  { a with ring := Tbl.put a.ring a.sector a.bootRec }

/-- The firmware, or the boot ROM, writes a boot state. -/
def State.bootWrite (s : State) (f : Almanac → Almanac) : State := s.modAlm fun a => a.bootPut f

/-! ### Firmware images (R493, R494) -/

/-- The words of an image's header. -/
def imgHead (i : List Byte) : List Word := leWords 8 (i.take 64)
def imgSvn (i : List Byte) : BitVec 8 := BitVec.ofNat 8 (nfld (ew (imgHead i) 0) 48 8)
def imgBody (i : List Byte) : Nat := nfld (ew (imgHead i) 1) 0 32
/-- Bytes of the whole image: header, body and signature. -/
def imgLen (i : List Byte) : Nat := 64 + imgBody i + 7856
/-- The image digest. -/
def imgDigest (i : List Byte) : BitVec 256 := sha256 (i.take (64 + imgBody i))

/-- The signature, made with the firmware key over the header and the body. -/
def imgSigned (i : List Byte) : Bool :=
  slhVerify slh128s Config.fwKey (i.take (64 + imgBody i)) ((i.drop (64 + imgBody i)).take 7856)

/-- An image that holds: whole, VERSION 0x01, SVN up to 64, the body's digest, and the signature. -/
def imgGood (i : List Byte) : Bool :=
  decide (imgLen i ≤ i.length) && nfld (ew (imgHead i) 0) 56 8 == 1 && decide ((imgSvn i).toNat ≤ 64) &&
    keyOf ((i.drop 32).take 32) == sha256 ((i.drop 64).take (imgBody i)) && imgSigned i

/-- The boot ROM may start an image: one that holds, with a body of 8,388,608 B at most and an SVN of FUSESVN at least. -/
def bootable (fuses : Nat) (i : List Byte) : Bool :=
  imgGood i && decide (imgBody i ≤ 8388608) && decide (fuses ≤ (imgSvn i).toNat)

/-- The image of a boot partition, of the active one, of the other. -/
def Almanac.bank (a : Almanac) (b : Bool) : List Byte := if b then a.imgB else a.imgA
def Almanac.activeImg (a : Almanac) : List Byte := a.bank a.active
def Almanac.otherImg (a : Almanac) : List Byte := a.bank !a.active

/-- Write an image to the inactive partition. -/
def Almanac.putOther (a : Almanac) (i : List Byte) : Almanac := if a.active then { a with imgA := i } else { a with imgB := i }

/-! ### Settings records (R508) -/

/-- Words 0 to 3 of a settings record, all of it, and the bytes it takes in its bank. -/
def SettingRec.words (r : SettingRec) : List Word :=
  [(r.typ.setWidth 64 <<< 48) ||| (r.inst.setWidth 64 <<< 32) ||| r.length.setWidth 64, r.version, r.word2, r.word3]
def SettingRec.bytes (r : SettingRec) : List Byte := wordBytes r.words ++ keyBytes r.digest ++ r.payload
def SettingRec.size (r : SettingRec) : Nat := 64 + (r.payload.length + 255) / 256 * 256
def SettingRec.padded (r : SettingRec) : List Byte := (r.bytes ++ zeros 256).take r.size

/-- The digest of a record. -/
def SettingRec.sha (r : SettingRec) : BitVec 256 := sha256 (wordBytes r.words ++ r.payload)

def SettingRec.deleted (r : SettingRec) : Bool := r.word2.getLsbD 0

/-- LENGTH, the RZ fields and DIGEST hold. -/
def SettingRec.good (r : SettingRec) : Bool :=
  decide (r.length.toNat ≤ 1048576) && r.payload.length == r.length.toNat && r.word2 &&& 0xFFFFFFFFFFFFFFFE == 0 &&
    r.word3 == 0 && r.digest == r.sha

/-- A record from its header and payload, as a message holds it. -/
def readSetting (bs : List Byte) : SettingRec :=
  let ws := leWords 4 (bs.take 32)
  { typ := BitVec.ofNat 16 (nfld (ew ws 0) 48 16), inst := BitVec.ofNat 16 (nfld (ew ws 0) 32 16)
    length := BitVec.ofNat 32 (nfld (ew ws 0) 0 32), version := ew ws 1, word2 := ew ws 2, word3 := ew ws 3
    digest := keyOf (bs.drop 32), payload := bs.drop 64 }

/-- A TYPE that R509 lists. -/
def knownType (r : SettingRec) : Bool := decide (1 ≤ r.typ.toNat) && decide (r.typ.toNat ≤ 8)

/-- Two records of one TYPE and INSTANCE. -/
def sameSetting (a b : SettingRec) : Bool := a.typ == b.typ && a.inst == b.inst

/-- The records in force, in almanac order: for each TYPE and INSTANCE the good one of the highest VERSION, the later
where two are equal, unless it is DELETED. -/
def settingsInForce (l : List SettingRec) : List SettingRec :=
  ((l.zipIdx.filter fun (r, i) =>
    r.good && knownType r && !r.deleted &&
      !l.zipIdx.any fun (q, j) => q.good && sameSetting q r &&
        (decide (q.version.toNat > r.version.toNat) || (q.version == r.version && decide (j > i))))).map Prod.fst

/-- Bytes of a settings bank, and of a list of records. -/
def bankBytes : Nat := 4718592
def recordBytes (l : List SettingRec) : Nat := (l.map SettingRec.size).sum

/-- Order of a compacted bank. -/
def settingLe (a b : SettingRec) : Bool :=
  decide (a.typ.toNat * 65536 + a.inst.toNat ≤ b.typ.toNat * 65536 + b.inst.toNat)

/-- The records of the live bank. -/
def Almanac.settings (a : Almanac) : List SettingRec := if a.liveBank then a.bank1 else a.bank0

/-- Write a bank whole. -/
def Almanac.putBank (a : Almanac) (b : Bool) (l : List SettingRec) : Almanac :=
  if b then { a with bank1 := l } else { a with bank0 := l }

/-- Append a record to the live bank; a bank without room is compacted into the other one first, which is then live. None
where the record fits in neither. -/
def Almanac.append (a : Almanac) (r : SettingRec) : Option Almanac :=
  let fits (l : List SettingRec) : Bool := decide (recordBytes l + r.size ≤ bankBytes)
  if fits a.settings then some (a.putBank a.liveBank (a.settings ++ [r]))
  else
    let l := sortBy settingLe (settingsInForce a.settings)
    if fits l then some { a.putBank (!a.liveBank) (l ++ [r]) with liveBank := !a.liveBank } else none

/-- The highest VERSION among the good records of a bank. -/
def topVersion (l : List SettingRec) : Nat := ((l.filter SettingRec.good).map fun r => r.version.toNat).foldl Max.max 0

/-- At start-up the bank with the higher VERSION is live. DESIGN CHOICE (log entry 43): of two equal ones the bank that was
live stays so. -/
def Almanac.chooseBank (a : Almanac) : Almanac :=
  { a with liveBank :=
      if topVersion a.bank0 < topVersion a.bank1 then true
      else if topVersion a.bank1 < topVersion a.bank0 then false else a.liveBank }

/-! ### Payloads (R509)

The rule gives the layouts of IDCERT and OPERATOR and lists the fields of the others. DESIGN CHOICE (log entry 43): those stand
in the order the rule lists them, each in 8-byte little-endian words. -/

/-- One settings payload. -/
inductive Setting where
  | idcert (bytes : List Byte)
  | operator (key : BitVec 256) (rights : Word)
  | mgmtnet (v6 : Bool) (addr : BitVec 128) (pfx : BitVec 8) (gateway : BitVec 128) (port : BitVec 16) (mac : BitVec 48)
  | hostobj (ctxbase qbase fbase : Word) (ctx0 : List Word) (queue0 : BitVec 13) (queueEntry : List Word)
      (leaves : List (Nat × Word)) (qpbase : Word) (qp0 : List Word) (serviceFence : BitVec 14)
  | curwin (win0 win1 win2 win3 : Word) (mbox : Word)
  | timing (scanticks linkwait timeout window : BitVec 32)
  | supply (wcount : BitVec 8) (wwindow : BitVec 17)
  | ports (regs : List (Nat × Word))
  | unknown
deriving DecidableEq, Repr, Inhabited

/-- Pairs of an address and a word. -/
def wordPairs : List Word → List (Nat × Word)
  | a :: b :: l => (a.toNat, b) :: wordPairs l
  | _ => []

/-- 16 address bytes in network order. -/
def netAddr (bs : List Byte) : BitVec 128 := BitVec.ofNat 128 (beNat ((bs ++ zeros 16).take 16))

/-- MGMTNET: V6 [63], prefix [55:48] and port [15:0] of word 0, where port 0 stands for the default 6,240; address; gateway;
station address. -/
def readMgmtnet (p : List Byte) (ws : List Word) : Setting :=
  let port := nfld (ew ws 0) 0 16
  .mgmtnet ((ew ws 0).getLsbD 63) (netAddr (p.drop 8)) (BitVec.ofNat 8 (nfld (ew ws 0) 48 8)) (netAddr (p.drop 24))
    (if port = 0 then 6240 else BitVec.ofNat 16 port) ((ew ws 5).setWidth 48)

/-- HOSTOBJ: the three bases; context 0's entry; the number and the entry of its first queue; the translations, their number
first, each the DPA of a leaf and the leaf; queue-pair table base and queue pair 0's entry; the service fence. -/
def readHostobj (ws : List Word) : Setting :=
  let n := (ew ws 52).toNat
  let t := ws.drop (53 + 2 * n)
  .hostobj (ew ws 0) (ew ws 1) (ew ws 2) ((ws.drop 3).take 32) ((ew ws 35).setWidth 13) ((ws.drop 36).take 16)
    (wordPairs ((ws.drop 53).take (2 * n))) (ew t 0) ((t.drop 1).take 16) ((ew t 17).setWidth 14)

/-- What the payload of a record says. -/
def SettingRec.body (r : SettingRec) : Setting :=
  let ws := leWords ((r.payload.length + 7) / 8) r.payload
  let lo (i : Nat) : BitVec 32 := (ew ws i).setWidth 32
  match r.typ.toNat with
  | 1 => .idcert r.payload
  | 2 => .operator (keyOf r.payload) (ew ws 4)
  | 3 => readMgmtnet r.payload ws
  | 4 => readHostobj ws
  | 5 => .curwin (ew ws 0) (ew ws 1) (ew ws 2) (ew ws 3) (ew ws 4)
  | 6 => .timing (lo 0) (lo 1) (lo 2) (lo 3)
  | 7 => .supply ((ew ws 0).setWidth 8) ((ew ws 1).setWidth 17)
  | 8 => .ports (wordPairs ws)
  | _ => .unknown

/-! ### Logbook (R465, R511) -/

/-- The four words of a logbook record. -/
def LogRec.words (r : LogRec) : List Word :=
  [r.tick, (r.resetgen.setWidth 64 <<< 32) ||| (r.cls.setWidth 64 <<< 24) ||| (r.unit.setWidth 64 <<< 16) ||| r.index.setWidth 64,
    r.src.setWidth 64, r.value]

/-- Slots of the partition. -/
def logSlots : Nat := 589824

/-- Order of the records: RESETGEN, then TICK, then INDEX. -/
def LogRec.order (r : LogRec) : Nat := (r.resetgen.toNat * 2 ^ 64 + r.tick.toNat) * 65536 + r.index.toNat

/-- The slot and the order of the greatest record so far. -/
def laterLog (b : Option (Nat × Nat)) (x : Nat × LogRec) : Option (Nat × Nat) :=
  match b with
  | some y => if y.2 < x.2.order then some (x.1, x.2.order) else some y
  | none => some (x.1, x.2.order)

/-- At start-up: the write position is the slot after the greatest record. -/
def Almanac.findPos (a : Almanac) : Almanac :=
  { a with logPos := match a.logbook.foldl laterLog none with
      | some y => (y.1 + 1) % logSlots
      | none => 0 }

/-- The write position has reached a full sector. -/
def Almanac.logFull (a : Almanac) : Bool := (Tbl.find? a.logbook a.logPos).isSome

/-- Write a record: a full sector, the oldest, is erased first. -/
def Almanac.logPut (a : Almanac) (r : LogRec) : Almanac :=
  let l := if a.logFull then a.logbook.filter fun x => x.1 / 128 != a.logPos / 128 else a.logbook
  { a with logbook := Tbl.put l a.logPos r, logPos := (a.logPos + 1) % logSlots }

/-- The 32 bytes of a slot; one not written reads as ones. -/
def Almanac.logSlot (a : Almanac) (i : Nat) : List Byte :=
  match Tbl.find? a.logbook i with
  | some r => wordBytes r.words
  | none => List.replicate 32 0xFF

/-- Append a logbook record: INDEX counts the records of the same tick; erasing the oldest sector sets LOG_WRAP. -/
def State.logAdd (s : State) (cls unit src : Nat) (v : Word) : State :=
  let i := (s.alm.logbook.filter fun r => r.2.tick == s.tick && r.2.resetgen == s.reg.resetgen).length
  let r : LogRec :=
    { tick := s.tick, resetgen := s.reg.resetgen, cls := BitVec.ofNat 8 cls, unit := BitVec.ofNat 8 unit
      index := BitVec.ofNat 16 i, src := BitVec.ofNat 48 src, value := v }
  let s := if s.alm.logFull then s.modCur fun c => { c with logWrap := true } else s
  s.modAlm fun a => a.logPut r

/-- A register of the list as the scan sees it: class, unit, DPA, value, and whether it calls for a record (R464). -/
structure Scanned where
  cls : Nat
  unit : Nat
  dpa : Nat
  value : Word
  due : Bool
deriving DecidableEq, Repr

def scanOf (cls unit dpa : Nat) (mask v : Word) : Scanned := ⟨cls, unit, dpa, v, v &&& mask != 0⟩

/-- Log one register, as the last record of it; `crypt.halttick` follows `crypt.halt` (R307). -/
def State.logEnter (s : State) (x : Scanned) : State :=
  let s := (s.logAdd x.cls x.unit x.dpa x.value).modCur fun c => { c with logged := Tbl.put c.logged x.dpa x.value }
  if x.dpa = 0xFE0500010008 then s.logAdd x.cls 0 0xFE0500010010 s.mem.haltTick else s

/-- The scan logs it where its contents differ from those logged last (R464). -/
def State.logScanned (s : State) (x : Scanned) : State :=
  if x.due && Tbl.find? s.cur.logged x.dpa != some x.value then s.logEnter x else s

/-! ### Start-up and the flash (R506) -/

/-- What start-up finds in the partitions: boot state, live bank and write position. -/
def Almanac.read (a : Almanac) : Almanac := a.readBoot.chooseBank.findPos

/-- RESETGEN starts at the reservation, and the next one is made (R519). -/
def State.reserveGen (s : State) : State :=
  let s := s.modReg fun r => { r with resetgen := s.alm.resv }
  s.bootWrite fun a => { a with resv := a.resv + 256 }

/-- The boot ROM reads the almanac; it makes the reservation at once, so that every record of this start-up carries its own
RESETGEN. -/
def State.readAlmanac (s : State) : State :=
  ((s.modAlm Almanac.read).modCur fun c => { c with almBad := c.almBad || s.alm.ring.any fun x => !x.2.good }).reserveGen

/-- The bytes of a repair record. -/
def RepairRec.bytes (r : RepairRec) : List Byte := wordBytes (r.words ++ [r.check])

/-- Byte x of the flash, as the partitions lay it out; what nothing was written to reads as ones. -/
def Almanac.byteAt (a : Almanac) (x : Nat) : Byte :=
  if x < 0x1000 then 0xFF
  else if x < 0x100000 then
    match Tbl.find? a.ring ((x - 0x1000) / 4096) with
    | some r => r.bytes.getD ((x - 0x1000) % 4096) 0xFF
    | none => 0xFF
  else if x < 0x1100000 then a.imgA.getD (x - 0x100000) 0xFF
  else if x < 0x2100000 then a.imgB.getD (x - 0x1100000) 0xFF
  else if x < 0x2580000 then (a.bank0.flatMap SettingRec.padded).getD (x - 0x2100000) 0xFF
  else if x < 0x2A00000 then (a.bank1.flatMap SettingRec.padded).getD (x - 0x2580000) 0xFF
  else if x < 0x3C00000 then (a.logSlot ((x - 0x2A00000) / 32)).getD ((x - 0x2A00000) % 32) 0xFF
  else (a.repair.flatMap RepairRec.bytes).getD (x - 0x3C00000) 0xFF

end Sys2Proof.Machine
end

