-- ==== Sys2Proof/Machine/Kem.lean ====
section
/-! DEFINITION. ML-KEM-768 of FIPS 203 with the Keccak functions of FIPS 202: the registrar's key pair, the curator's pair
of a management session, and their decapsulation (R479, R481, R513; PRESUMED, log entry 49). -/
namespace Sys2Proof.Machine

/-! ### Keccak -/

/-- The 24 round constants, constant i in bits [64i + 63:64i]. -/
def keccakRc : Nat := 0x8000000080008008000000008000000180000000000080808000000080008081800000008000000a000000000000800a8000000000000080800000000000800280000000000080038000000000008089800000000000008b000000008000808b000000008000000a00000000800080090000000000000088000000000000008a800000000000800980000000800080810000000080000001000000000000808b8000000080008000800000000000808a00000000000080820000000000000001

/-- Rotation offsets of lane x + 5y. -/
def keccakRot : List Nat := [0, 1, 62, 28, 27, 36, 44, 6, 55, 20, 3, 10, 43, 25, 39, 41, 45, 15, 21, 8, 18, 2, 61, 56, 14]

/-- Rotate a 64-bit lane left. -/
def rotl64 (x n : Nat) : Nat := (x * 2 ^ n % 2 ^ 64) ||| (x >>> (64 - n))

/-- One round on the 25 lanes. -/
def keccakRound (a : List Nat) (rc : Nat) : List Nat :=
  let l (b : List Nat) (x y : Nat) : Nat := b.getD (x % 5 + 5 * (y % 5)) 0
  let c := (List.range 5).map fun x => (List.range 5).foldl (fun n y => n ^^^ l a x y) 0
  let a := a.mapIdx fun i w => w ^^^ c.getD ((i + 4) % 5) 0 ^^^ rotl64 (c.getD ((i + 1) % 5) 0) 1
  let b := (List.range 25).map fun i =>
    let x := (i % 5 + 3 * (i / 5)) % 5
    let y := i % 5
    rotl64 (l a x y) (l keccakRot x y)
  (List.range 25).map fun i =>
    let w := l b i (i / 5) ^^^ ((2 ^ 64 - 1 - l b (i + 1) (i / 5)) &&& l b (i + 2) (i / 5))
    if i = 0 then w ^^^ rc else w

/-- n rounds from round i on. -/
def keccakGo : (n i : Nat) → List Nat → List Nat
  | 0, _, a => a
  | n + 1, i, a => keccakGo n (i + 1) (keccakRound a ((keccakRc >>> (64 * i)) % 2 ^ 64))

def keccakF (a : List Nat) : List Nat := keccakGo 24 0 a

/-- Little-endian lanes of a block. -/
def keccakLanes (bs : List Byte) : List Nat := (List.range 25).map fun i => leNat ((bs.drop (8 * i)).take 8)

/-- Absorb n blocks. -/
def keccakAbsorb (rate : Nat) : (n : Nat) → List Byte → List Nat → List Nat
  | 0, _, a => a
  | n + 1, bs, a => keccakAbsorb rate n (bs.drop rate) (keccakF (List.zipWith (· ^^^ ·) a (keccakLanes (bs.take rate))))

/-- Squeeze n blocks. -/
def keccakSqueeze (rate : Nat) : (n : Nat) → List Nat → List Byte
  | 0, _ => []
  | n + 1, a => (a.flatMap (leBytes 8)).take rate ++ keccakSqueeze rate n (keccakF a)

/-- The sponge with a rate and a domain byte. -/
def sponge (rate : Nat) (dom : Byte) (bs : List Byte) (out : Nat) : List Byte :=
  let n := bs.length / rate + 1
  let z := rate * n - bs.length
  let pad : List Byte := (List.range z).map fun i =>
    (if i = 0 then dom else 0) ||| (if i + 1 = z then 0x80 else 0)
  (keccakSqueeze rate ((out + rate - 1) / rate) (keccakAbsorb rate n (bs ++ pad) (List.replicate 25 0))).take out

def sha3b256 (bs : List Byte) : List Byte := sponge 136 0x06 bs 32
def sha3b512 (bs : List Byte) : List Byte := sponge 72 0x06 bs 64
def shake128 (bs : List Byte) (n : Nat) : List Byte := sponge 168 0x1F bs n
def shake256 (bs : List Byte) (n : Nat) : List Byte := sponge 136 0x1F bs n

/-! ### Polynomials modulo 3,329 -/

def kemQ : Nat := 3329

def powQ (b : Nat) : Nat → Nat
  | 0 => 1
  | n + 1 => powQ b n * b % kemQ

/-- Reverse the low seven bits. -/
def rev7 (i : Nat) : Nat := (List.range 7).foldl (fun n j => 2 * n + i / 2 ^ j % 2) 0

def polyAdd (a b : List Nat) : List Nat := List.zipWith (fun x y => (x + y) % kemQ) a b
def polySub (a b : List Nat) : List Nat := List.zipWith (fun x y => (x + kemQ - y) % kemQ) a b
def polyScale (z : Nat) (a : List Nat) : List Nat := a.map fun x => z * x % kemQ

/-- The number-theoretic transform: n levels below node i of its tree. -/
def nttGo : (n i : Nat) → List Nat → List Nat
  | 0, _, f => f
  | n + 1, i, f =>
    let h := f.length / 2
    let t := polyScale (powQ 17 (rev7 i)) (f.drop h)
    nttGo n (2 * i) (polyAdd (f.take h) t) ++ nttGo n (2 * i + 1) (polySub (f.take h) t)

/-- Its inverse, without the division by 128. -/
def nttInvGo : (n i : Nat) → List Nat → List Nat
  | 0, _, f => f
  | n + 1, i, f =>
    let h := f.length / 2
    let a := nttInvGo n (2 * i) (f.take h)
    let b := nttInvGo n (2 * i + 1) (f.drop h)
    polyAdd a b ++ polyScale (powQ 17 (256 - rev7 i)) (polySub a b)

def ntt (f : List Nat) : List Nat := nttGo 7 1 f
def nttInv (f : List Nat) : List Nat := polyScale 3303 (nttInvGo 7 1 f)

/-- Product in the transformed domain: 128 pairs. -/
def nttMul (a b : List Nat) : List Nat :=
  (List.range 128).flatMap fun i =>
    let g := powQ 17 (2 * rev7 i + 1)
    let a0 := a.getD (2 * i) 0
    let a1 := a.getD (2 * i + 1) 0
    let b0 := b.getD (2 * i) 0
    let b1 := b.getD (2 * i + 1) 0
    [(a0 * b0 + a1 * b1 % kemQ * g) % kemQ, (a0 * b1 + a1 * b0) % kemQ]

/-- The inner product of two vectors in the transformed domain. -/
def nttDot (a b : List (List Nat)) : List Nat :=
  (List.zipWith nttMul a b).foldl polyAdd (List.replicate 256 0)

/-- d bits to each coefficient, little-endian, and back. -/
def polyEncode (d : Nat) (f : List Nat) : List Byte := leBytes (32 * d) (f.foldr (fun x n => x + 2 ^ d * n) 0)
def polyDecode (d : Nat) (bs : List Byte) : List Nat :=
  let x := leNat (bs.take (32 * d))
  (List.range 256).map fun i => x / 2 ^ (d * i) % 2 ^ d

/-- Compression to d bits, and back. -/
def kemCompress (d x : Nat) : Nat := (2 ^ (d + 1) * x + kemQ) / (2 * kemQ) % 2 ^ d
def kemDecompress (d y : Nat) : Nat := (2 * kemQ * y + 2 ^ d) / 2 ^ (d + 1)

/-- The pairs of 12-bit numbers of a byte string that are below 3,329. -/
def rejectQ (bs : List Byte) : List Nat :=
  (List.range (bs.length / 3)).flatMap fun i =>
    let c (j : Nat) : Nat := (bs.getD (3 * i + j) 0).toNat
    [c 0 + 256 * (c 1 % 16), c 1 / 16 + 16 * c 2].filter fun d => decide (d < kemQ)

/-- A uniform polynomial in the transformed domain, from the 280 draws FIPS 203 asks for at least. -/
def sampleNtt (seed : List Byte) : List Nat := ((rejectQ (shake128 seed 840)) ++ List.replicate 256 0).take 256

/-- A polynomial of the centred binomial distribution with parameter 2. -/
def sampleCbd (seed : List Byte) (n : Nat) : List Nat :=
  let x := leNat (shake256 (seed ++ [BitVec.ofNat 8 n]) 128)
  (List.range 256).map fun i =>
    let b (j : Nat) : Nat := x / 2 ^ (4 * i + j) % 2
    (b 0 + b 1 + kemQ - b 2 - b 3) % kemQ

/-! ### The key encapsulation -/

/-- A key pair: the 1,184 B encapsulation key, the secret vector in the transformed domain, and the rejection seed. -/
structure KemPair where
  ek : List Byte
  s : List (List Nat)
  z : List Byte

/-- Entry (i, j) of the matrix. -/
def kemA (rho : List Byte) (i j : Nat) : List Nat := sampleNtt (rho ++ [BitVec.ofNat 8 j, BitVec.ofNat 8 i])

/-- Key generation from its two 32-byte seeds. -/
def kemPair (d z : BitVec 256) : KemPair :=
  let g := sha3b512 (beBytes 32 d.toNat ++ [3])
  let rho := g.take 32
  let s := (List.range 3).map fun i => ntt (sampleCbd (g.drop 32) i)
  let t := (List.range 3).map fun i =>
    polyAdd (nttDot ((List.range 3).map (kemA rho i)) s) (ntt (sampleCbd (g.drop 32) (3 + i)))
  { ek := t.flatMap (polyEncode 12) ++ rho, s := s, z := beBytes 32 z.toNat }

/-- Encryption of a 32-byte message under an encapsulation key with 32 bytes of randomness: the 1,088 B ciphertext. -/
def kemEncrypt (ek m r : List Byte) : List Byte :=
  let t := (List.range 3).map fun i => (polyDecode 12 (ek.drop (384 * i))).map (· % kemQ)
  let rho := ek.drop 1152
  let y := (List.range 3).map fun i => ntt (sampleCbd r i)
  let u := (List.range 3).map fun i =>
    polyAdd (nttInv (nttDot ((List.range 3).map fun j => kemA rho j i) y)) (sampleCbd r (3 + i))
  let mu := (polyDecode 1 m).map (kemDecompress 1)
  let v := polyAdd (polyAdd (nttInv (nttDot t y)) (sampleCbd r 6)) mu
  u.flatMap (fun f => polyEncode 10 (f.map (kemCompress 10))) ++ polyEncode 4 (v.map (kemCompress 4))

/-- Decryption of a ciphertext. -/
def KemPair.decrypt (k : KemPair) (c : List Byte) : List Byte :=
  let u := (List.range 3).map fun i => ntt ((polyDecode 10 (c.drop (320 * i))).map (kemDecompress 10))
  let v := (polyDecode 4 (c.drop 960)).map (kemDecompress 4)
  polyEncode 1 ((polySub v (nttInv (nttDot k.s u))).map (kemCompress 1))

/-- Encapsulation: the shared secret and the ciphertext that a random message gives. -/
def kemEncaps (ek m : List Byte) : List Byte × List Byte :=
  let g := sha3b512 (m ++ sha3b256 ek)
  (g.take 32, kemEncrypt ek m (g.drop 32))

/-- Decapsulation: the shared secret; a ciphertext that is no encryption gives the implicit rejection's. -/
def KemPair.decaps (k : KemPair) (c : List Byte) : List Byte :=
  let m := k.decrypt c
  let g := sha3b512 (m ++ sha3b256 k.ek)
  if c = kemEncrypt k.ek m (g.drop 32) then g.take 32 else shake256 (k.z ++ c) 32

end Sys2Proof.Machine
end

