-- ==== Sys2Proof/Machine/Registrar.lean ====
section
/-! DEFINITION. The registrar: identity, provenance, the mailbox and its requests, tenant sessions, reports, and the
firmware's anti-rollback registers (R468-R500). -/
namespace Sys2Proof.Machine

/-! ### Digests, keys and the certificate (R468-R470, R479, R482) -/

/-- The four words of a digest, byte 8w of it in bits [7:0] of word w. -/
def digestWords (d : BitVec 256) : Vector Word 4 :=
  let ws := leWords 4 (keyBytes d)
  Vector.ofFn fun i => ws.getD i.val 0

/-- The digest four such words spell. -/
def wordsDigest (v : Vector Word 4) : BitVec 256 := keyOf (wordBytes v.toList)

/-- The ML-KEM pair made at the latest reset, and the digest KEMDIGEST of its encapsulation key (R479). -/
def Registrar.kem (r : Registrar) : KemPair := kemPair (Config.kemD r.kemGen) (Config.kemZ r.kemGen)
def Registrar.kemDigest (r : Registrar) : BitVec 256 := sha256 r.kem.ek

/-- Extend a provenance register. -/
def State.extend (s : State) (i : Fin 16) (d : BitVec 256) : State :=
  s.modReg fun r => { r with prov := r.prov.set i (sha256 (keyBytes r.prov[i] ++ keyBytes d)) }

/-- The registrar checks the certificate the curator passes: 17,168 B, with the derived key as its IDKEY. -/
def State.passCert (s : State) (c : List Byte) : State :=
  s.modReg fun r => { r with cert := c, idReady := c.length == 17168 && keyOf (c.drop 48) == identityKey }

/-! ### The security state of a context (R471, R484, R485) -/

def State.setSec (s : State) (c : BitVec 9) (x : CtxSec) : State :=
  s.modReg fun r => { r with ctxs := Tbl.set CtxSec.none r.ctxs c.toNat x }

/-- A context other than 0 that is LIVE. -/
def State.ctxLive (s : State) (c : BitVec 9) : State × Bool :=
  let s := s.loadCtx c
  (s, c != 0#9 && ctxState (s.ctxE c) == 1)

/-- The registrar writes CONSENT in word 6 of the context's entry. -/
def State.putConsent (s : State) (c : BitVec 9) : State :=
  let s := s.loadCtx c
  s.setCtxE c (setEw (s.ctxE c) 6 (putFld (ew (s.ctxE c) 6) 2 3 (s.consent c).toNat))

/-- Drop the measured-page counts of a context. -/
def Mem.unmeasure (m : Mem) (pages : List Nat) : Mem :=
  { m with measured := pages.foldl (fun t p => Tbl.modify 0 t p (· - 1)) m.measured }

/-- The registrar's part of CONTEXT_DESTROY. -/
def State.regCancel (s : State) (c : BitVec 9) : State :=
  let x := s.sec c
  let s := s.modMem fun m => m.unmeasure x.pages
  s.modReg fun r => { r with
    ctxs := Tbl.erase r.ctxs c.toNat, tenants := r.tenants.filter fun t => t.2.ctx != c }

/-! ### The mailbox (R474, R475, R477) -/

def mboxBase (s : State) : Nat := nfld s.reg.mbox 21 27 * 0x200000

def State.mboxRead (s : State) (off len : Nat) : State × List Byte :=
  let r := s.mem.readBytes .curator (some 0) (mboxBase s + off) len s.tick
  ({ s with mem := r.1 }, r.2.1)

def State.mboxWrite (s : State) (off : Nat) (bs : List Byte) : State :=
  s.modMem fun m => m.writeBytes .curator 0 (mboxBase s + off) bs s.tick

/-- `reg.tail`: a write that would pass the slots is ignored. -/
def State.tailOp (s : State) (t : BitVec 32) : State :=
  if (t - s.reg.head).toNat > 64 then s.modReg fun r => { r with mboxOvf := true }
  else s.modReg fun r => { r with tail := t }

def execMboxTailWrite (m : RegMaster) (t : BitVec 32) (s : State) : Out := guard (s.busOpen m) "no register path" (s.tailOp t)

def mKind (ws : List Word) : Nat := nfld (ew ws 0) 56 8
def mCtx (ws : List Word) : BitVec 9 := (ew ws 0 >>> 42).setWidth 9
def mFence (ws : List Word) : BitVec 14 := (ew ws 0).setWidth 14
def mSess (ws : List Word) : Nat := nfld (ew ws 4) 0 10

/-- The slot at the head. -/
def State.headSlot (s : State) : State × List Word :=
  let (s, bs) := s.mboxRead (64 * (s.reg.head.toNat % 64)) 64
  (s, leWords 8 bs)

/-- A reserved kind, a reserved field that is not zero, or an input beyond the page (R475, R477). -/
def badRequest (ws : List Word) : Bool :=
  mKind ws == 0 || decide (mKind ws > 8) || !only (ew ws 0) 0xFF07FC0000003FFF || !only (ew ws 2) 0x001FFFFF001FFFFF ||
    !only (ew ws 3) 0x001FFFFF001FFFFF || !only (ew ws 4) 0x3FF || !only (ew ws 5) dvaMask || !only (ew ws 6) dvaMask ||
    !only (ew ws 7) 0xFF000000FFFFFFFF ||
    decide (nfld (ew ws 2) 0 21 + nfld (ew ws 2) 32 21 > 0x200000)

/-- Output space: OUTCAP, within the page. -/
def outSpace (ws : List Word) : Nat := Min.min (nfld (ew ws 3) 32 21) (0x200000 - nfld (ew ws 3) 0 21)

/-- A request ends: output, word 7, HEAD, and the fence, which must be one of context 0. -/
def State.endRequest (s : State) (ws : List Word) (status : Nat) (out : List Byte) : State :=
  let s := if out.isEmpty then s else s.mboxWrite (nfld (ew ws 3) 0 21) out
  let s := s.mboxWrite (64 * (s.reg.head.toNat % 64) + 56) (wordBytes [at' status 56 ||| at' out.length 0])
  let s := (s.modReg fun r => { r with head := r.head + 1, opened := none }).loadFence (mFence ws)
  if fLive (s.fenceE (mFence ws)) && fOwner (s.fenceE (mFence ws)) == 0#9 then
    s.send ⟨mFence ws, ew ws 1, false, .block⟩
  else s

/-- The mailbox has a request and the registrar works. -/
def State.mboxOn (s : State) : Bool := s.fabOn && s.reg.mbox.getLsbD 0 && s.reg.head != s.reg.tail

/-- The input of a request: n bytes at INOFF. DESIGN CHOICE (log entry 43): those beyond INLEN are zero. -/
def State.mboxInput (s : State) (ws : List Word) (n : Nat) : State × List Byte :=
  let (s, bs) := s.mboxRead (nfld (ew ws 2) 0 21) (Min.min n (nfld (ew ws 2) 32 21))
  (s, (bs ++ zeros n).take n)

/-- The outcome of a request's work: the state its reads leave, and a status, or the new state with its output. -/
abbrev Served := State × Except Nat (State × List Byte)

/-- The request at the head ends with what its work answers; work whose output does not fit has no effect but that of its
reads (R305). -/
def settleRequest (ws : List Word) (r : Served) : State :=
  match r.2 with
  | .error e => r.1.endRequest ws e []
  | .ok (s, out) => if outSpace ws < out.length then r.1.endRequest ws 8 [] else s.endRequest ws 0 out

/-- The request at the head, which the mesh clock runs for (R32). -/
def State.headRequest (s : State) : State × List Word := s.meshDemand.headSlot

/-- Take the request at the head where its kind is this row's; CERT also takes requests of a reserved kind. -/
def atHead (kind : Nat) (s : State) (f : State → List Word → State) : Out :=
  let (s1, ws) := s.headRequest
  guard (s.mboxOn && s.reg.opened.isNone && (mKind ws == kind || (kind == 1 && (mKind ws == 0 || decide (mKind ws > 8)))))
    "no such request is at the head of the mailbox"
    (if badRequest ws then s1.endRequest ws 1 [] else f s1 ws)

/-- Serve it. -/
def serveRequest (kind : Nat) (s : State) (body : State → List Word → Served) : Out :=
  atHead kind s fun s ws => settleRequest ws (body s ws)

/-! ### CERT, KEMKEY, REPORT (R476, R478) -/

def execCert (s : State) : Out :=
  serveRequest 1 s fun s _ => (s, if s.reg.idReady then .ok (s, s.reg.cert) else .error 9)

def execKemkey (s : State) : Out :=
  serveRequest 2 s fun s _ => (s, .ok (s, s.reg.kem.ek))

/-- The module is TRANSITIONAL (R497). -/
def Registrar.transitional (r : Registrar) : Bool := r.staged || r.trial

/-- Enabled arrays of the part (R10). -/
def arrayCount : Nat := ((List.finRange 96).map fun c =>
  ((List.range 4).filter fun i => (Config.arrayMask c).getLsbD i).length).sum

/-- MEMBER, STEPPING and ARRAYS of `chip.glob.id`. -/
def globId : Word := at' 0x09 24 ||| at' Config.stepping.toNat 16 ||| at' arrayCount 0

/-- The context part of a report. -/
def ctxPart (e : List Word) (c : BitVec 9) (x : CtxSec) : List Byte :=
  let owners := x.owners.foldl (fun (a : Word) k => a ||| at' 1 (34 + k)) 0
  let w : Word := (c.setWidth 64 <<< 55) ||| flag x.final 54 ||| ((consentOf c x).setWidth 64 <<< 51) ||| flag (ctxPriv e) 50 ||| owners
  wordBytes [w, x.mcount.setWidth 64] ++ keyBytes x.cpv ++ zeros 16 ++
    (List.range 15).flatMap fun i => match byClass x.bound (i + 1) with
      | some k => keyBytes (sha256 (keyBytes k))
      | none => zeros 32

/-- The signed bytes of a report. -/
def State.reportBody (s : State) (nonce : List Byte) (ctx : Option (BitVec 9)) : List Byte :=
  let r := s.reg
  wordBytes [at' 1 56 ||| at' r.transitional.toNat 54 ||| flag ctx.isSome 53,
    (r.resetgen.setWidth 64 <<< 32) ||| globId, Config.serial,
    (r.asvn.setWidth 64 <<< 56) ||| (r.ssvn.setWidth 64 <<< 48) ||| at' r.fusesvn 40 ||| flag r.trial 39] ++
  nonce ++ keyBytes identityKey ++ keyBytes r.kemDigest ++
  wordBytes r.actdig.toList ++ (if r.transitional then wordBytes r.stagedig.toList else zeros 32) ++ r.prov.toList.flatMap keyBytes ++
  (match ctx with
   | some c => ctxPart (s.ctxE c) c (s.sec c)
   | none => zeros 544)

def execReport (s : State) : Out :=
  serveRequest 3 s fun s ws =>
    let (s, nonce) := s.mboxInput ws 32
    let (s, live) := s.ctxLive (mCtx ws)
    (s,
      if mCtx ws ≠ 0#9 ∧ !live then .error 2
      else if !s.reg.idReady then .error 9
      else
        let body := s.reportBody nonce (if mCtx ws = 0#9 then none else some (mCtx ws))
        .ok (s, body ++ slhSig body))

/-! ### Tenant sessions (R480-R482) -/

/-- The key of a direction of a session: 0 from the tenant, 1 to the tenant. -/
def State.tenantKey (s : State) (n : Nat) (t : Tenant) (i : Nat) : BitVec 256 :=
  keyOf ((hkdf (keyBytes t.secret) (keyBytes s.reg.kemDigest)
    (leBytes 2 t.ctx.toNat ++ leBytes 1 t.cls ++ leBytes 2 n ++ [0, 0, 0]) 2).getD i [])

/-- The nonce of a counter. -/
def ctrNonce (n : Nat) : List Byte := zeros 4 ++ beBytes 8 n

/-- The lowest session number that is free. -/
def freeSession (t : Tbl Tenant) : Option Nat := (List.range 1024).find? fun n => (Tbl.find? t n).isNone

/-- The class word and the tenant public key of an OPEN input (R481). -/
def openClass (bs : List Byte) : Nat := leNat ((bs.drop 1088).take 8)
def openTpk (bs : List Byte) : BitVec 256 := keyOf (bs.drop 1096)

/-- Its signature: over bytes 0 to 1,127, CONTEXT and KEMDIGEST. -/
def Registrar.openSigned (r : Registrar) (c : BitVec 9) (bs : List Byte) : Bool :=
  slhVerify slh128f (openTpk bs) (bs.take 1128 ++ leBytes 2 c.toNat ++ keyBytes r.kemDigest) (bs.drop 1128)

/-- OPEN on an input: a class that nothing is bound to takes the tenant's key while the context is not FINAL. A class word
that is 0 or above 15 is a field that is not as R481 has it. -/
def State.openSess (s : State) (c : BitVec 9) (live : Bool) (bs : List Byte) : Except Nat (State × List Byte) :=
  let x := s.sec c
  let cls := openClass bs
  if cls = 0 ∨ cls > 15 then .error 1
  else if !live then .error 2
  else if x.final && (byClass x.bound cls).isNone then .error 3
  else if s.reg.transitional then .error 4
  else if !s.reg.openSigned c bs then .error 5
  else if ((byClass x.bound cls).getD (openTpk bs)) ≠ openTpk bs then .error 6
  else match freeSession s.reg.tenants with
    | none => .error 6
    | some n =>
      let t : Tenant := { ctx := c, cls := cls, secret := keyOf (s.reg.kem.decaps (bs.take 1088)), rx := 0, tx := 1 }
      let s := s.setSec c { x with bound := setClass x.bound cls (openTpk bs) }
      .ok (s.modReg fun r => { r with tenants := Tbl.put r.tenants n t },
           leBytes 8 n ++ gcmTag (s.tenantKey n t 1) (ctrNonce 0) [] [])

/-- OPEN (R476, R481). -/
def execOpenSess (s : State) : Out :=
  serveRequest 4 s fun s ws =>
    let (s, bs) := s.mboxInput ws 18216
    let (s, live) := s.ctxLive (mCtx ws)
    (s, s.openSess (mCtx ws) live bs)

/-- The session a request names, where it is open for the request's context and that is LIVE (R477). -/
def State.tenantOf (s : State) (ws : List Word) : State × Option Tenant :=
  let (s, live) := s.ctxLive (mCtx ws)
  (s, match Tbl.find? s.reg.tenants (mSess ws) with
    | some t => if t.ctx = mCtx ws ∧ live then some t else none
    | none => none)

def execClose (s : State) : Out :=
  serveRequest 6 s fun s ws =>
    let (s, t) := s.tenantOf ws
    (s, match t with
      | some _ => .ok (s.modReg fun r => { r with tenants := Tbl.erase r.tenants (mSess ws) }, [])
      | none => .error 2)

/-- A sealed reply: OP and RESULT. -/
def State.sealReply (s : State) (n : Nat) (t : Tenant) (op result : Nat) : State × List Byte :=
  let p := wordBytes [at' op 56 ||| at' result 48, 0]
  let k := s.tenantKey n t 1
  let ct := gcmCrypt k (ctrNonce t.tx) p
  (s.modReg fun r => { r with tenants := Tbl.put r.tenants n { t with tx := t.tx + 1 } }, ct ++ gcmTag k (ctrNonce t.tx) [] ct)

/-- A sealed message of 64 B and its tag, opened under a session's next counter (R482, R483). -/
def State.openMsg (s : State) (n : Nat) (t : Tenant) (bs : List Byte) : Option TenantMsg :=
  (gcmOpen (s.tenantKey n t 0) (ctrNonce t.rx) [] (bs.take 64) (bs.drop 64)).map fun p =>
    let w := (leWords 1 p).headD 0
    { op := (w >>> 56).setWidth 8, arg := w.setWidth 56, key := keyOf (p.drop 8) }

/-- An opened message takes its counter. Its operation is the next row; one of a reserved OP is answered here with an open
RESULT. -/
def State.takeMsg (s : State) (ws : List Word) (t : Tenant) (o : TenantMsg) : State :=
  let t := { t with rx := t.rx + 1 }
  let s := s.modReg fun r => { r with tenants := Tbl.put r.tenants (mSess ws) t }
  if 1 ≤ o.op.toNat ∧ o.op.toNat ≤ 5 then s.modReg fun r => { r with opened := some (mSess ws, o) }
  else
    let (w, s) := s.draw32
    let (s, out) := s.sealReply (mSess ws) t o.op.toNat (w.toNat % 7)
    s.endRequest ws 0 out

/-- MSG. -/
def execMsg (s : State) : Out :=
  atHead 5 s fun s ws =>
    let (s, bs) := s.mboxInput ws 80
    match s.tenantOf ws with
    | (s, none) => s.endRequest ws 2 []
    | (s, some t) =>
      match s.openMsg (mSess ws) t bs with
      | none => s.endRequest ws 5 []
      | some o => if outSpace ws < 32 then s.endRequest ws 8 [] else s.takeMsg ws t o

/-! ### Operations inside a message (R483, R484) -/

/-- RESULT values. -/
def rDone : Nat := 0
def rPending : Nat := 1
def rMismatch : Nat := 2
def rNotFinal : Nat := 3
def rBusy : Nat := 4
def rNotBound : Nat := 5
def rTransitional : Nat := 6

/-- Carry out the opened message where its OP is this row's, and close the request with the sealed reply. -/
def tenantOp (op : Nat) (s : State) (body : State → Tenant → TenantMsg → State × Nat) : Out :=
  match s.reg.opened with
  | none => .refused (.notEnabled "no message is open")
  | some (n, o) =>
    let (s1, ws) := s.headRequest
    guard (s.mboxOn && o.op.toNat == op) "the message holds another operation"
      (match Tbl.find? s1.reg.tenants n with
       | none => s1.endRequest ws 2 []
       | some t =>
         let (s, result) := if (s1.sec t.ctx).final then body s1 t o else (s1, rNotFinal)
         let (s, out) := s.sealReply n t op result
         s.endRequest ws 0 out)

def execConsent (s : State) : Out :=
  tenantOp 1 s fun s t o =>
    let x := s.sec t.ctx
    ((s.setSec t.ctx { x with consent := setClass x.consent t.cls (o.arg.setWidth 3) }).putConsent t.ctx, rDone)

/-- A key operation answers TRANSITIONAL in a transitional state and installs nothing. -/
def keyOp (op : Nat) (s : State) (body : State → Tenant → TenantMsg → State × Nat) : Out :=
  tenantOp op s fun s t o => if s.reg.transitional then (s, rTransitional) else body s t o

def execOwnerkey (s : State) : Out :=
  keyOp 2 s fun s t o =>
    let x := s.sec t.ctx
    (s.setSec t.ctx { x with ownerKeys := setClass x.ownerKeys t.cls o.key }, rDone)

/-- A joint submission of a key for a target and slot: installed once every owner class has sent the same. -/
def State.submit (s : State) (op target : Nat) (t : Tenant) (key : BitVec 256) (now : Option (BitVec 256))
    (install : State → State) : State × Nat :=
  let x := s.sec t.ctx
  let mine (e : Nat × Nat × Nat × BitVec 256) : Bool := e.1 == op && e.2.1 == target
  let rest := x.pend.filter fun e => !mine e
  let here := x.pend.filter mine
  if now = some key then (s, rDone)
  else if here.any fun e => e.2.2.2 != key then (s.setSec t.ctx { x with pend := rest }, rMismatch)
  else
    let here := (op, target, t.cls, key) :: here.filter fun e => e.2.2.1 != t.cls
    if x.owners.all fun c => here.any fun e => e.2.2.1 == c then (install (s.setSec t.ctx { x with pend := rest }), rDone)
    else (s.setSec t.ctx { x with pend := here ++ rest }, rPending)

/-- Install a key in a slot of a session, with nothing sent under it. -/
def Sess.install (x : Sess) (slot : Bool) (k : BitVec 256) : Sess :=
  if slot then { x with key1 := some k, sent1 := 0 } else { x with key0 := some k, sent0 := 0 }

def execNctkey (s : State) : Out :=
  keyOp 3 s fun s t o =>
    let i : BitVec 10 := o.arg.setWidth 10
    let slot := o.arg.getLsbD 10
    let x := s.sess i
    if x.ctx ≠ t.ctx then (s, rNotBound)
    else if x.txSlot = slot then (s, rBusy)
    else s.submit 3 (2 * i.toNat + slot.toNat) t o.key (x.key slot) fun s => s.modSess i fun x => x.install slot o.key

def execSitekey (s : State) : Out :=
  keyOp 4 s fun s t o =>
    let slot := o.arg.getLsbD 0
    if s.tr.ctx ≠ t.ctx then (s, rNotBound)
    else s.submit 4 slot.toNat t o.key (s.tr.slot slot).key fun s =>
      (s.modTr fun r => { r.setSlot slot { TrSlot.empty with key := some o.key } with
        probes := r.probes.filter fun x => x.1 != slot }).trFlush

def execCkptkey (s : State) : Out :=
  keyOp 5 s fun s t o =>
    let slot := o.arg.getLsbD 0
    if s.vault.vctx ≠ t.ctx then (s, rNotBound)
    else s.submit 5 slot.toNat t o.key (s.vault.key slot) fun s =>
      s.modVault fun v => { (if slot then { v with key1 := some o.key } else { v with key0 := some o.key }) with txSlot := slot }

/-! ### MEASURE and FINALIZE (R471-R473) -/

/-- Translate the pages of a range for measurement: every one with X, without W and S. -/
def State.measuredPages (s : State) (c : BitVec 9) (dva len : Nat) : State × Option (List (Nat × Nat × Leaf)) :=
  (pagesOf dva len).foldl (fun a r =>
    match a.2 with
    | none => a
    | some l =>
      let (s, f) := if r.1 < 2 ^ 48 then a.1.xlate c r.1 else (a.1, none)
      match f with
      | some f => if f.x && !f.w && !f.s then (s, some (l ++ [(r.1, r.2, f)])) else (s, none)
      | none => (s, none)) (s, some [])

/-- The bytes of such pages, read over the vault engine's port. -/
def State.measuredBytes (s : State) (ps : List (Nat × Nat × Leaf)) : State × Option (List Byte) :=
  ps.foldl (fun a p =>
    let r := a.1.mem.readBytes .vault (some p.2.2.owner) (leafDpa p.2.2 p.1) p.2.1 a.1.tick
    ({ a.1 with mem := r.1 }, if r.2.2 then none else a.2.map (· ++ r.2.1))) (s, some [])

/-- A range is measured: CPV, MCOUNT and the measured-page counts of the pages it touches. -/
def State.measured (s : State) (c : BitVec 9) (dva len : Nat) (ps : List (Nat × Nat × Leaf)) (bs : List Byte) : State :=
  let x := s.sec c
  let pages := (ps.map fun p => p.2.2.page.toNat).eraseDups
  let s := s.setSec c { x with
    cpv := sha256 (keyBytes x.cpv ++ leBytes 8 dva ++ leBytes 8 len ++ keyBytes (sha256 bs))
    mcount := x.mcount + 1, pages := x.pages ++ pages }
  s.modMem fun m => { m with measured := pages.foldl (fun t p => Tbl.modify 0 t p (· + 1)) m.measured }

def execMeasure (s : State) : Out :=
  serveRequest 7 s fun s ws =>
    let c := mCtx ws
    let dva := nfld (ew ws 5) 0 48
    let len := nfld (ew ws 6) 0 48
    let (s, live) := s.ctxLive c
    if !live then (s, .error 2)
    else if (s.sec c).final then (s, .error 3)
    else match s.measuredPages c dva len with
      | (s, none) => (s, .error 7)
      | (s, some ps) =>
        match s.measuredBytes ps with
        | (s, none) => (s, .error 7)
        | (s, some bs) => (s, .ok (s.measured c dva len ps bs, []))

/-- Entries of a table that a test finds valid. -/
def State.tableScan {α : Type} (s : State) (table : Nat) (f : Word → Option α) : State × List α :=
  (List.range 512).foldl (fun a i =>
    let (s, w) := a.1.readTable (table + 8 * i)
    (s, match w.bind f with
      | some x => a.2 ++ [x]
      | none => a.2)) (s, [])

/-- Scan each of a list of tables. -/
def State.tablesScan {α : Type} (s : State) (ts : List Nat) (f : Word → Option α) : State × List α :=
  ts.foldl (fun a t =>
    let (s, l) := a.1.tableScan t f
    (s, a.2 ++ l)) (s, [])

/-- Every valid leaf of a context. -/
def State.allLeaves (s : State) (c : BitVec 9) : State × List Leaf :=
  let s := s.loadCtx c
  let root := ctxRoot (s.ctxE c)
  if root ≥ 0xC000000000 then (s, [])
  else
    let (s, t2) := s.tableScan root tableEntry
    let (s, t3) := s.tablesScan t2 tableEntry
    s.tablesScan t3 (leafEntry s.mem (s.isFinal c))

def execFinalize (s : State) : Out :=
  serveRequest 8 s fun s ws =>
    let c := mCtx ws
    let (s, live) := s.ctxLive c
    let x := s.sec c
    if !live then (s, .error 2)
    else if x.final then (s, .error 3)
    else
      let (s, ls) := s.allLeaves c
      (s,
        if x.bound.isEmpty || ls.any fun f =>
            (f.x && !x.pages.contains f.page.toNat) || (f.w && decide (Tbl.get 0 s.mem.measured f.page.toNat > 0)) then .error 7
        else .ok (s.setSec c { x with final := true, owners := x.bound.map Prod.fst }, []))

/-! ### Provenance and firmware registers (R470, R495-R497, R500) -/

/-- `reg.extend`: GO extends one of PR2 to PR15. -/
def State.extendOp (s : State) (v : Word) : State :=
  let i : Fin 16 := Fin.ofNat 16 (nfld v 0 4)
  if v.getLsbD 4 && decide (i.val ≥ 2) then s.extend i (wordsDigest s.reg.extdig) else s

def execPrExtend (m : RegMaster) (v : Word) (s : State) : Out :=
  guard (s.busOpen m) "no register path" (curatorOnly m (fun s => s.extendOp v) s)

/-- CONFIRM: the fuses are blown up to ASVN, and the firmware records the trial image as active. -/
def State.confirmOp (s : State) : State :=
  if !s.reg.trial then s
  else
    let s := s.modReg fun r => { r with
      fusesvn := Max.max r.fusesvn r.asvn.toNat, trial := false, staged := false, ssvn := 0
      stagedig := Vector.replicate 4 0 }
    s.bootWrite fun a => { a with active := !a.active, staged := false, trial := false }

def execFwConfirm (m : RegMaster) (s : State) : Out :=
  guard (s.busOpen m) "no register path" (curatorOnly m State.confirmOp s)

/-- STAGED is written: the boot state follows, and SSVN is that of the image in the inactive partition. -/
def State.stageOp (s : State) (v : Bool) : State :=
  let s := s.modReg fun r => { r with
    staged := v
    ssvn := if r.trial then r.ssvn else if v then imgSvn s.alm.otherImg else 0 }
  s.bootWrite fun a => { a with staged := v }

def execFwStageSet (m : RegMaster) (v : Bool) (s : State) : Out :=
  guard (s.busOpen m) "no register path" (curatorOnly m (fun s => s.stageOp v) s)

end Sys2Proof.Machine
end

