-- ==== Sys2Proof/Machine/Recovery.lean ====
section
/-! DEFINITION. The service request and the contexts' states (R462, R463, R467). -/
namespace Sys2Proof.Machine

/-! ### Service (R462, R463, R467) -/

/-- `chip.svc.ctl`. -/
def State.svcWord (s : State) : Word :=
  flag s.host.svcReq 63 ||| flag s.host.svcSafe 62 ||| flag s.host.svcWithdrawn 61 ||| (s.host.svcCause.setWidth 64 <<< 58) |||
    (s.host.svcFence.setWidth 64 <<< 32) ||| s.host.svcSeq.setWidth 64

/-- SEQ advances and the service fence, one of context 0, is signalled to it; the change is logged. -/
def State.svcSignal (s : State) (unit : Nat) : State :=
  let s := s.modHost fun h => { h with svcSeq := h.svcSeq + 1 }
  (s.logAdd 0x0A unit 0xFE0000000200 s.svcWord).send ⟨s.host.svcFence, s.host.svcSeq.setWidth 64, false, .block⟩

/-- Raise a service request; one that stands keeps its cause. -/
def State.svcRaise (s : State) (cause : BitVec 3) (unit : Nat) : State :=
  if s.host.svcReq then s
  else (s.modHost fun h => { h with svcReq := true, svcSafe := false, svcCause := cause }).svcSignal unit

/-- Withdraw the request that stands, unless SAFE is 1. -/
def State.svcWithdraw (s : State) (unit : Nat) : State :=
  if s.host.svcReq && !s.host.svcSafe then
    (s.modHost fun h => { h with svcReq := false, svcWithdrawn := true }).svcSignal unit
  else s

/-- A long press: a request, its withdrawal, or nothing while SAFE is 1. -/
def State.longPress (s : State) : State := if s.host.svcReq then s.svcWithdraw 0 else s.svcRaise 0 0

/-- The state of a context, on chip or read from its entry in memory. -/
def State.ctxStateV (s : State) (c : Nat) : State × Nat :=
  match Tbl.find? s.host.ctxs c with
  | some e => (s, ctxState e)
  | none =>
    let (s, e) := s.readEntry s.host.ctxbase 32 c
    (s, ctxState e)

/-- The states of contexts 1 to 511, with what the reads of their entries leave behind (R276, R305). -/
def State.ctxScan (s : State) : State × List Nat :=
  (List.range 511).foldl (fun a i =>
    let (s, n) := a.1.ctxStateV (i + 1)
    (s, a.2 ++ [n])) (s, [])

/-- Some context other than 0 is in a state that a test picks. -/
def State.anyCtx (s : State) (p : Nat → Bool) : Bool := s.ctxScan.2.any p

/-- SAFE is written: ignored while REQ is 0 or a context other than 0 is LIVE. It is RW, so a 0 written is read as well (R14,
R467); each change is logged. -/
def State.safeOp (s : State) (v : Bool) : State :=
  if !s.host.svcReq || s.host.svcSafe == v then s
  else
    let (s, l) := s.ctxScan
    if l.any (· == 1) then s
    else
      let s := s.modHost fun h => { h with svcSafe := v }
      s.logAdd 0x0A 0 0xFE0000000200 s.svcWord

def execSafeWrite (m : RegMaster) (s : State) : Out := guard (s.busOpen m) "no register path" (s.safeOp true)

end Sys2Proof.Machine
end

