-- ==== Sys2Proof/Machine/Regs.lean ====
section
/-! DEFINITION. The registers of every block outside the always-on domain: what a read of each shows and what a write
does (R14-R18, R40-R43, R108, R136, R169, R203, R267, R293, R316, R342, R362, R394, R426, R450, R467, R491, R500). A
read answers nothing, and a write nothing, where the window has no register at the offset. -/
namespace Sys2Proof.Machine

/-! ### Access codes (R14, R17) -/

/-- A sticky bit after a write of v. -/
def w1c (old : Bool) (v : Word) (i : Nat) : Bool := old && !v.getLsbD i

/-- A fault record after a write: clearing VALID clears it all, OVERRUN clears alone. -/
def clearRec (old v : Word) : Word :=
  if v.getLsbD 63 then 0 else if v.getLsbD 62 then old &&& 0xBFFFFFFFFFFFFFFF else old

/-- A one-field choice of register: `some` of the value at the offset. -/
def pick (l : List (Nat × Word)) (off : Nat) : Option Word := (l.find? fun e => e.1 == off).map Prod.snd

/-- A register of an array of n that starts at `lo` with a stride. -/
def slotOf (off lo stride n : Nat) : Option Nat :=
  if off ≥ lo ∧ (off - lo) % stride = 0 ∧ (off - lo) / stride < n then some ((off - lo) / stride) else none

/-! ### Chip global block (R43, R362, R467) -/

def CoreMode.code : CoreMode → Nat
  | .gated => 0
  | .active => 1
  | .quarantined => 2
  | .retired => 3

/-- `chip.glob.corestate` i. -/
def State.coreStates (s : State) (i : Nat) : Word :=
  (List.range 32).foldl (fun a j => a ||| at' (s.core (Fin.ofNat 96 (32 * i + j))).mode.code (2 * j)) 0

/-- `chip.glob.clkrun`; whether a core clock runs is `State.coreClock`'s choice (log entry 45). -/
def State.clkrun (s : State) : Word :=
  flag true 0 ||| flag s.coreClock 1 ||| flag s.glob.meshRun 2 ||| flag s.glob.stackRun 3 |||
    flag s.glob.serviceRun 4

def State.globRead (s : State) (off : Nat) : Option Word :=
  match slotOf off 0x140 8 8 with
  | some i => some s.host.regress[Fin.ofNat 8 i]
  | none => pick
    [(0x000, globId),
     (0x008, flag s.glob.ctlReject 3 ||| flag (s.glob.dpaHole || s.mem.dpaHole) 2 ||| flag s.glob.regAlign 1 |||
       flag s.glob.ready 0),
     (0x010, s.coreStates 0), (0x018, s.coreStates 1), (0x020, s.coreStates 2), (0x028, 0),
     (0x030, s.glob.gatedelay.setWidth 64), (0x038, s.clkrun),
     (0x100, s.host.ctxbase), (0x108, s.host.qbase), (0x110, s.host.fbase), (0x118, flag s.host.lock 0),
     (0x120, flag s.host.mirrorDrop 2 ||| flag s.host.cmdErr 1 ||| flag s.enabled 0), (0x200, s.svcWord)] off

/-- Bits [47:21] of a page register. -/
def pageMask : Word := 0x0000FFFFFFE00000

/-- A catalogue base, while LOCK is 0. -/
def State.baseOp (s : State) (f : HostObj → HostObj) : State := if s.host.lock then s else s.modHost f

/-- `chip.glob.corectl`. DESIGN CHOICE (log entry 45): ACTION 0, which the register's table calls none, on a core number of the
chip asks for nothing and sets no CTL_REJECT, though R37 says that every combination it does not list sets it. -/
def State.corectlOp (s : State) (v : Word) : State :=
  let n : BitVec 7 := (v >>> 8).setWidth 7
  let s := if n.toNat ≥ 96 then s.ctlReject else s
  match nfld v 0 2 with
  | 0 => s
  | 1 => s.quarantineOp n
  | 2 => s.releaseOp n
  | _ => s.retireOp n

def State.globWrite (s : State) (m : RegMaster) (off : Nat) (v : Word) : Option State :=
  match slotOf off 0x140 8 8 with
  | some i => some (s.modHost fun h => { h with regress := h.regress.set (Fin.ofNat 8 i) (h.regress[Fin.ofNat 8 i] &&& ~~~v) })
  | none =>
    match off with
    | 0x000 | 0x010 | 0x018 | 0x020 | 0x038 => some s
    | 0x008 =>
      let s := s.modGlob fun g => { g with
        ctlReject := w1c g.ctlReject v 3, dpaHole := w1c g.dpaHole v 2, regAlign := w1c g.regAlign v 1 }
      some (s.modMem fun x => { x with dpaHole := w1c x.dpaHole v 2 })
    | 0x028 => some (s.corectlOp v)
    | 0x030 => some (s.modGlob fun g => { g with gatedelay := v.setWidth 16 })
    | 0x100 => some (curatorOnly m (fun s => s.baseOp fun h => { h with ctxbase := v &&& pageMask }) s)
    | 0x108 => some (curatorOnly m (fun s => s.baseOp fun h => { h with qbase := v &&& pageMask }) s)
    | 0x110 => some (curatorOnly m (fun s => s.baseOp fun h => { h with fbase := v &&& pageMask }) s)
    | 0x118 => some (curatorOnly m (fun s => s.modHost fun h => { h with lock := h.lock || v.getLsbD 0 }) s)
    | 0x120 => some (s.modHost fun h => { h with mirrorDrop := w1c h.mirrorDrop v 2, cmdErr := w1c h.cmdErr v 1 })
    | 0x200 =>
      let s := s.modHost fun h => { h with svcWithdrawn := w1c h.svcWithdrawn v 61 }
      some (s.safeOp (v.getLsbD 62))
    | _ => none

/-! ### Core windows (R108, R136, R169, R203, R267, R491) -/

def StreamMode.code : StreamMode → Nat
  | .idle => 0
  | .run => 1
  | .wait => 2
  | .drain => 3
  | .trapped => 4

/-- The kind of wait. -/
def WaitFor.code : WaitFor → Nat
  | .none => 0
  | .semacq .. => 1
  | .fwait .. => 2
  | .sync .. => 3
  | .vtake .. => 4
  | .full => 5
  | .quadIdle _ => 5
  | .plate _ => 5
  | .scalar => 6
  | .fetch => 7

/-- The consent in force for the context a core is bound to: DEBUG, PROFILE, COUNTERS; an unbound core hides nothing. -/
def State.coreConsent (s : State) (c : Fin 96) : BitVec 3 :=
  match (s.core c).ctx with
  | none => 7
  | some x => s.consent x

def State.seqRead (s : State) (c : Fin 96) (off : Nat) : Option Word :=
  let k := s.core c
  let consent := s.coreConsent c
  let count (w : Word) : Word := if consent.getLsbD 0 then w else 0
  match slotOf off 0x040 8 4, slotOf off 0x400 8 64 with
  | some i, _ =>
    let t := k.streams[Fin.ofNat 4 i]
    let shown := consent.getLsbD 1
    some (at' t.mode.code 61 ||| at' (if shown then t.wait.code else 0) 58 ||| (t.vl.setWidth 64 <<< 48) |||
      (if shown then t.pc.setWidth 64 else 0))
  | _, some i =>
    let waits := (List.finRange 4).foldl (fun (a : Word) t => a ||| flag (match (k.streams[t]).wait with
      | .semacq n _ => n.toNat == i
      | _ => false) (16 + t.val)) 0
    some (waits ||| (k.sems[Fin.ofNat 64 i]).setWidth 64)
  | none, none => pick
    [(0x000, flag k.ctx.isSome 25 ||| ((k.ctx.getD 0).setWidth 64 <<< 16) ||| flag k.trapDrop 7 ||| flag k.semOvf 6 |||
       (List.finRange 4).foldl (fun (a : Word) t => a ||| flag ((k.streams[t]).mode != .idle) t.val) 0),
     (0x008, (List.finRange 4).foldl (fun (a : Word) t => a ||| (at' (k.streams[t]).plates.toNat (16 * t.val))) 0),
     (0x010, k.prio.setWidth 64), (0x018, k.waitlimit.setWidth 64), (0x020, count k.issued), (0x028, count k.dualcyc)] off

def Core.seqWrite (k : Core) (off : Nat) (v : Word) : Option Core :=
  match slotOf off 0x040 8 4, slotOf off 0x400 8 64 with
  | some _, _ => some k
  | _, some _ => some k
  | none, none =>
    match off with
    | 0x000 => some { k with trapDrop := w1c k.trapDrop v 7, semOvf := w1c k.semOvf v 6 }
    | 0x008 | 0x020 | 0x028 => some k
    | 0x010 => some { k with prio := v.setWidth 8 }
    | 0x018 => some { k with waitlimit := v.setWidth 32 }
    | _ => none

/-- Partition p loads, streams, drains or clears; after a QUARANTINE it only drains. -/
def Core.partBusy (k : Core) (p : Fin 4) : Bool :=
  (!k.draining && (k.tileQ[p]).any fun t => t.checked) || k.arrs.toList.any fun a => a.flights.any fun f => f.part == p

def State.mxRead (s : State) (c : Fin 96) (off : Nat) : Option Word :=
  let k := s.core c
  let count (w : Word) : Word := if (s.coreConsent c).getLsbD 0 then w else 0
  match slotOf off 0x040 8 4 with
  | some i => some k.pfault[Fin.ofNat 4 i]
  | none => pick
    [(0x000, k.mxMode.setWidth 64),
     (0x008, (List.finRange 4).foldl (fun (a : Word) p => a ||| at' (k.depth p) (16 + 3 * p.val) |||
         flag (k.partBusy p) (12 + p.val) ||| flag ((k.arrs[p]).ramp != .steady && !((k.arrs[p]).falling && (k.arrs[p]).noFill)) (8 + p.val)) 0 |||
       flag k.modeWait.isSome 2 ||| flag k.modeBusy 1 ||| flag k.quadIdle 0),
     (0x010, flag k.rampEn 2 ||| k.rampLen.setWidth 64),
     (0x018, flag (decide (s.sup.clampLevel < 256)) 57 ||| at' s.sup.clampLevel 48 |||
       (List.finRange 4).foldl (fun (a : Word) i => a ||| at' (k.arrs[i]).level (9 * i.val)) 0),
     (0x020, k.present.setWidth 64),
     (0x028, (List.finRange 4).foldl (fun (a : Word) i => match Config.spareRow c i with
       | some r => a ||| flag true (8 * i.val + 7) ||| (r.setWidth 64 <<< (8 * i.val))
       | none => a) 0),
     (0x030, count k.mxBusycyc), (0x038, count k.mxStallcyc)] off

def Core.mxWrite (k : Core) (off : Nat) (v : Word) : Option Core :=
  match slotOf off 0x040 8 4 with
  | some i => some { k with pfault := k.pfault.set (Fin.ofNat 4 i) (clearRec k.pfault[Fin.ofNat 4 i] v) }
  | none =>
    match off with
    | 0x000 => some (k.writeMode v)
    | 0x008 => some { k with modeBusy := w1c k.modeBusy v 1 }
    | 0x010 => some { k with rampEn := v.getLsbD 2, rampLen := v.setWidth 2 }
    | 0x018 | 0x020 | 0x028 | 0x030 | 0x038 => some k
    | _ => none

/-- Lanes of tiles that a test picks. -/
def Core.lanesWhere (k : Core) (p : OutTile → Bool) : Word :=
  k.outQ.toList.flatten.foldl (fun (a : Word) x => if p x then x.lanes.foldl (fun a i => a ||| at' 1 i.val) a else a) 0

def Core.opRead (k : Core) (off : Nat) : Option Word :=
  match slotOf off 0x020 8 4 with
  | some i => some (k.odesc[Fin.ofNat 4 i])[0]
  | none => pick
    [(0x000, at' k.handoff.length 12 ||| (k.lanesWhere fun x => x.waiting) <<< 8 ||| k.lanesWhere fun x => x.started),
     (0x008, k.tflags.setWidth 64), (0x010, k.opFault)] off

def Core.opWrite (k : Core) (off : Nat) (v : Word) : Option Core :=
  match slotOf off 0x020 8 4 with
  | some _ => some k
  | none =>
    match off with
    | 0x000 => some k
    | 0x008 => some { k with tflags := k.tflags &&& ~~~(v.setWidth 8) }
    | 0x010 => some { k with opFault := clearRec k.opFault v }
    | _ => none

/-- genhi as a read shows it: what the latest genlo read captured. -/
def Core.genhi (k : Core) (g : Fin 384) : Word :=
  match k.genCapture with
  | some (n, w) => if n = g.val then w else ((k.gens[g]).d.setWidth 64 <<< 32) ||| (k.gens[g]).c.setWidth 64
  | none => ((k.gens[g]).d.setWidth 64 <<< 32) ||| (k.gens[g]).c.setWidth 64

/-- The stream whose VTAKE, or else whose waiting instruction, is in the engine. -/
def Core.vecStream (k : Core) : Nat :=
  match (List.finRange 4).find? fun t => (k.streams[t]).vtake.isSome with
  | some t => t.val
  | none => (k.vecQ.head?.map fun v => v.stream.val).getD 0

def State.vxRead (s : State) (c : Fin 96) (off : Nat) : Option Word :=
  let k := s.core c
  let consent := s.coreConsent c
  let count (w : Word) : Word := if consent.getLsbD 0 then w else 0
  match slotOf off 0x1000 16 384, slotOf off 0x1008 16 384 with
  | some g, _ => some (((k.gens[Fin.ofNat 384 g]).b.setWidth 64 <<< 32) ||| (k.gens[Fin.ofNat 384 g]).a.setWidth 64)
  | _, some g => some (k.genhi (Fin.ofNat 384 g))
  | none, none => pick
    [(0x000, at' (if consent.getLsbD 1 then k.vecStream else 0) 9 ||| flag k.genBusy 2 ||| flag k.vecIdle 0),
     (0x008, k.vflags.setWidth 64), (0x010, k.vxFault), (0x018, count k.vxBusycyc), (0x020, count k.vxTcyc)] off

def Core.vxWrite (k : Core) (off : Nat) (v : Word) : Option Core :=
  match slotOf off 0x1000 16 384, slotOf off 0x1008 16 384 with
  | some g, _ => some (k.writeGenlo (Fin.ofNat 384 g) v)
  | _, some g => some (k.writeGenhi (Fin.ofNat 384 g) v)
  | none, none =>
    match off with
    | 0x000 => some { k with genBusy := w1c k.genBusy v 2 }
    | 0x008 => some { k with vflags := k.vflags &&& ~~~(v.setWidth 12) }
    | 0x010 => some { k with vxFault := clearRec k.vxFault v }
    | 0x018 | 0x020 => some k
    | _ => none

/-- A read of a genlo captures its genhi, and the next read of that genhi uses the capture up (R169); other reads change
nothing. -/
def Core.vxCapture (k : Core) (off : Nat) : Core :=
  match slotOf off 0x1000 16 384 with
  | some g =>
    let x := k.gens[Fin.ofNat 384 g]
    { k with genCapture := some (g, (x.d.setWidth 64 <<< 32) ||| x.c.setWidth 64) }
  | none =>
    match slotOf off 0x1008 16 384, k.genCapture with
    | some g, some (n, _) => if n = g then { k with genCapture := none } else k
    | _, _ => k

def State.nsRegs (s : State) (c : Fin 96) (off : Nat) : Option Word :=
  let k := s.core c
  let count (w : Word) : Word := if (s.coreConsent c).getLsbD 0 then w else 0
  pick
    [(0x000, at' k.fills.length 21 ||| at' k.wq.length 12 ||| flag (k.fills.isEmpty && k.wq.isEmpty) 0),
     (0x008, (k.pfmax.setWidth 64 <<< 8) ||| (k.pfdist.setWidth 64 <<< 1) ||| flag k.pfen 0),
     (0x010, flag k.nsUe 63 ||| flag k.nsCe 62 ||| (k.nsUeCount.setWidth 64 <<< 32) ||| k.nsCeCount.setWidth 64),
     (0x018, (List.finRange 4).foldl (fun (a : Word) t => a ||| at' (k.epochs[t]).toNat (16 * t.val)) 0),
     (0x020, count k.dhit), (0x028, count k.dmiss), (0x030, count k.walks)] off

def Core.nsWrite (k : Core) (off : Nat) (v : Word) : Option Core :=
  match off with
  | 0x000 | 0x018 | 0x020 | 0x028 | 0x030 => some k
  | 0x008 =>
    let m := nfld v 8 11
    let d := nfld v 1 7
    some { k with
      pfmax := if m ≤ 1024 then BitVec.ofNat 11 m else k.pfmax
      pfdist := if 1 ≤ d ∧ d ≤ 64 then BitVec.ofNat 7 d else k.pfdist
      pfen := v.getLsbD 0 }
  | 0x010 => some { k with nsUe := w1c k.nsUe v 63, nsCe := w1c k.nsCe v 62 }
  | _ => none

def State.dmaRegs (s : State) (c : Fin 96) (off : Nat) : Option Word :=
  let k := s.core c
  let consent := (s.coreConsent c).getLsbD 0
  pick
    [(0x000, at' (k.dmaQ.filter fun d => d.channel.val < 4).length 16 ||| (k.dmaHalted.setWidth 64 <<< 8) |||
       (List.range 5).foldl (fun (a : Word) i => a ||| flag (k.dmaQ.any fun d => d.channel.val == i) i) 0),
     (0x008, k.dmaFault), (0x010, k.dmaFaddr.setWidth 64), (0x018, if consent then k.dmaBytes else 0)] off

def Core.dmaWrite (k : Core) (off : Nat) (v : Word) : Option Core :=
  match off with
  | 0x000 | 0x010 | 0x018 => some k
  | 0x008 => some { k with dmaFault := clearRec k.dmaFault v, dmaFaddr := if v.getLsbD 63 then 0 else k.dmaFaddr }
  | _ => none

/-- A register of core c by its offset in the core's window. -/
def State.coreRead (s : State) (c : Fin 96) (off : Nat) : Option Word :=
  match off / 0x80000 with
  | 2 => s.seqRead c (off - 0x100000)
  | 4 => s.mxRead c (off - 0x200000)
  | 5 => (s.core c).opRead (off - 0x280000)
  | 6 => s.vxRead c (off - 0x300000)
  | 7 => s.nsRegs c (off - 0x380000)
  | 8 => s.dmaRegs c (off - 0x400000)
  | _ => none

def Core.write (k : Core) (off : Nat) (v : Word) : Option Core :=
  match off / 0x80000 with
  | 2 => k.seqWrite (off - 0x100000) v
  | 4 => k.mxWrite (off - 0x200000) v
  | 5 => k.opWrite (off - 0x280000) v
  | 6 => k.vxWrite (off - 0x300000) v
  | 7 => k.nsWrite (off - 0x380000) v
  | 8 => k.dmaWrite (off - 0x400000) v
  | _ => none

/-! ### Stack controllers (R293) -/

def GroupMode.code : GroupMode → Nat
  | .fullSpare => 0
  | .remapped _ => 1
  | .noSpare => 2
  | .degraded _ => 3
  | .lost => 4

def GroupMode.pos : GroupMode → Nat
  | .remapped q => q.toNat
  | .degraded q => q.toNat
  | .noSpare => 0xB
  | _ => 0xF

/-- A group is DEGRADED or LOST. -/
def GroupMode.down : GroupMode → Bool
  | .degraded _ => true
  | .lost => true
  | _ => false

def Stack.read (t : Stack) (off : Nat) : Option Word :=
  let groups (f : GroupMode → Nat) (n : Nat) : Word :=
    (List.finRange 16).foldl (fun (a : Word) g => a ||| at' (f t.groups[g]) (n * g.val)) 0
  pick
    [(0x000, at' (byteOf t.temp) 16 ||| flag t.cmdReject 15 ||| flag t.therm 14 ||| flag t.ownerF 13 ||| flag t.ue 12 |||
       flag t.ce 11 ||| flag t.mapBusy 6 ||| flag (!t.repairQ.isEmpty) 5 ||| flag (t.groups.toList.any GroupMode.down) 4 |||
       flag (!t.rebuild.isEmpty) 3 ||| flag t.filling 2 ||| flag t.trained 1),
     (0x008, groups GroupMode.code 3), (0x010, groups GroupMode.pos 4),
     (0x018, (t.spareLeft.setWidth 64 <<< 32) ||| (t.minBank.setWidth 64 <<< 24) |||
       at' ((List.range 16).filter fun d => t.retired.getLsbD d).length 16 ||| t.retired.setWidth 64),
     (0x020, 0), (0x028, (t.ceCount.setWidth 64 <<< 32) ||| t.ueCount.setWidth 64), (0x030, t.ceLog), (0x038, t.ueLog),
     (0x040, t.ownLog), (0x048, flag t.consEn 16 ||| t.period.setWidth 64),
     (0x050, (t.rowThr.setWidth 64 <<< 16) ||| (t.dieRows.setWidth 64 <<< 8) ||| t.burst.setWidth 64),
     (0x058, (t.passes.setWidth 64 <<< 32) ||| (t.posGroup.setWidth 64 <<< 24) ||| t.posK.setWidth 64),
     (0x060, t.repairQ.head?.getD 0), (0x068, 0)] off

/-- `stack.cons.rate` and `stack.cons.thr`: reserved values leave their fields. -/
def Stack.writeRate (t : Stack) (v : Word) : Stack :=
  let p := nfld v 0 16
  { t with consEn := v.getLsbD 16, period := if 60 ≤ p ∧ p ≤ 10080 then BitVec.ofNat 16 p else t.period }

def Stack.writeThr (t : Stack) (v : Word) : Stack :=
  let keep (x : BitVec 8) (n hi : Nat) : BitVec 8 := if 1 ≤ n ∧ n ≤ hi then BitVec.ofNat 8 n else x
  { t with
    rowThr := keep t.rowThr (nfld v 16 8) 255, dieRows := keep t.dieRows (nfld v 8 8) 255, burst := keep t.burst (nfld v 0 8) 12 }

/-- `stack.ctl.cmd`. -/
def State.stackCmd (s : State) (k : Fin 16) (v : Word) : State :=
  match nfld v 0 4 with
  | 0 => s
  | 1 => s.retireDieOp k ((v >>> 4).setWidth 4)
  | 2 => s.fillOp k
  | _ => s.modStk k fun t => { t with cmdReject := true }

def State.stackWrite (s : State) (m : RegMaster) (k : Fin 16) (off : Nat) (v : Word) : Option State :=
  match off with
  | 0x000 => some (s.modStk k fun t => { t with
      cmdReject := w1c t.cmdReject v 15, therm := w1c t.therm v 14, ownerF := w1c t.ownerF v 13, ue := w1c t.ue v 12
      ce := w1c t.ce v 11 })
  | 0x008 | 0x010 | 0x018 | 0x028 | 0x058 => some s
  | 0x020 => some (s.stackCmd k v)
  | 0x030 => some (s.modStk k fun t => { t with ceLog := if v.getLsbD 63 then 0 else t.ceLog })
  | 0x038 => some (s.modStk k fun t => { t with ueLog := clearRec t.ueLog v })
  | 0x040 => some (s.modStk k fun t => { t with ownLog := clearRec t.ownLog v })
  | 0x048 => some (s.modStk k fun t => t.writeRate v)
  | 0x050 => some (s.modStk k fun t => t.writeThr v)
  | 0x060 => some (if v.getLsbD 63 then s.repairPop m k else s)
  | 0x068 => some (if v.getLsbD 0 then s.mapClearOp k ((v >>> 21).setWidth 27) else s)
  | _ => none

/-! ### Fabric ports and shared fabric registers (R394) -/

def portMask : Word := 0xFFFFFF8000000003

def Fabric.portRead (b : Fabric) (p : Fin 8) (off : Nat) : Option Word :=
  let x := b.ports[p]
  pick
    [(0x000, x.ctl),
     (0x008, flag x.fecUe 5 ||| flag x.linkDrop 4 ||| flag (b.linked (2 * p.val + 1)) 3 ||| flag (b.linked (2 * p.val)) 2 |||
       flag x.anDone 1 ||| flag x.kr 0),
     (0x010, x.mac.setWidth 64), (0x018, x.nhmac.setWidth 64), (0x020, x.fecce), (0x028, x.fecue), (0x030, x.txfr),
     (0x038, x.rxfr), (0x040, x.rxdrop)] off

def Fabric.globRead (b : Fabric) (off : Nat) : Option Word :=
  pick
    [(0x8000, b.ipmode), (0x8008, b.ipa4), (0x8010, b.ipa6hi), (0x8018, b.ipa6lo), (0x8020, b.ipb4), (0x8028, b.ipb6hi),
     (0x8030, b.ipb6lo), (0x8038, b.dscp), (0x8040, b.qpbase), (0x8048, 0), (0x8050, b.regkey)] off

/-- A port that is disabled loses its links, and with them what waited to be sent on them. -/
def State.portCtl (s : State) (p : Fin 8) (v : Word) : State :=
  let s := s.modPort p fun x => { x with ctl := v &&& portMask }
  if v.getLsbD 0 then s
  else [false, true].foldl (fun s h =>
    if s.fab.linked (pathOf p h) then
      (s.setPath (pathOf p h) .down).modPort p fun x => { x with linkDrop := true, anDone := false }
    else s) (s.modFab fun b => { b with heldTx := b.heldTx.filter fun x => pathPort x.1 != p })

def State.portWrite (s : State) (p : Fin 8) (off : Nat) (v : Word) : Option State :=
  match off with
  | 0x000 => some (s.portCtl p v).releaseTx
  | 0x008 => some (s.modPort p fun x => { x with fecUe := w1c x.fecUe v 5, linkDrop := w1c x.linkDrop v 4 })
  | 0x010 => some (s.modPort p fun x => { x with mac := v.setWidth 48 })
  | 0x018 => some (s.modPort p fun x => { x with nhmac := v.setWidth 48 })
  | 0x020 | 0x028 | 0x030 | 0x038 | 0x040 => some s
  | _ => none

def State.fabGlobWrite (s : State) (m : RegMaster) (off : Nat) (v : Word) : Option State :=
  let low : Word := 0xFFFFFFFF
  match off with
  | 0x8000 => some (s.modFab fun b => { b with ipmode := v &&& 3 })
  | 0x8008 => some (s.modFab fun b => { b with ipa4 := v &&& low })
  | 0x8010 => some (s.modFab fun b => { b with ipa6hi := v })
  | 0x8018 => some (s.modFab fun b => { b with ipa6lo := v })
  | 0x8020 => some (s.modFab fun b => { b with ipb4 := v &&& low })
  | 0x8028 => some (s.modFab fun b => { b with ipb6hi := v })
  | 0x8030 => some (s.modFab fun b => { b with ipb6lo := v })
  | 0x8038 => some (s.modFab fun b => { b with dscp := v &&& 0xFFFFFF })
  | 0x8040 => some (curatorOnly m (fun s => s.modFab fun b => { b with qpbase := v &&& pageMask }) s)
  | 0x8048 => some (s.qpLoadOp (v.setWidth 12))
  | 0x8050 => some (curatorOnly m (fun s => s.modFab fun b => { b with regkey := v &&& low }) s)
  | _ => none

/-! ### NCT (R394) -/

def PathMode.code : PathMode → Nat
  | .down => 0
  | .up => 1
  | .suspect => 2

/-- The registers of a port's NCT window: its two halves are counted together. -/
def Fabric.pathRead (b : Fabric) (p : Fin 8) (off : Nat) : Option Word :=
  let x := b.paths[Fin.ofNat 16 (2 * p.val)]
  let y := b.paths[Fin.ofNat 16 (2 * p.val + 1)]
  pick
    [(0x000, at' y.mode.code 2 ||| at' x.mode.code 0), (0x008, x.tx + y.tx), (0x010, x.rx + y.rx), (0x018, x.ce + y.ce),
     (0x020, x.retx + y.retx)] off

def SessMode.code : SessMode → Nat
  | .off => 0
  | .connecting => 1
  | .up => 2
  | .lost => 3

/-- `nct.sess.key`. -/
def Sess.keyWord (x : Sess) : Word :=
  flag x.rekeyDue 7 ||| flag x.keyBusy 6 ||| flag x.txSlot 2 ||| flag x.key1.isSome 1 ||| flag x.key0.isSome 0

def State.sessRead (s : State) (i k : Nat) : Word :=
  let x := s.sess (BitVec.ofNat 10 i)
  match k with
  | 0 => x.cfg ||| at' x.mode.code 60
  | 1 => x.win
  | 2 => x.keyWord
  | _ => (x.retx.setWidth 64 <<< 32) ||| (x.stale.setWidth 64 <<< 16) ||| x.authfail.setWidth 64

def State.nctRead (s : State) (off : Nat) : Option Word :=
  match slotOf off 0x1000 8 4096 with
  | some n => some (s.sessRead (n / 4) (n % 4))
  | none => pick
    [(0x800, s.fab.nctCtl), (0x808, s.fab.nctWin), (0x810, s.fab.peerbase),
     (0x818, flag s.fab.downB 3 ||| flag s.fab.downA 2 ||| flag s.fab.failover 1 ||| flag s.fab.sessLost 0),
     (0x820, s.fab.err)] off

/-- `nct.sess.key`: sticky bits, SWITCH, RETIRE0 and RETIRE1. -/
def State.sessKey (s : State) (i : BitVec 10) (v : Word) : State :=
  let s := s.modSess i fun x => { x with rekeyDue := w1c x.rekeyDue v 7, keyBusy := w1c x.keyBusy v 6 }
  let s := if v.getLsbD 3 then s.keySwitchOp i else s
  let s := if v.getLsbD 4 then s.keyRetireOp i false else s
  if v.getLsbD 5 then s.keyRetireOp i true else s

def State.sessWrite (s : State) (i : BitVec 10) (k : Nat) (v : Word) : State :=
  match k with
  | 0 => s.sessCfg i v
  | 1 => s.modSess i fun x => { x with win := v &&& 0xFFF3FFFFFFE00000 }
  | 2 => s.sessKey i v
  | _ => s

/-- A field of v, or the old one where the value is reserved. -/
def keepZero (old v : Word) (lo len : Nat) : Word := putFld old lo len (if nfld v lo len = 0 then nfld old lo len else nfld v lo len)

/-- A write of `nct.glob.win`: a WMAX above 16,384 leaves WMAX as it was (R17); the write is ignored where WMIN ≤ WINIT
≤ WMAX would not hold of what it leaves. DEDUCED (log entry 26): that R17 comes before the test of the order. -/
def nctWinAfter (old v : Word) : Word :=
  let v := v &&& 0x0000FFFFFFFFFFFF
  let v := if nfld v 32 16 ≤ 16384 then v else putFld v 32 16 (nfld old 32 16)
  if nfld v 0 16 ≤ nfld v 16 16 ∧ nfld v 16 16 ≤ nfld v 32 16 then v else old

def State.nctWrite (s : State) (off : Nat) (v : Word) : Option State :=
  match slotOf off 0x1000 8 4096 with
  | some n => some (s.sessWrite (BitVec.ofNat 10 (n / 4)) (n % 4) v)
  | none =>
    match off with
    | 0x800 => some (s.modFab fun b => { b with
        nctCtl := putFld (keepZero (keepZero b.nctCtl v 32 16) v 16 16) 48 16 (nfld v 48 16) })
    | 0x808 => some (s.modFab fun b => { b with nctWin := nctWinAfter b.nctWin v })
    | 0x810 => some (s.modFab fun b => { b with peerbase := v &&& pageMask })
    | 0x818 => some (s.modFab fun b => { b with failover := w1c b.failover v 1, sessLost := w1c b.sessLost v 0 })
    | 0x820 => some (s.modFab fun b => { b with err := clearRec b.err v })
    | _ => none

/-- The window of fabric port p, offsets below 0x8_0000, and of its NCT, above. -/
def State.fabRead (s : State) (off : Nat) : Option Word :=
  let p : Fin 8 := Fin.ofNat 8 (off / 0x10000)
  let o := off % 0x10000
  if off ≥ 0x100000 then none
  else if off < 0x80000 then
    if o < 0x8000 then s.fab.portRead p o else if p = 0 then s.fab.globRead o else none
  else if o < 0x800 then s.fab.pathRead p o else if p = 0 then s.nctRead o else none

def State.fabWrite (s : State) (m : RegMaster) (off : Nat) (v : Word) : Option State :=
  let p : Fin 8 := Fin.ofNat 8 (off / 0x10000)
  let o := off % 0x10000
  if off ≥ 0x100000 then none
  else if off < 0x80000 then
    if o < 0x8000 then s.portWrite p o v else if p = 0 then s.fabGlobWrite m o v else none
  else if o < 0x800 then (s.fab.pathRead p o).map fun _ => s else if p = 0 then s.nctWrite o v else none

/-! ### Transit (R426) -/

/-- `tr.job.status`; NOROUTE shows while a job is configured (log entry 27). -/
def State.trStatus (s : State) : Word :=
  flag s.tr.rejoin 7 ||| flag s.tr.lateMerge 6 ||| flag s.tr.pull.isSome 5 ||| flag (s.tr.valid && s.tr.routesUp.isEmpty) 4 |||
    at' s.tr.openCount 2 ||| flag (s.tr.acks.any fun a => !s.tr.decided.contains a.step) 1

def Transit.keyWord (t : Transit) : Word :=
  flag t.rekeyDue 7 ||| flag t.keyBusy 6 ||| flag t.txSlot 2 ||| flag t.slot1.key.isSome 1 ||| flag t.slot0.key.isSome 0

def State.trRegRead (s : State) (off : Nat) : Option Word :=
  match slotOf off 0x040 8 11, slotOf off 0x100 8 8, slotOf off 0x140 8 8, slotOf off 0x180 8 8 with
  | some i, _, _, _ => some s.tr.regs[Fin.ofNat 11 i]
  | _, some i, _, _ => some (s.tr.routes[Fin.ofNat 8 i]).cfg
  | _, _, some i, _ =>
    let r := s.tr.routes[Fin.ofNat 8 i]
    some (flag r.up 63 ||| r.srtt.setWidth 64)
  | _, _, _, some i => some s.tr.stat[Fin.ofNat 8 i]
  | none, none, none, none => pick
    [(0x000, s.tr.cfg), (0x008, s.tr.sites), (0x010, s.tr.seen), (0x018, s.tr.sitebase), (0x020, s.tr.blocks),
     (0x028, s.tr.net), (0x030, s.tr.keyWord), (0x038, s.trStatus), (0x1C0, s.tr.err)] off

/-- `tr.job.key`. -/
def State.trKey (s : State) (v : Word) : State :=
  let s := s.modTr fun t => { t with rekeyDue := w1c t.rekeyDue v 7, keyBusy := w1c t.keyBusy v 6 }
  let s := if v.getLsbD 3 then s.trSwitch else s
  let s := if v.getLsbD 4 then s.trRetire false else s
  if v.getLsbD 5 then s.trRetire true else s

/-- `tr.route.cfg`: a route that is disabled is no longer UP. -/
def Route.write (r : Route) (v : Word) : Route :=
  { r with cfg := keepZero (v &&& 0x8000FFFFFFFF0000 ||| r.cfg &&& 0xFFFF) v 0 16, up := r.up && v.getLsbD 63 }

def State.trRegWrite (s : State) (off : Nat) (v : Word) : Option State :=
  match slotOf off 0x040 8 11, slotOf off 0x100 8 8, slotOf off 0x140 8 8, slotOf off 0x180 8 8 with
  | some i, _, _, _ => some (s.modTr fun t => { t with regs := t.regs.set (Fin.ofNat 11 i) (v &&& 0x0000FFFFFFFFFFFF) })
  | _, some i, _, _ =>
    some (s.modTr fun t => { t with routes := t.routes.set (Fin.ofNat 8 i) ((t.routes[Fin.ofNat 8 i]).write v) })
  | _, _, some _, _ => some s
  | _, _, _, some _ => some s
  | none, none, none, none =>
    match off with
    | 0x000 => some (s.trCfgOp v)
    | 0x008 => some (s.modTr fun t => { t with sites := v })
    | 0x010 => some s
    | 0x018 => some (s.modTr fun t => { t with sitebase := v &&& pageMask })
    | 0x020 => some (s.modTr fun t => { t with blocks := v })
    | 0x028 => some (s.modTr fun t => { t with net := keepZero (v &&& 0xFFFFFC0000000000 ||| t.net &&& 0xFFFF0000) v 16 16 })
    | 0x030 => some (s.trKey v)
    | 0x038 => some (s.modTr fun t => { t with rejoin := w1c t.rejoin v 7, lateMerge := w1c t.lateMerge v 6 })
    | 0x1C0 => some (s.modTr fun t => { t with err := clearRec t.err v })
    | _ => none

/-! ### Registrar and crypto (R316, R500) -/

/-- `reg.status`. -/
def Registrar.status (r : Registrar) : Word :=
  at' r.tenants.length 32 ||| flag r.mboxOvf 5 ||| flag r.transitional 4 ||| flag r.trial 3 ||| flag r.staged 2 |||
    flag r.kemReady 1 ||| flag r.idReady 0

def State.regRead (s : State) (off : Nat) : Option Word :=
  let r := s.reg
  match slotOf off 0x048 8 4, slotOf off 0x080 8 4, slotOf off 0x0A0 8 4, slotOf off 0x100 8 64 with
  | some i, _, _, _ => some r.extdig[Fin.ofNat 4 i]
  | _, some i, _, _ => some r.stagedig[Fin.ofNat 4 i]
  | _, _, some i, _ => some r.actdig[Fin.ofNat 4 i]
  | _, _, _, some n => some (digestWords r.prov[Fin.ofNat 16 (n / 4)])[Fin.ofNat 4 (n % 4)]
  | none, none, none, none => pick
    [(0x000, r.status), (0x008, Config.serial), (0x010, r.resetgen.setWidth 64),
     (0x018, (r.ssvn.setWidth 64 <<< 16) ||| (r.asvn.setWidth 64 <<< 8) ||| at' r.fusesvn 0), (0x020, flag r.staged 0),
     (0x028, r.mbox), (0x030, 0), (0x038, r.head.setWidth 64), (0x040, 0)] off

/-- `reg.mbox`: BASE is written while EN is 0. -/
def Registrar.writeMbox (r : Registrar) (v : Word) : Registrar :=
  { r with mbox := (if r.mbox.getLsbD 0 then r.mbox &&& pageMask else v &&& pageMask) ||| v &&& 1 }

def State.regWrite (s : State) (m : RegMaster) (off : Nat) (v : Word) : Option State :=
  match slotOf off 0x048 8 4, slotOf off 0x080 8 4, slotOf off 0x0A0 8 4, slotOf off 0x100 8 64 with
  | some i, _, _, _ => some (curatorOnly m (fun s => s.modReg fun r => { r with extdig := r.extdig.set (Fin.ofNat 4 i) v }) s)
  | _, some i, _, _ => some (curatorOnly m (fun s => if s.reg.staged then s
      else s.modReg fun r => { r with stagedig := r.stagedig.set (Fin.ofNat 4 i) v }) s)
  | _, _, some _, _ => some s
  | _, _, _, some _ => some s
  | none, none, none, none =>
    match off with
    | 0x000 => some (s.modReg fun r => { r with mboxOvf := w1c r.mboxOvf v 5 })
    | 0x008 | 0x010 | 0x018 | 0x038 => some s
    | 0x020 => some (curatorOnly m (fun s =>
        let s := if v.getLsbD 1 then s.confirmOp else s
        if v.getLsbD 0 = s.reg.staged then s else s.stageOp (v.getLsbD 0)) s)
    | 0x028 => some (curatorOnly m (fun s => s.modReg fun r => r.writeMbox v) s)
    | 0x030 => some (s.tailOp (v.setWidth 32))
    | 0x040 => some (curatorOnly m (fun s => s.extendOp v) s)
    | _ => none

def Mem.cryptRead (x : Mem) (off : Nat) : Option Word :=
  match slotOf off 0x020 8 4 with
  | some i => some x.curwin[Fin.ofNat 4 i]
  | none => pick
    [(0x000, (x.haltCause.setWidth 64 <<< 8) ||| flag x.katOk 3 ||| flag x.lock 2 ||| flag x.halted 1 ||| flag x.keyValid 0),
     (0x008, x.haltRec), (0x010, x.haltTick), (0x018, flag x.lock 0)] off

def curwinMask : Word := 0xFFF0FFFFFFE00007

/-- A curator window after LOCK refuses the write and sets DPA_HOLE (R315). -/
def State.curwinOp (s : State) (i : Fin 4) (v : Word) : State :=
  if s.mem.lock then s.hole else s.modMem fun x => { x with curwin := x.curwin.set i (v &&& curwinMask) }

def State.cryptWrite (s : State) (m : RegMaster) (off : Nat) (v : Word) : Option State :=
  match slotOf off 0x020 8 4 with
  | some i => some (curatorOnly m (fun s => s.curwinOp (Fin.ofNat 4 i) v) s)
  | none =>
    match off with
    | 0x000 | 0x008 | 0x010 => some s
    | 0x018 => some (curatorOnly m (fun s =>
        let s := if v.getLsbD 1 then s.zeroizeOp else s
        if v.getLsbD 0 then s.lockOp else s) s)
    | _ => none

/-! ### Vault (R450) -/

/-- `vault.status`. -/
def State.vaultStatus (s : State) : Word :=
  let v := s.vault
  flag v.due 9 ||| flag v.preempt 8 ||| flag v.drain.isSome 7 ||| flag (v.jobs.any VaultJob.isRestore) 6 |||
    flag (v.jobs.any VaultJob.isCommit) 5 ||| flag v.openGen.isSome 4 ||| flag (v.openGen.getD false) 3 |||
    flag (v.anyCommit && v.newest) 2 ||| flag v.anyCommit 1

def Gener.word (g : Gener) : Word :=
  flag g.committed 63 ||| flag g.isOpen 62 ||| at' g.used 32 ||| at' g.shards.length 0

def State.vaultRead (s : State) (off : Nat) : Option Word :=
  let v := s.vault
  pick
    [(0x000, flag s.mem.vaultEn 63 ||| (v.vctx.setWidth 64 <<< 54) ||| (s.mem.vaultPages.setWidth 64 <<< 32)),
     (0x008, s.vaultStatus), (0x010, (v.period.setWidth 64 <<< 8) ||| flag v.supplyEn 0), (0x018, v.dueaddr.setWidth 64),
     (0x020, (s.gen false).word), (0x028, (s.gen true).word), (0x030, (s.gen false).acc), (0x038, (s.gen true).acc),
     (0x040, flag (match v.drain with
       | some d => d.slot
       | none => false) 7 ||| v.share.setWidth 64),
     (0x048, if v.drain.isSome then s.drainCount else v.drainBytes), (0x050, v.err)] off

/-- `vault.trig`: a timer that is no longer due may fall due again. -/
def State.trigOp (s : State) (v : Word) : State :=
  let s := s.modVault fun y => { y with period := (v >>> 8).setWidth 32, supplyEn := v.getLsbD 0 }
  s.modVault fun y => { y with fired := y.fired && s.timerDue }

def State.vaultWrite (s : State) (off : Nat) (v : Word) : Option State :=
  match off with
  | 0x000 => some (s.vaultCfg v)
  | 0x008 => some (s.modVault fun y => { y with due := w1c y.due v 9, preempt := w1c y.preempt v 8 })
  | 0x010 => some (s.trigOp v)
  | 0x018 => some (s.modVault fun y => { y with dueaddr := (v &&& 0x0000FFFFFFFFFFF8).setWidth 48 })
  | 0x020 | 0x028 | 0x030 | 0x038 | 0x048 => some s
  | 0x040 =>
    let n := nfld v 0 7
    some (if 1 ≤ n ∧ n ≤ 100 then s.modVault fun y => { y with share := BitVec.ofNat 7 n } else s)
  | 0x050 => some (s.modVault fun y => { y with err := clearRec y.err v })
  | _ => none

end Sys2Proof.Machine
end

