-- ==== Sys2Proof/Machine/Supply.lean ====
section
/-! DEFINITION. The supply monitor, the clock governor, the trip, the pins, the SMBus target, the service button and the
fuse block (R525-R549). -/
namespace Sys2Proof.Machine

/-! ### Pins and LEDs (R534, R541, R547) -/

/-- The hottest of a list of sensors. -/
def hottest : List Int → Int
  | [] => 0
  | x :: xs => xs.foldl Max.max x

/-- MOD_PWRGD is driven low. -/
def State.pwrgdLow (s : State) : Bool := s.aon && (!s.sup.railsGood || s.sup.railFault || s.sup.trip)
/-- MOD_FAULT_N is driven low. -/
def State.faultPin (s : State) : Bool := s.aon && s.sup.faultLow
/-- MOD_THERM_N is driven low: the clock is lowered for temperature, a stack shows THERM, or a trip stands. -/
def State.thermPin (s : State) : Bool :=
  s.aon && (s.sup.thermLow || s.sup.trip || s.mem.stk.toList.any fun (t : Stack) => t.therm)

/-- SVCPAT: 0 off, 1 at 1 Hz, 2 steady, 3 at 4 Hz. -/
def State.svcPat (s : State) : Nat :=
  if !s.aon then 0 else if s.sup.faultLow then 3 else if s.host.svcSafe then 2 else if s.host.svcReq then 1 else 0

/-- MOD_LED_ID_N is driven low: identify is on; the LED is off while the module is off or held in reset (R547). -/
def State.idLed (s : State) : Bool := s.aon && s.sup.ident

/-! ### Registers (R549) -/

/-- `sup.status`. -/
def State.supStatus (s : State) : Word :=
  let u := s.sup
  flag u.supRst 8 ||| flag u.trip 7 ||| flag u.ckptReq 6 ||| flag u.govPower 5 ||| flag u.govTherm 4 |||
    flag u.supplyWarn 3 ||| flag (decide (u.clampLevel < 256)) 2 ||| flag u.belowRel 1 ||| flag u.valid 0

/-- `chip.fuse.arraymask` i. -/
def arrayMasks (i : Nat) : Word :=
  (List.range 16).foldl (fun a j => a ||| at' (Config.arrayMask (Fin.ofNat 96 (16 * i + j))).toNat (4 * j)) 0

def State.supRead (s : State) (off : Nat) : Option Word :=
  let u := s.sup
  match slotOf off 0x1000 8 6 with
  | some i => some (arrayMasks i)
  | none => pick
    [(0x000, s.supStatus),
     (0x008, (u.meas.vinMv.setWidth 64 <<< 48) ||| (u.meas.currentMa.setWidth 64 <<< 32) |||
       (u.meas.powerDw.setWidth 64 <<< 16) ||| at' (byteOf (hottest u.meas.die)) 8 ||| at' u.farith 0),
     (0x010, (u.wwindow.setWidth 64 <<< 24) ||| (u.wcount.setWidth 64 <<< 8)),
     (0x018, flag u.dipValid 63 ||| (u.dipMinv.setWidth 64 <<< 48) ||| (u.dipCount.setWidth 64 <<< 32) ||| u.dipTicks.setWidth 64),
     (0x020, (u.pressMs.setWidth 64 <<< 8) ||| (u.presses.setWidth 64 <<< 4) ||| at' s.svcPat 2 ||| flag u.button 1 |||
       flag u.ident 0),
     (0x1030, flag u.fuseEcc 1 ||| flag u.fuseLoaded 0)] off

/-- WWINDOW and WCOUNT: reserved windows leave the field. -/
def Supply.setCfg (u : Supply) (wcount : BitVec 8) (wwindow : Nat) : Supply :=
  { u with
    wcount := wcount
    wwindow := if 1 ≤ wwindow ∧ wwindow ≤ 86400 then BitVec.ofNat 17 wwindow else u.wwindow }

/-- Writes that no register of the windows accepts are ignored and set DPA_HOLE. -/
def State.supWrite (s : State) (m : RegMaster) (off : Nat) (v : Word) : Option State :=
  match off with
  | 0x000 => some (s.modSup fun u => { u with
      ckptReq := w1c u.ckptReq v 6, govPower := w1c u.govPower v 5, govTherm := w1c u.govTherm v 4
      supplyWarn := w1c u.supplyWarn v 3 })
  | 0x010 => some (curatorOnly m (fun s => s.modSup fun u => u.setCfg ((v >>> 8).setWidth 8) (nfld v 24 17)) s)
  | 0x018 => some (if v.getLsbD 63 then s.modSup fun u => { u with dipValid := false, dipMinv := 0, dipTicks := 0 } else s)
  | 0x020 => some (s.modSup fun u => { u with ident := v.getLsbD 0 })
  | 0x1030 => some (s.modSup fun u => { u with fuseEcc := w1c u.fuseEcc v 1 })
  | _ => none

/-! ### Warnings and the clamp (R528-R531) -/

/-- The supply monitor compares: always-on domain running, or the ramp in progress (R548). -/
def State.monitors (s : State) : Bool := s.aon || s.sup.power == .ramping

/-- Its front end sees the release level: also while the module is held in reset. -/
def State.sensesRelease (s : State) : Bool := s.monitors || s.sup.power == .held

/-- A warning is counted; WCOUNT of them within WWINDOW seconds request a checkpoint and are forgotten. -/
def State.countWarning (s : State) : State :=
  let u := s.sup
  let recent := (u.warnings ++ [s.tick]).filter fun t => decide ((s.tick - t).toNat ≤ u.wwindow.toNat * 25000000)
  let hit := u.wcount != 0 && decide (recent.length ≥ u.wcount.toNat)
  let s := s.modSup fun u => { u with warnings := if hit then [] else recent, ckptReq := u.ckptReq || hit }
  if hit && s.fabOn then s.supplyDue else s

/-- SUPPLY_WARNING: the clamp falls to 0x66 from its current value, which it goes on to do where it falls already or is
there; the warning counts, and its record starts, where the clamp was at 256. -/
def execSupplyWarning (s : State) : Out :=
  guard s.monitors "the supply monitor is off"
    (let fresh := s.sup.clamp == .normal
     let s := s.modSup fun u =>
       { (if u.clamp = .held then u else u.clampFall) with
         belowRel := true, holding := false, supplyWarn := u.supplyWarn || fresh }
     if fresh then
       let s := s.modSup fun u => { u with
         dipValid := true, dipMinv := 18000, dipTicks := 0, dipStart := s.tick, dipCount := satAdd16 u.dipCount }
       s.countWarning
     else s)

/-- SUPPLY_ABOVE_RELEASE: the hold count starts; the lowest input since the last such crossing enters the record. -/
def execSupplyAboveRelease (minMv : Nat) (s : State) : Out :=
  guard (s.sensesRelease && s.sup.belowRel) "the input is not below the release level"
    (s.modSup fun u => { u with
      belowRel := false, holding := u.clamp == .held, holdSince := s.tick
      dipMinv := if u.clamp == .held && u.dipValid then BitVec.ofNat 15 (Min.min u.dipMinv.toNat (minMv / 2)) else u.dipMinv })

/-- SUPPLY_BELOW_RELEASE: the count starts again from zero at the next crossing. -/
def execSupplyBelowRelease (s : State) : Out :=
  guard (s.sensesRelease && !s.sup.belowRel) "the input is below the release level"
    (s.modSup fun u => { u with belowRel := true, holding := false })

/-- CLAMP_RELEASE: 25,000 ticks above the release level. The clamp rises, one step of R529 in each core cycle. -/
def execClampRelease (s : State) : Out :=
  guard (s.monitors && s.sup.clamp == .held && s.sup.holding && decide ((s.tick - s.sup.holdSince).toNat ≥ 25000))
    "the hold is not complete"
    (s.modSup fun u => { u.moveClamp .rising u.clampFrom u.clampDur with
      holding := false
      dipTicks := if u.dipValid then (s.tick - u.dipStart).setWidth 32 else u.dipTicks })

/-- CLAMP_RESTORED: the 256 cycles of the rise have passed. -/
def execClampRestored (s : State) : Out :=
  guard (s.monitors && s.sup.clamp == .rising && decide (s.sup.clampJ ≥ 256)) "the clamp has not risen to 256"
    (s.modSup Supply.clampOff)

/-- Power leaves the chip: the boot key is lost (R296). -/
def State.cutPower (s : State) (p : PowerMode) : State :=
  (s.modMem fun m => { m with keyValid := false }).modSup fun u => { u with power := p }

/-- SUPPLY_RESET (R532): the power state is the latch that CAUSE 2 comes from. -/
def execSupplyReset (s : State) : Out :=
  guard (s.sup.power != .off && s.sup.power != .supplyReset) "the module is off"
    ((s.cutPower .supplyReset).modSup fun u => { u.clampOff with valid := false, holding := false })

/-! ### Governor and trip (R533, R535, R541) -/

/-- The means of a millisecond enter the 250 ms window of R360. -/
def Supply.window (u : Supply) (m : Measure) : Supply :=
  let p := u.winPower + m.powerDw.toNat
  let i := u.winCurrent + m.currentMa.toNat
  if u.winN + 1 ≥ 250 then { u with winN := 0, winPower := 0, winCurrent := 0, donePower := p, doneCurrent := i }
  else { u with winN := u.winN + 1, winPower := p, winCurrent := i }

/-- Power or current over its limit; a die sensor over its. -/
def overPower (m : Measure) : Bool := decide (m.powerDw.toNat > 18000) || decide (m.currentMa.toNat > 50000)
def overHeat (m : Measure) : Bool := decide (hottest m.die ≥ 100)
/-- Below every limit that lets the clock rise. -/
def calm (m : Measure) : Bool :=
  decide (m.powerDw.toNat < 17100) && decide (m.currentMa.toNat < 47500) && decide (hottest m.die < 97)

/-- One step of the governor, between 2.4 GHz and 1.2 GHz. -/
def Supply.govern (u : Supply) (m : Measure) : Supply :=
  if overPower m || overHeat m then
    if u.farith > 12 then
      { u with
        farith := u.farith - 1, govQuiet := 0, govPower := u.govPower || overPower m, govTherm := u.govTherm || overHeat m
        thermLow := u.thermLow || overHeat m }
    else { u with govQuiet := 0 }
  else
    let q := if calm m then u.govQuiet + 1 else 0
    if q ≥ 10 ∧ u.farith < 24 then
      { u with farith := u.farith + 1, govQuiet := 0, thermLow := u.thermLow && decide (u.farith + 1 < 24) }
    else { u with govQuiet := q }

/-- GOVERNOR_TICK: a millisecond has passed since the latest; the front end measures whatever the chip does. -/
def execGovernorTick (m : Measure) (s : State) : Out :=
  guard ((s.aon && decide ((s.tick - s.sup.govLast).toNat ≥ 25000)) || s.sup.power == .held) "nothing measures"
    (s.modSup fun u =>
      let u := { u with front := m, govLast := s.tick }
      if u.power == .running then ({ u with meas := m }.window m).govern m
      else if u.power == .tripped then { u with meas := m }
      else u)

/-- THERMAL_TRIP: every rail outside the always-on domain goes off. A sensor of either kind has the same effect. The trip is
logged at once where the almanac can take a record; before start-up step 3 the boot ROM first reads it. -/
def execThermalTrip (_ : Bool) (s : State) : Out :=
  guard s.on "the module does not run"
    (let s := (s.cutPower .tripped).modSup fun u => { u with trip := true, faultLow := true }
     let s := if s.cur.phase.toNat < 3 && s.alm.usable then s.readAlmanac else s
     if s.alm.usable then s.logEnter ⟨7, 0, 0xFE0700000000, s.supStatus, true⟩ else s)

/-- RAIL_FAULT. -/
def execRailFault (s : State) : Out :=
  guard s.aon "the module does not run" (s.modSup fun u => { u with railFault := true, faultLow := true })

/-! ### Service button (R504, R546) -/

/-- What a press of this length does. -/
def State.pressAct (s : State) (ms : Nat) : State :=
  if ms < 2000 then s.modSup fun u => { u with ident := !u.ident }
  else if 3000 ≤ ms ∧ ms < 10000 then s.longPress
  else s

/-- MOD_SVC_REQ_N has been stable at its new level for 500,000 ticks, so no earlier change counted since. -/
def State.debounced (s : State) : Bool := decide ((s.tick - s.sup.buttonAt).toNat ≥ 500000)

def execButtonPress (s : State) : Out :=
  guard (s.aon && !s.sup.button && s.debounced) "the button is not seen, or is down"
    (s.modSup fun u => { u with button := true, buttonAt := s.tick })

/-- The whole milliseconds for which the button has been down (R31, R546). -/
def State.pressLen (s : State) : Nat := (s.tick - s.sup.buttonAt).toNat / 25000

/-- BUTTON_RELEASE: the monitor has measured the press; during a curator restart it is latched. -/
def execButtonRelease (s : State) : Out :=
  guard (s.aon && s.sup.button && s.debounced) "the button is not down"
    (let ms := s.pressLen
     let s := s.modSup fun u => { u with
       button := false, buttonAt := s.tick, pressMs := BitVec.ofNat 32 ms, presses := u.presses + 1 }
     if s.cur.restarting then s.modCur fun c => { c with latched := c.latched ++ [ms] } else s.pressAct ms)

/-! ### SMBus (R545) -/

/-- The target answers: the input has been valid for the ramp. -/
def State.smbOn (s : State) : Bool := s.aon || s.sup.power == .held

/-- One bit, and one byte, of the packet error code of SMBus: CRC-8 with x^8 + x^2 + x + 1 (PRESUMED, log entry 50). -/
def pecBit (c : Byte) : Byte := if c.msb then (c <<< 1) ^^^ 0x07 else c <<< 1
def pecByte (c b : Byte) : Byte :=
  pecBit (pecBit (pecBit (pecBit (pecBit (pecBit (pecBit (pecBit (c ^^^ b))))))))
def pec (bs : List Byte) : Byte := bs.foldl pecByte 0

/-- What the target sends for a read of a command: a block's length, the data, and PEC over all of the transfer. -/
def smbBytes (command : Byte) (block : Bool) (data : List Byte) : List Byte :=
  let d := if block then BitVec.ofNat 8 data.length :: data else data
  d ++ [pec (0xB8 :: command :: 0xB9 :: d)]

/-- A read of a listed command. -/
def smbRead (s : State) (command : Byte) (block : Bool) (data : List Byte) : Out :=
  guard s.smbOn "the SMBus target is off" (s.emit (.smbus (smbBytes command block data)))

/-- The chip is powered and out of reset. -/
def chipWord (s : State) (t : Int) : List Byte := leBytes 2 (if s.on then (BitVec.ofInt 16 t).toNat else 0x8000)

/-- The order code in ASCII, 16 bytes. -/
def orderCode : List Byte :=
  let d (n : Nat) : Byte := BitVec.ofNat 8 (0x30 + n % 10)
  [0x56, 0x47, 0x53, 0x2D, 0x4B, 0x39, 0x2D, d (arrayCount / 100), d (arrayCount / 10), d arrayCount, 0x2D, 0x4C, 0x43,
    0, 0, 0]

/-- The status byte. -/
def State.smbStatus (s : State) : Word :=
  flag s.sup.valid 0 ||| flag (s.sup.power == .held) 1 ||| flag (s.on && s.glob.ready) 2 ||| flag s.faultPin 3 |||
    flag s.thermPin 4 ||| flag (s.on && s.host.svcReq) 5 ||| flag (s.on && s.host.svcSafe) 6 ||| flag s.sup.trip 7

def execSmbusVersion (s : State) : Out := smbRead s 0x00 false [0x01]
def execSmbusStatus (s : State) : Out := smbRead s 0x01 false (leBytes 1 s.smbStatus.toNat)
def execSmbusOrderCode (s : State) : Out := smbRead s 0x10 true orderCode
def execSmbusSerial (s : State) : Out := smbRead s 0x11 true (leBytes 8 Config.serial.toNat)
def execSmbusVin (s : State) : Out := smbRead s 0x20 false (leBytes 2 s.sup.front.vinMv.toNat)
def execSmbusIin (s : State) : Out := smbRead s 0x21 false (leBytes 2 s.sup.front.currentMa.toNat)
def execSmbusPin (s : State) : Out := smbRead s 0x22 false (leBytes 2 s.sup.front.powerDw.toNat)
def execSmbusTdie (s : State) : Out := smbRead s 0x30 false (chipWord s (hottest s.sup.front.die))
def execSmbusTstack (s : State) : Out := smbRead s 0x31 false (chipWord s (hottest s.sup.front.stack))
def execSmbusTboard (s : State) : Out := smbRead s 0x32 false (leBytes 2 (BitVec.ofInt 16 s.sup.front.inlet).toNat)
def execSmbusCause (s : State) : Out := smbRead s 0x40 false (leBytes 1 s.cur.cause.toNat)

/-- Commands that a read may name. -/
def smbListed (c : Byte) : Bool :=
  [0x00#8, 0x01#8, 0x10#8, 0x11#8, 0x20#8, 0x21#8, 0x22#8, 0x30#8, 0x31#8, 0x32#8, 0x40#8].contains c

def execSmbusNack (write : Bool) (command : Byte) (s : State) : Out :=
  guard (s.smbOn && (write || !smbListed command)) "the command is answered" (s.emit .smbusNack)

end Sys2Proof.Machine
end

