-- ==== Sys2Proof/Machine/Curator.lean ====
section
/-! DEFINITION. The curator: its registers, watchdog, the almanac's settings, the resets and the start-up steps (R498,
R501-R524, R526, R542). -/
namespace Sys2Proof.Machine

/-! ### Registers (R524) -/

/-- A write that the curator's own path makes; a queue pair's needs the chip. -/
def State.curOpen (s : State) (m : RegMaster) : Bool :=
  match m with
  | .curator => s.aon && !s.cur.restarting
  | .host => s.busOpen .host

/-- `cur.status`. -/
def State.curStatus (s : State) : Word :=
  let c := s.cur
  (c.restarts.setWidth 64 <<< 56) ||| (c.phase.setWidth 64 <<< 52) ||| (c.cause.setWidth 64 <<< 48) ||| flag c.almBad 7 |||
    flag c.repairFull 6 ||| flag c.logWrap 5 ||| flag c.wdogExp 4 ||| flag c.curCe 3 ||| flag c.sessRefused 2 |||
    flag c.deepIdle 1 ||| flag c.fwrun 0

/-- `cur.almanac`: zero until the boot ROM has read the almanac's parameters (R505, start-up step 3). -/
def State.almanacWord (s : State) : Word :=
  let a := s.alm
  if s.cur.phase.toNat < 3 then 0
  else (a.jedec.setWidth 64 <<< 40) ||| (a.sfdprev.setWidth 64 <<< 32) ||| flag a.liveBank 8 ||| at' (if a.usable then 26 else 0) 0

def State.curRead (s : State) (off : Nat) : Option Word :=
  match slotOf off 0x108 8 10 with
  | some i => some s.cur.phaseTick[Fin.ofNat 10 i]
  | none => pick
    [(0x000, s.curStatus), (0x008, s.cur.timeout.setWidth 64 <<< 32), (0x010, s.cur.window.setWidth 64), (0x018, 0),
     (0x020, flag s.cur.deepIdle 1 ||| flag s.cur.idleReq 0), (0x028, s.almanacWord)] off

/-! ### Deep idle (R33, R522) -/

/-- The test of R522: every context other than 0 is DEAD or FREE, which the curator reads from the entries, and no core runs.
DESIGN CHOICE (log entry 45): a RETIRED core, whose clock is stopped too, keeps the module from deep idle no more than a GATED
one does, though R33 calls all cores GATED. -/
def State.idleTest (s : State) : State × Bool :=
  if s.on && s.live && s.glob.released && s.cores.toList.all fun k => k.mode != .active && k.mode != .quarantined then
    let (s, l) := s.ctxScan
    (s, !l.any fun n => n == 1 || n == 2)
  else (s, false)

/-- The module may enter deep idle. -/
def State.mayIdle (s : State) : Bool := s.idleTest.2

def State.selfRefresh (s : State) (b : Bool) : State :=
  s.modMem fun m => { m with stk := m.stk.map fun (t : Stack) => { t with selfRefresh := b } }

/-- DEEPIDLE written 1: enter deep idle where R522 allows it. -/
def State.idleOn (s : State) : State :=
  let s := s.modCur fun c => { c with idleReq := true }
  if s.cur.deepIdle then s
  else
    let (s, may) := s.idleTest
    if may then
      let s := (s.linksDown.selfRefresh true).modCur fun c => { c with deepIdle := true }
      s.modGlob fun g => { g with ready := false, meshRun := false, serviceRun := false, stackRun := false }
    else s

/-- DEEPIDLE written 0: leave deep idle; READY comes again with the links. -/
def State.idleOff (s : State) : State :=
  let s := s.modCur fun c => { c with idleReq := false }
  if s.cur.deepIdle then
    let s := (s.selfRefresh s.mem.halted).modCur fun c => { c with deepIdle := false, linkSince := s.tick }
    s.modGlob fun g => { g with meshRun := true, meshIdle := 0, serviceRun := true, stackRun := true }
  else s

def execDeepIdleEnter (s : State) : Out := guard (s.curOpen .curator && s.on) "the curator does not run" s.idleOn
def execDeepIdleLeave (s : State) : Out := guard (s.curOpen .curator && s.on) "the curator does not run" s.idleOff

/-! ### RESETGEN and the resets (R498, R519-R521) -/

/-- RESETGEN advances; where it would reach RESV, the reservation in the almanac goes first. -/
def State.genAdvance (s : State) : State :=
  let g := s.reg.resetgen + 1
  let s := if g = s.alm.resv then s.bootWrite fun a => { a with resv := a.resv + 256 } else s
  s.modReg fun r => { r with resetgen := g }

/-- A core reset: only of a QUARANTINED core, and without effect on a halted module (R307). DESIGN CHOICE (log entry 45): a CORE of
96 to 127 sets CTL_REJECT, as R37 has it for `chip.glob.corectl`; the table of `cur.reset` names no flag. -/
def State.coreResetOp (s : State) (n : BitVec 7) : State :=
  match coreOf n with
  | none => s.ctlReject
  | some c =>
    if !s.live then s
    else if (s.core c).mode = .quarantined then (s.genAdvance.discardCore c).modCore c fun _ => Core.reset c
    else s.ctlReject

/-- The memory system after a reset: what the stacks hold stays under keys that are gone until the fill, and the model's
counters go on. -/
def Mem.renew (m : Mem) : Mem :=
  { Mem.reset with
    stk := Vector.ofFn fun k => { Stack.reset k with fillGen := (m.stk[k]).fillGen }
    dram := m.dram, side := m.side, keyGen := m.keyGen, dpaHole := m.dpaHole, draws := m.draws }

/-- The memory system after a chip reset: retired dies stay retired, with their groups' states; no rebuild goes on, since
the fill follows (R280, R283). -/
def Mem.chipRenew (m : Mem) : Mem :=
  { m.renew with stk := Vector.ofFn fun k => { m.renew.stk[k] with groups := (m.stk[k]).groups, retired := (m.stk[k]).retired } }

/-- The start-up enters a step: PHASE and its tick. -/
def State.phaseTo (s : State) (n : Nat) : State :=
  s.modCur fun c => { c with
    phase := BitVec.ofNat 4 n, phaseTick := c.phaseTick.set (Fin.ofNat 10 (n - 1)) s.tick }

/-- The registrar after a chip reset: provenance and firmware registers stay. -/
def Registrar.chipReset (r : Registrar) : Registrar :=
  { r with
    idReady := false, kemReady := false, mboxOvf := false, mbox := 0, tail := 0, head := 0
    extdig := Vector.replicate 4 0, ctxs := [], tenants := [], opened := none, cert := [] }

/-- A chip reset: every block outside the always-on domain, then step 5. The firmware performs it, so there is none while a
module reset has yet to start the firmware (R520, R523). -/
def State.chipResetOp (s : State) : State :=
  if !s.cur.fwrun then s
  else
  let s := s.genAdvance
  let s := { s with
    cores := Vector.ofFn Core.reset, mem := s.mem.chipRenew, host := { HostObj.reset with svcSeq := s.host.svcSeq }
    fab := Fabric.reset, tr := Transit.reset, vault := Vault.reset, reg := s.reg.chipReset }
  let s := s.modGlob fun g => { g with
    ready := false, released := false, gatedelay := 0x00FA, meshRun := true, meshIdle := 0, serviceRun := true, stackRun := true }
  (s.modCur fun c => { c with chipStart := true, deepIdle := false, idleReq := false, retiredSeen := [] }).phaseTo 5

/-- A module reset with its cause, into a power state: the almanac, the blown fuses and the pins' levels stay. -/
def State.moduleReset (s : State) (cause : BitVec 4) (p : PowerMode) : State :=
  let a := (if s.aon then s.genAdvance else s).alm
  { State.reset with
    alm := a, wire := s.wire, pending := s.pending
    mem := { s.mem.renew with dpaHole := false }
    reg := { Registrar.reset with kemGen := s.reg.kemGen, fusesvn := s.reg.fusesvn }
    cur := { Curator.reset with cause := cause, phase := if p = .running then 2 else 0 }
    sup := { Supply.reset with
      power := p, supRst := cause == 2#4, belowRel := s.sup.belowRel, resetN := s.sup.resetN, front := s.sup.front }
    glob := { Glob.reset with free := s.glob.free } }

def execCoreReset (m : RegMaster) (core : BitVec 7) (s : State) : Out :=
  guard (s.curOpen m && s.on) "no register path" (curatorOnly m (fun s => s.coreResetOp core) s)
def execChipReset (m : RegMaster) (s : State) : Out :=
  guard (s.curOpen m && s.on) "no register path" (curatorOnly m State.chipResetOp s)
def execModuleReset (m : RegMaster) (s : State) : Out :=
  guard (s.curOpen m) "no register path" (curatorOnly m (fun s => s.moduleReset 4 .running) s)

/-! ### Input and MOD_RESET_N (R526, R532, R542) -/

/-- MOD_RESET_N goes low: a running module is reset and held; one whose ramp runs is held at its end. -/
def execModResetNAssert (s : State) : Out :=
  guard s.sup.resetN "MOD_RESET_N is low"
    (let s := s.modSup fun u => { u with resetN := false }
     if s.aon then s.moduleReset 1 .held else s)

/-- MOD_RESET_N rises: a module reset with CAUSE 1, from step 2 at once or when the ramp ends. -/
def execModResetNRelease (s : State) : Out :=
  guard (!s.sup.resetN) "MOD_RESET_N is high"
    (let s := s.modSup fun u => { u with resetN := true }
     if s.sup.power = .held then s.moduleReset 1 .running
     else if s.sup.power = .ramping then s.moduleReset 1 .ramping
     else s)

/-- INPUT_VALID: the ramp begins; CAUSE is 2 while the latch of a supply reset holds. -/
def execInputValid (s : State) : Out :=
  if s.sup.power = .supplyReset then .next ((s.moduleReset 2 .ramping).modSup fun u => { u with belowRel := false })
  else guard (s.sup.power == .off) "the input is valid"
    ((s.moduleReset 0 .ramping).modSup fun u => { u with belowRel := false })

/-- INPUT_INVALID: every rail falls; after a supply reset the latch is lost. -/
def execInputInvalid (s : State) : Out :=
  guard (s.sup.power != .off) "the input is not valid" ((s.cutPower .off).modSup fun u => { u with valid := false })

/-- HOTSWAP_RAMP_DONE: the always-on domain and the boot ROM start at tick 0, unless MOD_RESET_N is low. -/
def execHotswapRampDone (s : State) : Out :=
  guard (s.sup.power == .ramping) "no ramp runs"
    (if s.sup.resetN then (s.modSup fun u => { u with power := .running }).phaseTo 2
     else s.modSup fun u => { u with power := .held })

/-- Nothing is commanded for a tick: while the always-on domain runs the tick counter advances, and the idle ticks of the
cores and of the mesh are counted (R31, R32, R36; DESIGN CHOICE, log entry 1). -/
def State.idleTick (s : State) : State :=
  if s.aon then
    { s with
      cores := Vector.ofFn s.coreTick
      sup := s.sup.tickClamp
      glob := { s.glob with
        tick := s.glob.tick + 1, meshIdle := if s.glob.meshRun && !s.meshBusy then s.glob.meshIdle + 1 else 0 } }
  else s

/-! ### Watchdog and restart (R502-R504) -/

def execWatchdogKick (m : RegMaster) (s : State) : Out :=
  guard (s.curOpen m) "no register path"
    (curatorOnly m (fun s => s.modCur fun c => { c with lastKick := s.tick }) s)

/-- Saturating count of restarts. -/
def satAdd8 (a : BitVec 8) : BitVec 8 := if a = BitVec.allOnes 8 then a else a + 1

/-- WATCHDOG_EXPIRE: the curator restarts; a second restart within WINDOW resets the module. -/
def execWatchdogExpire (memoryError : Bool) (s : State) : Out :=
  guard (s.aon && s.cur.fwrun && !s.cur.restarting &&
      (memoryError || decide ((s.tick - s.cur.lastKick).toNat ≥ s.cur.timeout.toNat))) "the watchdog does not expire"
    (let again := match s.cur.lastRestart with
       | some t => decide ((s.tick - t).toNat ≤ s.cur.window.toNat)
       | none => false
     if again then s.moduleReset 3 .running
     else s.modCur fun c => { c with
       wdogExp := true, restarts := satAdd8 c.restarts, lastRestart := some s.tick, restarting := true, fwrun := false
       sessions := Vector.replicate 4 .closed, fwParts := [] })

/-- CURATOR_RESTART_DONE: the latched presses are acted on in order. -/
def execCuratorRestartDone (s : State) : Out :=
  guard (s.aon && s.cur.restarting) "the curator does not restart"
    (let ms := s.cur.latched
     let s := s.modCur fun c => { c with restarting := false, fwrun := true, lastKick := s.tick, lastScan := s.tick, latched := [] }
     ms.foldl State.pressAct s)

/-! ### Start-up steps 3 and 4 (R494, R505, R516) -/

/-- Start-up stops: PHASE 0xF, MOD_FAULT_N low, and a record where the almanac can take one. -/
def State.startStop (s : State) : State :=
  let s := (s.modCur fun c => { c with phase := 0xF }).modSup fun u => { u with faultLow := true }
  if s.alm.usable then s.logAdd (Config.logClass 3) 0 0xFE0F00000000 s.curStatus else s

/-- The choice of R494: whether the staged image boots as a trial; none where the boot ROM stays. The boot state follows. -/
def State.bootChoice (s : State) : State × Option Bool :=
  let a := s.alm
  let f := s.reg.fusesvn
  if a.staged && !a.trial && bootable f a.otherImg then (s.bootWrite fun a => { a with trial := true }, some true)
  else
    let s := if a.trial then s.bootWrite fun a => { a with staged := false, trial := false } else s
    (s, if bootable f s.alm.activeImg then some false else none)

/-- The firmware registers as the boot ROM leaves them, PR0 and PR1 extended, the firmware running. -/
def State.startFirmware (s : State) (trial : Bool) : State :=
  let run := if trial then s.alm.otherImg else s.alm.activeImg
  let next := if trial then some s.alm.activeImg else if s.alm.staged then some s.alm.otherImg else none
  let s := (s.extend 0 Config.bootRomDigest).extend 1 (imgDigest run)
  let s := s.modReg fun r => { r with
    trial := trial, staged := s.alm.staged, asvn := imgSvn run, ssvn := (next.map imgSvn).getD 0, actdig := digestWords (imgDigest run)
    stagedig := (next.map fun i => digestWords (imgDigest i)).getD (Vector.replicate 4 0) }
  s.modCur fun c => { c with fwrun := true, lastKick := s.tick, lastScan := s.tick }

/-- The TIMING and SUPPLY records in force. -/
def State.applyTiming (s : State) : Setting → State
  | .timing scan wait timeout window => s.modCur fun c => { c with
      scanticks := scan, linkwait := wait, window := window, timeout := if timeout = 0 then c.timeout else timeout }
  | .supply wcount wwindow => s.modSup fun u => u.setCfg wcount wwindow.toNat
  | _ => s

/-- PR4: the digest of an operator's key. -/
def State.extendKey (s : State) : Setting → State
  | .operator key _ => s.extend 4 (sha256 (keyBytes key))
  | _ => s

/-- Step 4: fuse map into PR2, settings into PR3, operator keys into PR4, and what takes effect at once. Whether a fuse
word was corrected is a free value. -/
def State.loadSettings (s : State) : State :=
  let l := settingsInForce s.alm.settings
  let (w, s) := s.draw32
  let s := (s.modSup fun u => { u with fuseLoaded := true, fuseEcc := w.getLsbD 0, railsGood := true }).extend 2 Config.fuseMapDigest
  let s := l.foldl (fun s r => s.extend 3 r.digest) s
  let s := l.foldl (fun s r => s.extendKey r.body) s
  let s := l.foldl (fun s r => s.applyTiming r.body) s
  s.modCur fun c => { c with inForce := l, almBad := c.almBad || s.alm.settings.any fun r => !r.good }

/-- Steps 3 and 4 once an image is chosen; the stack controllers then train. -/
def State.bootOn (s : State) (trial : Bool) : State :=
  let s := (((s.startFirmware trial).phaseTo 4).loadSettings).phaseTo 5
  s.modGlob fun g => { g with meshRun := true, serviceRun := true, stackRun := true }

/-- BOOT_IMAGE_SELECT (R494, R505, R507, R519). -/
def execBootImageSelect (s : State) : Out :=
  guard (s.on && s.cur.phase == 2#4) "the boot ROM does not select an image"
    (let s := s.phaseTo 3
     if !s.alm.usable then (s.modCur fun c => { c with almBad := true }).startStop
     else match s.readAlmanac.bootChoice with
       | (s, some trial) => s.bootOn trial
       | (s, none) => s.startStop)

/-! ### Steps 5 to 7 (R39, R283, R294, R297) -/

/-- Reapply one repair record, without a rebuild. -/
def State.reapply (s : State) (r : RepairRec) : State :=
  let v := r.value
  let die := nfld v 57 4
  let ch := nfld v 53 4
  let bank := nfld v 48 5
  if r.kind = 3#8 then
    match coreOf (r.unit.setWidth 7) with
    | some c => (s.modCore c fun k => { k with mode := .retired }).modCur fun u => { u with retiredSeen := c.val :: u.retiredSeen }
    | none => s
  else if r.unit.toNat ≥ 16 then s
  else
    let k : Fin 16 := Fin.ofNat 16 r.unit.toNat
    s.modStk k fun st =>
      if r.kind = 2#8 then st.retireDie die false false
      else st.takeRow die ch bank (nfld v 34 14) (nfld v 31 3) (bankLeft k st (bankKey die ch bank)).length false

/-- A repair record whose CHECK fails is skipped and logged (R512). -/
def State.skipRepair (s : State) : State :=
  let s := s.modCur fun c => { c with almBad := true }
  s.logAdd (Config.logClass 4) 0 0xFE0F00000000 s.curStatus

/-- Step 6, first half: every repair record, extended into PR2 after a module reset only. -/
def State.reapplyAll (s : State) : State :=
  s.alm.repair.foldl (fun s r =>
    if !r.good then s.skipRepair
    else
      let s := s.reapply r
      if s.cur.chipStart then s else s.extend 2 (sha256 (wordBytes r.words))) s

/-- STACK_TRAINING_DONE: where every stack has trained, the boot key is drawn if the tests of R297 pass, and the fill starts. -/
def execStackTrainingDone (trained : BitVec 16) (katOk randomOk : Bool) (s : State) : Out :=
  guard (s.on && s.cur.phase == 5#4 && s.cur.fwrun) "no stack training runs"
    (let s := s.modMem fun m => { m with stk := Vector.ofFn fun k =>
       { m.stk[k] with trained := m.stk[k].trained || trained.getLsbD k.val } }
     if trained != BitVec.allOnes 16 then s.startStop
     else
     let s := (s.phaseTo 6).reapplyAll
     if katOk && randomOk then
       (s.modMem fun m => { m with
         katOk := true, keyValid := true, keyGen := m.keyGen + 1
         stk := m.stk.map fun (t : Stack) => { t with filling := true } }).phaseTo 7
     else (s.modMem fun m => { m with katOk := katOk, haltCause := 3 }).startStop)

/-! ### Steps 8 and 9 (R311, R333, R369, R470, R509) -/

/-- The curator writes words to memory through its windows. -/
def State.curWrite (s : State) (dpa : Nat) (ws : List Word) : State :=
  s.modMem fun m => m.writeBytes .curator 0 dpa (wordBytes ws) s.tick

/-- Exactly n words of a list. -/
def takeWords (n : Nat) (ws : List Word) : List Word := (ws ++ List.replicate n 0).take n

/-- CURWIN: the windows, which take no write after LOCK (R311, R315), and the mailbox. -/
def State.applyCurwin (s : State) : Setting → State
  | .curwin w0 w1 w2 w3 mbox =>
    let s := if s.mem.lock then s.hole
      else s.modMem fun m => { m with curwin := (#v[w0, w1, w2, w3]).map fun w => w &&& curwinMask }
    s.modReg fun r => { r with mbox := mbox &&& pageMask ||| 1 }
  | _ => s

/-- PR5: the 64 B image of the windows and the mailbox settings. -/
def State.extendPr5 (s : State) : State :=
  if s.cur.chipStart then s
  else s.extend 5 (sha256 (wordBytes (s.mem.curwin.toList ++ [s.reg.mbox, 0, 0, 0])))

/-- HOSTOBJ: bases, translations, context 0 LIVE, its first queue RUNNING with HEAD and TAIL 0, queue pair 0
bound to context 0 whatever its CONTEXT field gives (R369). -/
def State.applyHostobj (s : State) : Setting → State
  | .hostobj ctxbase qbase fbase ctx0 queue0 queueEntry leaves qpbase qp0 fence =>
    let s := s.modHost fun h => { h with
      ctxbase := ctxbase &&& pageMask, qbase := qbase &&& pageMask, fbase := fbase &&& pageMask, svcFence := fence }
    let s := s.modFab fun b => { b with qpbase := qpbase &&& pageMask }
    let s := leaves.foldl (fun s l => s.curWrite l.1 [l.2]) s
    let c := (takeWords 32 ctx0).set 6 1
    let q := ((takeWords 16 queueEntry).set 2 0).set 3 1
    let s := (s.curWrite (entryDpa ctxbase 32 0) c).setCtxE 0 c
    let s := (s.curWrite (entryDpa qbase 16 queue0.toNat) q).setQueueE queue0 q
    let w := takeWords 16 qp0
    (s.curWrite (entryDpa qpbase 16 0) (w.set 0 (w.headD 0 &&& 0x803fffffffffffff))).qpLoadOp 0
  | _ => s

/-- A register a PORTS record holds. -/
def portSetting (off : Nat) : Bool :=
  if off < 0x80000 && decide (off % 0x10000 < 0x8000) then
    off % 0x10000 == 0 || off % 0x10000 == 0x10 || off % 0x10000 == 0x18
  else decide (0x8000 ≤ off) && decide (off ≤ 0x8030)

def State.applyPorts (s : State) : Setting → State
  | .ports regs => regs.foldl (fun s r => if portSetting r.1 then (s.fabWrite .curator r.1 r.2).getD s else s) s
  | _ => s

/-- The bytes of the certificate in force. -/
def Curator.cert (c : Curator) : List Byte := ((c.inForce.find? fun r => r.typ == 1#16).map fun r => r.payload).getD []

/-- Step 8. -/
def State.setUp (s : State) : State :=
  let l := s.cur.inForce.map fun r => r.body
  let s := (l.foldl State.applyCurwin s).lockOp.extendPr5
  let s := (l.foldl State.applyHostobj s).modHost fun h => { h with lock := true }
  let s := (l.foldl State.applyPorts s).passCert s.cur.cert
  s.modReg fun r => { r with kemGen := r.kemGen + 1, kemReady := true }

/-- CORES_RELEASE. -/
def execCoresRelease (s : State) : Out :=
  guard (s.on && s.live && s.cur.phase == 7#4 && s.cur.fwrun && s.mem.stk.toList.all fun (t : Stack) => !t.filling)
    "the fill runs, or start-up is elsewhere"
    (let s := ((s.phaseTo 8).setUp).phaseTo 9
     (s.modCur fun c => { c with linkSince := s.tick }).modGlob fun g => { g with released := true })

/-! ### READY (R517, R522) -/

/-- A port with EN whose link is not up. -/
def Fabric.waiting (b : Fabric) (p : Fin 8) : Bool := (b.ports[p]).ctl.getLsbD 0 && !b.linked (2 * p.val)

/-- The links meet R517: all up, or LINKWAIT is over. -/
def State.linksMet (s : State) : Bool :=
  ((List.finRange 8).all fun p => !s.fab.waiting p) ||
    decide ((s.tick - s.cur.linkSince).toNat ≥ s.cur.linkwait.toNat * 25000)

/-- READY_SET: ports still down are logged. -/
def execReadySet (s : State) : Out :=
  guard (s.fabOn && s.cur.fwrun && s.glob.released && !s.glob.ready && s.linksMet) "READY is set, or the links are not up"
    (let s := (List.finRange 8).foldl (fun s p =>
       if s.fab.waiting p then
         s.logEnter ⟨3, p.val, 0xFE0300000008 + 0x10000 * p.val, (s.fab.portRead p 8).getD 0, true⟩
       else s) s
     let s := if s.cur.phase = 9#4 then s.phaseTo 10 else s
     s.modGlob fun g => { g with ready := true })

end Sys2Proof.Machine
end

