-- ==== Sys2Proof/Machine/Bus.lean ====
section
/-! DEFINITION. The register map: where a DPA lies, reads and writes by a master, REGISTER_WRITE, and the RDMA requests that
reach memory, doorbells and registers (R14-R18, R40, R41, R334, R342, R370). -/
namespace Sys2Proof.Machine

/-! ### The map (R40) -/

/-- What lies at a DPA, with the offset in its window. -/
inductive Window where
  | memory
  | glob (off : Nat)
  | core (c : Fin 96) (off : Nat)
  | stack (k : Fin 16) (off : Nat)
  | fabric (off : Nat)
  | transit (off : Nat)
  | registrar (off : Nat)
  | crypt (off : Nat)
  | vault (off : Nat)
  | supply (off : Nat)
  | doorbell (q : BitVec 13) (off : Nat)
  | curator (off : Nat)
  | unassigned
deriving DecidableEq, Repr

/-- Locate a DPA. -/
def locate (a : Nat) : Window :=
  let lo := a % 0x100000000
  if a < 0xC000000000 then .memory
  else match a / 0x100000000 with
    | 0xFE00 => .glob lo
    | 0xFE01 => if lo / 0x1000000 < 96 then .core (Fin.ofNat 96 (lo / 0x1000000)) (lo % 0x1000000) else .unassigned
    | 0xFE02 => if lo / 0x100000 < 16 then .stack (Fin.ofNat 16 (lo / 0x100000)) (lo % 0x100000) else .unassigned
    | 0xFE03 => .fabric lo
    | 0xFE04 => .transit lo
    | 0xFE05 => if lo < 0x10000 then .registrar lo else .crypt (lo - 0x10000)
    | 0xFE06 => .vault lo
    | 0xFE07 => .supply lo
    | 0xFE08 => if lo / 0x1000 < 8192 then .doorbell (BitVec.ofNat 13 (lo / 0x1000)) (lo % 0x1000) else .unassigned
    | 0xFE0F => .curator lo
    | _ => .unassigned

/-- The window lies in the always-on domain, which a trip leaves powered (R535). -/
def Window.alwaysOn : Window → Bool
  | .supply _ => true
  | .curator _ => true
  | _ => false

/-! ### Curator registers that a write reaches (R524) -/

/-- `cur.wdog`: TIMEOUT 0 is reserved; KICK restarts the count. -/
def State.wdogOp (s : State) (v : Word) : State :=
  s.modCur fun c => { c with
    timeout := if nfld v 32 32 = 0 then c.timeout else BitVec.ofNat 32 (nfld v 32 32)
    lastKick := if v.getLsbD 0 then s.tick else c.lastKick }

/-- `cur.reset`. -/
def State.resetOp (s : State) (kind : Nat) (core : BitVec 7) : State :=
  match kind with
  | 0 => s
  | 1 => if s.on then s.coreResetOp core else s
  | 2 => if s.on then s.chipResetOp else s
  | _ => s.moduleReset 4 .running

def State.curWriteReg (s : State) (off : Nat) (v : Word) : Option State :=
  match slotOf off 0x108 8 10 with
  | some _ => some s
  | none =>
    match off with
    | 0x000 => some (s.modCur fun c => { c with
        almBad := w1c c.almBad v 7, repairFull := w1c c.repairFull v 6, logWrap := w1c c.logWrap v 5
        wdogExp := w1c c.wdogExp v 4, curCe := w1c c.curCe v 3, sessRefused := w1c c.sessRefused v 2 })
    | 0x008 => some (s.wdogOp v)
    | 0x010 => some (s.modCur fun c => { c with window := v.setWidth 32 })
    | 0x018 => some (s.resetOp (nfld v 0 2) ((v >>> 8).setWidth 7))
    | 0x020 => some (if v.getLsbD 0 then s.idleOn else s.idleOff)
    | 0x028 => some s
    | _ => none

/-! ### Reads -/

/-- A doorbell page: `db.tail` reads zero, `db.head` shows HEAD. -/
def State.doorbellRead (s : State) (q : BitVec 13) (off : Nat) : Option Word :=
  match off with
  | 0 => some 0
  | 8 => some ((qHead (s.queueSeen q).2).setWidth 64)
  | _ => none

/-- The register at a DPA for a master; none for a hole. -/
def State.regAt (s : State) (m : RegMaster) (w : Window) : Option Word :=
  match w with
  | .memory => none
  | .glob off => s.globRead off
  | .core c off => s.coreRead c off
  | .stack k off => (s.mem.stk[k]).read off
  | .fabric off => s.fabRead off
  | .transit off => s.trRegRead off
  | .registrar off => s.regRead off
  | .crypt off => s.mem.cryptRead off
  | .vault off => s.vaultRead off
  | .supply off => s.supRead off
  | .doorbell q off => s.doorbellRead q off
  | .curator off => match m with
    | .curator => s.curRead off
    | .host => none
  | .unassigned => none

def State.misaligned (s : State) : State := s.modGlob fun g => { g with regAlign := true }

/-- What reading a register changes: a genlo captures its genhi, whose next read uses the capture up (R169); `db.head` of a
queue whose entry is not on chip reads that entry from memory. -/
def State.readEffect (s : State) : Window → State
  | .doorbell q off => if off = 8 then (s.queueSeen q).1 else s
  | .core c off => if off / 0x80000 = 6 then s.modCore c fun k => k.vxCapture (off - 0x300000) else s
  | _ => s

/-- A window answers: the chip is powered and not in deep idle, or it lies in the always-on domain (R33, R535). -/
def State.reachable (s : State) (w : Window) : Bool := (s.on && !s.cur.deepIdle) || w.alwaysOn

/-- A register read of some bytes at a DPA. -/
def State.busRead (s : State) (m : RegMaster) (a bytes : Nat) : State × Word :=
  let w := locate a
  if bytes ≠ 8 ∨ a % 8 ≠ 0 then (s.misaligned, 0)
  else match (if s.reachable w then s.regAt m w else none) with
    | some v => (s.readEffect w, v)
    | none => (s.hole, 0)

/-! ### Writes -/

/-- A write of the register at a place; none for a hole. -/
def State.writeAt (s : State) (m : RegMaster) (w : Window) (v : Word) : Option State :=
  match w with
  | .memory => none
  | .glob off => s.globWrite m off v
  | .core c off => ((s.core c).write off v).map fun k => s.modCore c fun _ => k
  | .stack k off => s.stackWrite m k off v
  | .fabric off => s.fabWrite m off v
  | .transit off => s.trRegWrite off v
  | .registrar off => s.regWrite m off v
  | .crypt off => s.cryptWrite m off v
  | .vault off => s.vaultWrite off v
  | .supply off => s.supWrite m off v
  | .doorbell q off => match off with
    | 0 => some (s.doorbell q (v.setWidth 32))
    | 8 => some s
    | _ => none
  | .curator off => match m with
    | .curator => s.curWriteReg off v
    | .host => none
  | .unassigned => none

/-- A register write of some bytes at a DPA. DESIGN CHOICE (log entry 45): an access wider than 8 bytes, and a misaligned one
to an unassigned DPA or by the host to the curator's window, sets REG_ALIGN alone. -/
def State.busWrite (s : State) (m : RegMaster) (a bytes : Nat) (v : Word) : State :=
  let w := locate a
  if bytes ≠ 8 ∨ a % 8 ≠ 0 then s.misaligned
  else match (if s.reachable w then s.writeAt m w v else none) with
    | some s => s
    | none => s.hole

/-- REGISTER_WRITE: memory is no register window. -/
def execRegisterWrite (m : RegMaster) (dpa : Addr) (bytes : Nat) (v : Word) (s : State) : Out :=
  guard (s.curOpen m && locate dpa.toNat != .memory) "no register path" (s.busWrite m dpa.toNat bytes v)

/-! ### RDMA requests (R334, R370) -/

/-- Frames of a message beyond the first are counted as received. -/
def State.rxMore (s : State) (f : RoceIn) (n : Nat) : State :=
  s.modPort (pathPort f.path) fun p => { p with rxfr := p.rxfr + BitVec.ofNat 64 (n - 1) }

/-- A queue pair's request to a device address of 8 bytes: whether its context and R_Key reach what lies there. -/
def State.rdmaReaches (s : State) (q : Qp) (w : Window) (rkey : BitVec 32) : State × Bool :=
  let s := s.loadCtx q.ctx
  match w with
  | .doorbell n _ =>
    let (s, e) := s.queueSeen n
    (s, (q.ctx == 0#9 || qCtx e == q.ctx) && rkey == ctxDbkey (s.ctxE q.ctx))
  | .memory => (s, false)
  | .unassigned => (s, false)
  | .curator _ => (s, false)
  | _ => (s, q.ctx == 0#9 && rkey == s.fab.regkey.setWidth 32)

/-- The device address of a request with bit 63, where the request may reach it. -/
def State.rdmaTarget (s : State) (q : Qp) (va : Word) (rkey : BitVec 32) (len : Nat) : State × Option Nat :=
  let a := nfld va 0 48
  if len ≠ 8 ∨ a % 8 ≠ 0 then (s, none)
  else
    let (s, ok) := s.rdmaReaches q (locate a) rkey
    (s, if ok then some a else none)

/-- Carry out an RDMA WRITE; none where it gets a remote access error. -/
def State.rdmaWrite (s : State) (q : Qp) (va : Word) (rkey : BitVec 32) (data : List Byte) : State × Bool :=
  if va.getLsbD 63 then
    match s.rdmaTarget q va rkey data.length with
    | (s, some a) => (s.busWrite .host a 8 (BitVec.ofNat 64 (leNat data)), true)
    | (s, none) => (s, false)
  else if rkey ≠ q.mkey then (s, false)
  else match s.blockWrite .fabric q.ctx (nfld va 0 48) data with
    | (s, .ok _) => (s, true)
    | (s, .error _) => (s, false)

/-- Carry out an RDMA READ. -/
def State.rdmaRead (s : State) (q : Qp) (va : Word) (rkey : BitVec 32) (len : Nat) : State × Option (List Byte) :=
  if va.getLsbD 63 then
    match s.rdmaTarget q va rkey len with
    | (s, some a) =>
      let (s, v) := s.busRead .host a 8
      (s, some (leBytes 8 v.toNat))
    | (s, none) => (s, none)
  else if rkey ≠ q.mkey then (s, none)
  else match s.blockRead .fabric q.ctx (nfld va 0 48) len with
    | (s, .ok bs) => (s, some bs)
    | (s, .error _) => (s, none)

/-- ROCE_WRITE_RX. -/
def execRoceWriteRx (f : RoceIn) (va : Word) (rkey : BitVec 32) (data : List Byte) (s : State) : Out :=
  let n := mtuPackets data.length
  roceRequest f s (fun q s =>
    match (s.rxMore f n).rdmaWrite q va rkey data with
    | (s, true) => s.qpAccept f n true
    | (s, false) => s.qpAnswer f.qp .nakAccess f.psn) (reAck f)

/-- The response to a READ: a packet for each 4,096 bytes, the PSNs counting on from the request's. -/
def State.rdmaReply (s : State) (f : RoceIn) (bs : List Byte) : State :=
  let n := mtuPackets bs.length
  (List.range n).foldl (fun s i =>
    s.qpReply f.qp (.readResp (f.psn + BitVec.ofNat 24 i) (i == 0) (i + 1 == n) (s.qp f.qp).msn
      ((bs.drop (4096 * i)).take 4096))) s

/-- Serve an RDMA READ; its response takes a PSN per packet. -/
def State.serveRead (s : State) (f : RoceIn) (q : Qp) (va : Word) (rkey : BitVec 32) (len : Nat) (fresh : Bool) : State :=
  match s.rdmaRead q va rkey len with
  | (s, some bs) => (if fresh then s.qpAccept f (mtuPackets len) false else s).rdmaReply f bs
  | (s, none) => s.qpAnswer f.qp .nakAccess f.psn

/-- ROCE_READ_REQ_RX: a request received before is served again. -/
def execRoceReadReqRx (f : RoceIn) (va : Word) (rkey : BitVec 32) (len : Nat) (s : State) : Out :=
  roceRequest f s (fun q s => s.serveRead f q va rkey len true) fun q s => s.serveRead f q va rkey len false

end Sys2Proof.Machine
end

