-- ==== Sys2Proof/Machine/Manage.lean ====
section
/-! DEFINITION. The logbook scan and the management protocol (R464, R491, R513-R515, R522, R523). -/
namespace Sys2Proof.Machine

/-! ### LOGBOOK_SCAN (R464) -/

/-- VALID of a fault record. -/
def validBit : Word := 0x8000000000000000

def State.scanStack (s : State) (k : Fin 16) : List Scanned :=
  let t := s.mem.stk[k]
  let b := 0xFE0200000000 + 0x100000 * k.val
  [scanOf 1 k.val (b + 0x30) validBit t.ceLog, scanOf (Config.logClass 0) k.val (b + 0x38) validBit t.ueLog,
    scanOf 8 k.val (b + 0x40) validBit t.ownLog, scanOf 2 k.val (b + 0x60) validBit (t.repairQ.head?.getD 0)]

/-- Fault records of a core count only with the code ACC_PARITY: 4 of a partition, 5 of the output pipeline. -/
def State.scanCore (s : State) (c : Fin 96) : List Scanned :=
  let k := s.core c
  let b := 0xFE0100000000 + 0x1000000 * c.val
  let parity (v : Word) (lo code : Nat) : Word := if nfld v lo 4 = code then validBit else 0
  scanOf (Config.logClass 1) c.val (b + 0x380010) 0xC000000000000000 ((s.nsRegs c 0x010).getD 0) ::
    scanOf 5 c.val (b + 0x280010) (parity k.opFault 52 5) k.opFault ::
    (List.finRange 4).map fun p => scanOf 5 c.val (b + 0x200040 + 8 * p.val) (parity k.pfault[p] 48 4) k.pfault[p]

def State.scanPort (s : State) (p : Fin 8) : Scanned :=
  scanOf 3 p.val (0xFE0300000008 + 0x10000 * p.val) 0x30 ((s.fab.portRead p 8).getD 0)

/-- The chip's blocks can be read: in deep idle they stand still (R33). -/
def State.scanned (s : State) : Bool := s.on && !s.cur.deepIdle

/-- The registers of the chip, then that of the supply monitor. -/
def State.scanAll (s : State) : List Scanned :=
  (if s.scanned then
    (List.finRange 16).flatMap s.scanStack ++ [scanOf 6 0 0xFE0500010008 validBit s.mem.haltRec] ++
      (List.finRange 96).flatMap s.scanCore ++ (List.finRange 8).map s.scanPort ++
      [scanOf 4 0 0xFE0300080818 3 ((s.nctRead 0x818).getD 0), scanOf (Config.logClass 2) 0 0xFE0300080820 validBit s.fab.err,
       scanOf 9 0 0xFE04000001C0 validBit s.tr.err, scanOf 9 0 0xFE0600000050 validBit s.vault.err]
   else []) ++ [scanOf 7 0 0xFE0700000000 0x78 s.supStatus]

/-- A group is DEGRADED, or has passed DEGRADED and is LOST. -/
def GroupMode.isDegraded : GroupMode → Bool
  | .degraded _ => true
  | .lost => true
  | _ => false

/-- The curator writes the heads of the repair queues, and cores that have become RETIRED, to the repair records (R283,
R457). -/
def State.recordRepairs (s : State) : State :=
  let s := (List.finRange 16).foldl State.recordHead s
  (List.finRange 96).foldl (fun s c =>
    if (s.core c).mode = .retired && !s.cur.retiredSeen.contains c.val then
      (s.modCur fun k => { k with retiredSeen := c.val :: k.retiredSeen }).addRepair c.val 3 0
    else s) s

/-- Groups that have become DEGRADED raise a service request with CAUSE 1 (R462). -/
def State.scanGroups (s : State) : State :=
  ((List.finRange 16).flatMap fun k => (List.finRange 16).map fun g => (k, g)).foldl (fun s (kg : Fin 16 × Fin 16) =>
    let n := 16 * kg.1.val + kg.2.val
    if ((s.mem.stk[kg.1]).groups[kg.2]).isDegraded && !s.cur.degradedSeen.contains n then
      (s.modCur fun c => { c with degradedSeen := n :: c.degradedSeen }).svcRaise 1 0
    else s) s

/-- The firmware runs. -/
def State.fw (s : State) : Bool := s.aon && s.cur.fwrun && !s.cur.restarting

/-- LOGBOOK_SCAN, every SCANTICKS ticks. Whether SECDED has corrected an error of the curator memory since the latest scan
is a free value (R501, R524 CUR_CE; log entry 3). -/
def execLogbookScan (s : State) : Out :=
  guard (s.fw && decide ((s.tick - s.cur.lastScan).toNat ≥ s.cur.scanticks.toNat)) "no scan is due"
    (let (w, s) := s.draw32
     let s := s.modCur fun c => { c with lastScan := s.tick, curCe := c.curCe || w.getLsbD 0 }
     let s := s.scanAll.foldl State.logScanned s
     if s.scanned then s.recordRepairs.scanGroups else s)

/-! ### Messages (R513)

What the rules leave open of a management message is a DESIGN CHOICE (log entry 43): bytes that are no whole frame, and sealed
messages that do not open, have no effect and take no counter. -/

/-- A message with its length in front, most significant byte first. -/
def mgmtFrame (m : List Byte) : List Byte := beBytes 4 m.length ++ m

/-- The message of a whole frame. -/
def unframe (bs : List Byte) : Option (List Byte) :=
  if 4 ≤ bs.length ∧ beNat (bs.take 4) = bs.length - 4 then some (bs.drop 4) else none

/-! ### Handshake (R513, R514) -/

/-- The curator listens at an address and TCP port: those of the MGMTNET record in force. -/
def State.listens (s : State) (v6 : Bool) (dst : BitVec 128) (port : BitVec 16) : Bool :=
  s.cur.inForce.any fun r => match r.body with
    | .mgmtnet v a _ _ p _ => v == v6 && a == dst && p == port
    | _ => false

/-- OPERATOR records in force. -/
def Curator.operators (c : Curator) : List (BitVec 16 × BitVec 256 × Word) :=
  c.inForce.filterMap fun r => match r.body with
    | .operator key rights => some (r.inst, key, rights)
    | _ => none

/-- A session is free: closed, or a handshake older than 2 s. -/
def State.sessFree (s : State) (x : MgmtMode) : Bool :=
  match x with
  | .closed => true
  | .hello _ _ _ _ since => decide ((s.tick - since).toNat > 50000000)
  | .established .. => false

def State.setSession (s : State) (i : Fin 4) (x : MgmtMode) : State :=
  s.modCur fun c => { c with sessions := c.sessions.set i x }

/-- A failed handshake counts for 60 s; the eighth makes the curator refuse connections. -/
def State.handshakeFailed (s : State) : State :=
  let l := (s.cur.failures ++ [s.tick]).filter fun t => decide ((s.tick - t).toNat ≤ 1500000000)
  if l.length ≥ 8 then s.modCur fun c => { c with failures := [], lockout := true, lockoutSince := s.tick, sessRefused := true }
  else s.modCur fun c => { c with failures := l }

/-- 256 fresh bits. -/
def State.draw256 (s : State) : BitVec 256 × State :=
  let (a, s) := s.draw64
  let (b, s) := s.draw64
  let (c, s) := s.draw64
  let (d, s) := s.draw64
  (a ++ b ++ c ++ d, s)

/-- A HELLO: 64 B, VERSION 0x01, bytes 1 to 31 zero. -/
def helloGood (m : List Byte) : Bool :=
  m.length == 64 && m.headD 0 == 1 && ((m.drop 1).take 31).all (· == 0)

/-- SERVERHELLO without its signature: nonce, encapsulation key, certificate. -/
def State.serverHello (s : State) (nonce d z : BitVec 256) : List Byte :=
  keyBytes nonce ++ (kemPair d z).ek ++ s.reg.cert

/-- A free session answers a HELLO: a fresh nonce and a fresh ML-KEM pair, and the identity key's signature over H1. -/
def State.answerHello (s : State) (i : Fin 4) (m : List Byte) : State :=
  let (nonce, s) := s.draw256
  let (d, s) := s.draw256
  let (z, s) := s.draw256
  let sh := s.serverHello nonce d z
  let h1 := sha256 (m ++ sh)
  (s.setSession i (.hello s.sup.button d z h1 s.tick)).emit (.mgmt i.val (mgmtFrame (sh ++ slhSig (keyBytes h1))))

/-- MGMT_HELLO: the registrar signs, so a halted or unpowered chip, or one without IDREADY, refuses. Nobody hears a HELLO to
another address or port. -/
def execMgmtHello (v6 : Bool) (dst : BitVec 128) (port : BitVec 16) (frame : List Byte) (s : State) : Out :=
  guard s.fw "the curator does not run"
    (if !s.listens v6 dst port then s
     else match (List.finRange 4).find? fun i => s.sessFree s.cur.sessions[i] with
       | none => s.emit .mgmtRefused
       | some i =>
         if s.cur.lockout || !s.on || !s.live || !s.reg.idReady then s.emit .mgmtRefused
         else match (unframe frame).filter helloGood with
           | none => s.handshakeFailed.emit .mgmtRefused
           | some m => s.answerHello i m)

/-- The rights a handshake ends with: those of the OPERATOR record in force; while none is, ENROLL alone where the button was
held at HELLO. -/
def State.admitted (s : State) (button : Bool) (key : BitVec 256) : Option (Word × BitVec 16 × Bool) :=
  match s.cur.operators with
  | [] => if button then some (0, 0, true) else none
  | ops => (ops.find? fun o => o.2.1 == key).map fun o => (o.2.2, o.1, false)

/-- H2 of a FINISH. -/
def finishHash (h1 : BitVec 256) (m : List Byte) : BitVec 256 := sha256 (keyBytes h1 ++ m.take 1120)

/-- The operator key of a FINISH, and its signature over H2. -/
def finishKey (m : List Byte) : BitVec 256 := keyOf (m.drop 1088)
def finishSigned (h1 : BitVec 256) (m : List Byte) : Bool :=
  m.length == 18208 && slhVerify slh128f (finishKey m) (keyBytes (finishHash h1 m)) (m.drop 1120)

/-- The keys of a session, by HKDF from the shared secret. -/
def finishLink (d z h1 : BitVec 256) (m : List Byte) : MgmtLink :=
  let ks := hkdf ((kemPair d z).decaps (m.take 1088)) (keyBytes (finishHash h1 m)) (1 :: zeros 7) 2
  { keyIn := keyOf (ks.getD 0 []), keyOut := keyOf (ks.getD 1 []), rx := 0, tx := 0 }

/-- The session a FINISH opens. -/
def State.finished (s : State) (button : Bool) (d z h1 : BitVec 256) (since : Word) (frame : List Byte) : Option MgmtMode :=
  (unframe frame).bind fun m =>
    if finishSigned h1 m && decide ((s.tick - since).toNat ≤ 50000000) then
      (s.admitted button (finishKey m)).map fun o => .established o.1 o.2.1 o.2.2 (finishLink d z h1 m)
    else none

/-- MGMT_FINISH. -/
def execMgmtFinish (session : Fin 4) (frame : List Byte) (s : State) : Out :=
  match s.cur.sessions[session] with
  | .hello button d z h1 since =>
    guard s.fw "the curator does not run"
      (match s.finished button d z h1 since frame with
       | some x => s.setSession session x
       | none => ((s.setSession session .closed).handshakeFailed).emit .mgmtRefused)
  | _ => .refused (.notEnabled "no handshake stands there")

/-- MGMT_LOCKOUT_END. -/
def execMgmtLockoutEnd (s : State) : Out :=
  guard (s.aon && s.cur.lockout && decide ((s.tick - s.cur.lockoutSince).toNat ≥ 1500000000)) "connections are not refused"
    (s.modCur fun c => { c with lockout := false })

/-! ### Requests (R515) -/

/-- STATUS values. -/
inductive MStatus where
  | ok | right | arg | state | flash
deriving DecidableEq, Repr

def MStatus.code : MStatus → Nat
  | .ok => 0
  | .right => 1
  | .arg => 2
  | .state => 3
  | .flash => 4

/-- A request as its message opens to: word 0, and the bytes after it. -/
structure MgmtReq where
  op : BitVec 8
  reqid : BitVec 24
  len : Nat
  args : List Byte
deriving DecidableEq, Repr

/-- Word i of the arguments. -/
def MgmtReq.word (q : MgmtReq) (i : Nat) : Word := (leWords 1 (q.args.drop (8 * i))).headD 0

/-- Word 0 of the request. -/
def MgmtReq.word0 (q : MgmtReq) : Word := (q.op.setWidth 64 <<< 56) ||| (q.reqid.setWidth 64 <<< 32) ||| at' q.len 0

/-- The plaintext of a request. -/
def readReq (p : List Byte) : MgmtReq :=
  let w := (leWords 1 p).headD 0
  { op := (w >>> 56).setWidth 8, reqid := (w >>> 32).setWidth 24, len := nfld w 0 32, args := p.drop 8 }

/-- The request a frame holds, sealed under a session's next counter. -/
def MgmtLink.unseal (k : MgmtLink) (frame : List Byte) : Option MgmtReq :=
  (unframe frame).bind fun m =>
    if m.length < 24 then none
    else (gcmOpen k.keyIn (ctrNonce k.rx) [] (m.take (m.length - 16)) (m.drop (m.length - 16))).map readReq

/-- The request of a session's frame, and the session with that counter taken. -/
def MgmtMode.request (x : MgmtMode) (frame : List Byte) : Option (MgmtReq × MgmtMode) :=
  match x with
  | .established rights inst only k =>
    (k.unseal frame).map fun q => (q, .established rights inst only { k with rx := k.rx + 1 })
  | _ => none

/-- What a request answers: its state, STATUS and data. -/
abbrev MAnswer := State × MStatus × List Byte

/-- The plaintext of a reply. -/
def replyBytes (q : MgmtReq) (st : MStatus) (data : List Byte) : List Byte :=
  wordBytes [(q.op.setWidth 64 <<< 56) ||| (q.reqid.setWidth 64 <<< 32) ||| at' st.code 24 ||| at' data.length 0] ++ data

/-- Reply to a request: sealed under the next counter from the curator. -/
def State.mgmtReply (s : State) (session : Fin 4) (q : MgmtReq) (st : MStatus) (data : List Byte) : State :=
  match s.cur.sessions[session] with
  | .established rights inst only k =>
    let ct := gcmCrypt k.keyOut (ctrNonce k.tx) (replyBytes q st data)
    (s.setSession session (.established rights inst only { k with tx := k.tx + 1 })).emit
      (.mgmt session.val (mgmtFrame (ct ++ gcmTag k.keyOut (ctrNonce k.tx) [] ct)))
  | _ => s

/-- The log record of a request that changes something: the operator's INSTANCE in UNIT, the register written or 0, and its
value or the request's word 0. -/
def State.mgmtLog (s : State) (inst : BitVec 16) (src : Nat) (v : Word) : State := s.logAdd 0x0A inst.toNat src v

/-- The operator of a session where it holds a right. -/
def State.holder (s : State) (session : Fin 4) (right : Nat) : Option (BitVec 16) :=
  match s.cur.sessions[session] with
  | .established rights inst false _ => if rights.getLsbD right then some inst else none
  | .established _ inst true _ => if right = 6 then some inst else none
  | _ => none

/-- An established session. -/
def MgmtMode.isOpen : MgmtMode → Bool
  | .established .. => true
  | _ => false

/-- A request of the row's OP; REGREAD's row also takes those of a reserved OP. -/
def MgmtReq.isOf (q : MgmtReq) (op : Nat) : Bool :=
  q.op.toNat == op || (op == 1 && (q.op == 0 || decide (q.op.toNat > 13)))

/-- Open a frame of an established session and carry out the request it holds. -/
def mgmtMessage (op : Nat) (session : Fin 4) (frame : List Byte) (s : State) (f : MgmtReq → State → State) : Out :=
  if !(s.fw && (s.cur.sessions[session]).isOpen) then .refused (.notEnabled "no session is open there")
  else match (s.cur.sessions[session]).request frame with
    | none => .next s
    | some (q, x) => guard (q.isOf op) "the message holds another request" (f q (s.setSession session x))

/-- A request: RIGHT without its right, ARG for a reserved OP or arguments that do not fit, otherwise its answer as the reply. -/
def State.answer (s : State) (session : Fin 4) (q : MgmtReq) (right : Nat) (fits : Nat → Bool)
    (body : BitVec 16 → State → MAnswer) : State :=
  if q.op = 0 ∨ q.op.toNat > 13 then s.mgmtReply session q .arg []
  else match s.holder session right with
    | none => s.mgmtReply session q .right []
    | some inst =>
      if q.args.length ≠ q.len ∨ !fits q.len then s.mgmtReply session q .arg []
      else
        let (s, st, data) := body inst s
        s.mgmtReply session q st data

def mgmtRequest (op right : Nat) (fits : Nat → Bool) (session : Fin 4) (frame : List Byte) (s : State)
    (body : MgmtReq → BitVec 16 → State → MAnswer) : Out :=
  mgmtMessage op session frame s fun q s => s.answer session q right fits (body q)

/-- A request that changes something is logged where it is carried out. -/
def logged (q : MgmtReq) (body : State → State × MStatus) (inst : BitVec 16) (s : State) : MAnswer :=
  match body s with
  | (s, .ok) => (s.mgmtLog inst 0 q.word0, .ok, [])
  | (s, e) => (s, e, [])

def mgmtChange (op right : Nat) (fits : Nat → Bool) (session : Fin 4) (frame : List Byte) (s : State)
    (body : MgmtReq → State → State × MStatus) : Out :=
  mgmtRequest op right fits session frame s fun q => logged q (body q)

/-! The rules name what each request is about; the layouts of the arguments are a DESIGN CHOICE (log entry 43), each field in an
8-byte little-endian word in the order R515 has them, fields of a register where the register has them. -/

/-- REGREAD: the DPA. -/
def execRegread (session : Fin 4) (frame : List Byte) (s : State) : Out :=
  mgmtRequest 0x01 0 (· == 8) session frame s fun q _ s =>
    let dpa := nfld (q.word 0) 0 48
    if locate dpa = .memory then (s, .arg, [])
    else
      let (s, v) := s.busRead .curator dpa 8
      (s, .ok, leBytes 8 v.toNat)

/-- REGWRITE: the DPA and the value; logged with them. -/
def execRegwrite (session : Fin 4) (frame : List Byte) (s : State) : Out :=
  mgmtRequest 0x02 1 (· == 16) session frame s fun q inst s =>
    let dpa := nfld (q.word 0) 0 48
    if locate dpa = .memory then (s, .arg, [])
    else ((s.mgmtLog inst dpa (q.word 1)).busWrite .curator dpa 8 (q.word 1), .ok, [])

/-- LOGREAD: the slot to start from and the number of records; the reply holds those slots, at most 2^24 - 1 bytes. -/
def execLogread (session : Fin 4) (frame : List Byte) (s : State) : Out :=
  mgmtRequest 0x03 0 (· == 16) session frame s fun q _ s =>
    let pos := (q.word 0).toNat
    let count := (q.word 1).toNat
    if 32 * count ≥ 2 ^ 24 ∨ pos + count > logSlots then (s, .arg, [])
    else (s, .ok, (List.range count).flatMap fun i => s.alm.logSlot (pos + i))

/-- SETREAD: TYPE and INSTANCE as in word 0 of a record; the reply is the record; ARG where none is in force. -/
def execSetread (session : Fin 4) (frame : List Byte) (s : State) : Out :=
  mgmtRequest 0x04 0 (· == 8) session frame s fun q _ s =>
    match s.cur.inForce.find? fun r => r.typ.toNat == nfld (q.word 0) 48 16 && r.inst.toNat == nfld (q.word 0) 32 16 with
    | some r => (s, .ok, r.bytes)
    | none => (s, .arg, [])

/-- Some OPERATOR record in force holds right 6. -/
def anyEnroller (l : List SettingRec) : Bool :=
  (settingsInForce l).any fun r => match r.body with
    | .operator _ rights => rights.getLsbD 6
    | _ => false

/-- Append a record to the almanac: ARG for one that is not good or of a reserved TYPE, STATE for a deletion that leaves no
operator with right 6, FLASH without room. -/
def State.appendSetting (s : State) (r : SettingRec) : State × MStatus :=
  if !r.good || !knownType r then (s, .arg)
  else if r.deleted && r.typ == 2#16 && !anyEnroller (s.alm.settings ++ [r]) then (s, .state)
  else match s.alm.append r with
    | some a => ({ s with alm := a }, .ok)
    | none => (s, .flash)

/-- The session may only ENROLL (R514). -/
def MgmtMode.enrollOnly : MgmtMode → Bool
  | .established _ _ only _ => only
  | _ => false

/-- SETWRITE: the record; an OPERATOR record needs ENROLL. -/
def execSetwrite (session : Fin 4) (frame : List Byte) (s : State) : Out :=
  mgmtMessage 0x05 session frame s fun q s =>
    let r := readSetting q.args
    s.answer session q (if r.typ = 2#16 then 6 else 1) (fun n => decide (64 ≤ n)) (logged q fun s =>
      if (s.cur.sessions[session]).enrollOnly then (s, .right) else s.appendSetting r)

/-- The image in parts so far with a further part, whose number tells its place; part 0 begins a new one. -/
def State.fwJoin (s : State) (i : Nat) (part : List Byte) : Option (List Byte) :=
  let img := (if i = 0 then [] else s.cur.fwParts) ++ part
  if part.length = 0 ∨ part.length > 65536 ∨ img.length ≠ 65536 * i + part.length ∨ img.length > 0x1000000 then none else some img

/-- Stage a whole image (R496): verified, written to the inactive partition, its digest shown, STAGED set; an image that is
replaced is first withdrawn. -/
def State.stageImage (s : State) (img : List Byte) : State × MStatus :=
  if img.length ≠ imgLen img ∨ !imgGood img ∨ (imgSvn img).toNat < s.reg.fusesvn then (s, .arg)
  else
    let s := if s.reg.staged then s.stageOp false else s
    let s := s.modAlm fun a => a.putOther img
    let s := s.modReg fun r => { r with stagedig := digestWords (imgDigest img) }
    (s.stageOp true, .ok)

/-- FWSTAGE: the number of the part, and up to 64 KiB of the image. The part that makes the image whole stages it. Not while a
trial runs (R523), nor in deep idle, where the registrar stands still (R33). -/
def execFwstage (session : Fin 4) (frame : List Byte) (s : State) : Out :=
  mgmtRequest 0x06 2 (fun n => decide (8 < n)) session frame s fun q inst s =>
    if s.reg.trial || s.cur.deepIdle then (s, .state, [])
    else match s.fwJoin (q.word 0).toNat (q.args.drop 8) with
      | none => (s, .arg, [])
      | some img =>
        if img.length < 64 ∨ img.length < imgLen img then (s.modCur fun c => { c with fwParts := img }, .ok, [])
        else logged q (fun s => (s.modCur fun c => { c with fwParts := [] }).stageImage img) inst s

/-- FWUNSTAGE. -/
def execFwunstage (session : Fin 4) (frame : List Byte) (s : State) : Out :=
  mgmtChange 0x07 2 (· == 0) session frame s fun _ s => if s.cur.deepIdle then (s, .state) else (s.stageOp false, .ok)

/-- What a RESET answers: KIND and CORE as in `cur.reset`. The reply and the record go before the reset; a core reset that
`cur.reset` would reject answers STATE. -/
def State.resetRequest (s : State) (session : Fin 4) (q : MgmtReq) : State :=
  match s.holder session 3 with
  | none => s.mgmtReply session q .right []
  | some inst =>
    let kind := nfld (q.word 0) 0 2
    let core : BitVec 7 := (q.word 0 >>> 8).setWidth 7
    let ready := match coreOf core with
      | some c => (s.core c).mode == .quarantined && s.live
      | none => false
    if kind = 0 ∨ q.args.length ≠ q.len ∨ q.len ≠ 8 then s.mgmtReply session q .arg []
    else if (kind = 1 ∧ !ready) ∨ (kind ≠ 3 ∧ !s.on) then (s.resetOp kind core).mgmtReply session q .state []
    else ((s.mgmtLog inst 0 q.word0).mgmtReply session q .ok []).resetOp kind core

/-- RESET. -/
def execReset (session : Fin 4) (frame : List Byte) (s : State) : Out :=
  mgmtMessage 0x08 session frame s fun q s => s.resetRequest session q

/-- SERVICE: bit 0 withdraws. The request's own record carries the operator; a withdrawal needs REQ 1 and SAFE 0. -/
def execService (session : Fin 4) (frame : List Byte) (s : State) : Out :=
  mgmtRequest 0x09 4 (· == 8) session frame s fun q inst s =>
    if (q.word 0).getLsbD 0 then
      if s.host.svcReq && !s.host.svcSafe then (s.svcWithdraw inst.toNat, .ok, []) else (s, .state, [])
    else (s.svcRaise 2 inst.toNat, .ok, [])

/-- POWER (R522): DEEPIDLE as in `cur.power`. -/
def execPower (session : Fin 4) (frame : List Byte) (s : State) : Out :=
  mgmtChange 0x0A 3 (· == 8) session frame s fun q s =>
    if (q.word 0).getLsbD 0 then (if s.cur.deepIdle || s.mayIdle then (s.idleOn, .ok) else (s.idleTest.1, .state))
    else if s.cur.deepIdle then (s.idleOff, .ok) else (s, .state)

/-- A debug access reaches its pages: translated, with the right, and none of them sealed or imported. -/
def State.debugPages (s : State) (c : BitVec 9) (write : Bool) (dva len : Nat) : State × Bool :=
  match s.blockPages c write dva len with
  | (s, .ok ps) => (s, ps.all fun p => !p.2.2.i)
  | (s, .error _) => (s, false)

/-- The access itself. -/
def State.debugAccess (s : State) (c : BitVec 9) (dva : Nat) (write : Option (List Byte)) (len : Nat) : MAnswer :=
  match write with
  | some bs => match s.blockWrite .debug c dva bs with
    | (s, .ok _) => (s, .ok, [])
    | (s, .error _) => (s, .arg, [])
  | none => match s.blockRead .debug c dva len with
    | (s, .ok bs) => (s, .ok, bs)
    | (s, .error _) => (s, .arg, [])

/-- What a DEBUGMEM answers. The access runs the mesh clock (R32). -/
def State.debugRequest (s : State) (q : MgmtReq) (inst : BitVec 16) : MAnswer :=
  let write := if (q.word 0).getLsbD 63 then some (q.args.drop 16) else none
  let ctx : BitVec 9 := (q.word 0 >>> 48).setWidth 9
  let dva := nfld (q.word 0) 0 48
  let n := (q.word 1).toNat
  if n > 4096 ∨ (write.map List.length).getD n ≠ n then (s, .arg, [])
  else if !s.fabOn then (s, .state, [])
  else if !(s.consent ctx).getLsbD 2 then (s, .right, [])
  else match s.meshDemand.debugPages ctx write.isSome dva n with
    | (s, false) => (s, .arg, [])
    | (s, true) => match s.debugAccess ctx dva write n with
      | (s, .ok, data) => (if write.isSome then s.mgmtLog inst 0 q.word0 else s, .ok, data)
      | r => r

/-- DEBUGMEM (R491): a word with W [63], CONTEXT [56:48] and DVA [47:0], one with the length, and the bytes to write; refused
without the context's DEBUG consent. -/
def execDebugmem (session : Fin 4) (frame : List Byte) (s : State) : Out :=
  mgmtRequest 0x0B 5 (fun n => decide (16 ≤ n)) session frame s fun q inst s => s.debugRequest q inst

/-- REPAIRCLEAR. -/
def execRepairclear (session : Fin 4) (frame : List Byte) (s : State) : Out :=
  mgmtChange 0x0C 4 (· == 0) session frame s fun _ s => (s.modAlm fun a => { a with repair := [] }, .ok)

/-- ENROLL: the record, of TYPE OPERATOR. -/
def execEnroll (session : Fin 4) (frame : List Byte) (s : State) : Out :=
  mgmtChange 0x0D 6 (fun n => decide (64 ≤ n)) session frame s fun q s =>
    let r := readSetting q.args
    if r.typ = 2#16 then s.appendSetting r else (s, .arg)

end Sys2Proof.Machine
end

