-- ==== Sys2Proof/Machine/Scalar.lean ====
section
/-! DEFINITION. Scalar, memory, control-flow and stream-state instructions: majors 0x00 to 0x04 (R205-R214). -/
namespace Sys2Proof.Machine

/-! ### Major 0x00 and 0x01 (R208) -/

/-- NOP: nothing but the pc. -/
def execNop (p : Site) (o : LayR) (s : State) : Out := issue p (.nop p o) s fun _ s => .done s
def execAdd (p : Site) (o : LayR) (s : State) : Out := issue p (.add p o) s (opR o fun x y => x + y)
def execAddi (p : Site) (o : LayI) (s : State) : Out := issue p (.addi p o) s (opI o fun x y => x + y)
def execSub (p : Site) (o : LayR) (s : State) : Out := issue p (.sub p o) s (opR o fun x y => x - y)
def execMul (p : Site) (o : LayR) (s : State) : Out := issue p (.mul p o) s (opR o fun x y => x * y)
def execMulhu (p : Site) (o : LayR) (s : State) : Out :=
  issue p (.mulhu p o) s (opR o fun x y => BitVec.ofNat 64 (x.toNat * y.toNat / 2 ^ 64))
def execAnd (p : Site) (o : LayR) (s : State) : Out := issue p (.and p o) s (opR o fun x y => x &&& y)
def execAndi (p : Site) (o : LayI) (s : State) : Out := issue p (.andi p o) s (opI o fun x y => x &&& y)
def execOr (p : Site) (o : LayR) (s : State) : Out := issue p (.or p o) s (opR o fun x y => x ||| y)
def execOri (p : Site) (o : LayI) (s : State) : Out := issue p (.ori p o) s (opI o fun x y => x ||| y)
def execXor (p : Site) (o : LayR) (s : State) : Out := issue p (.xor p o) s (opR o fun x y => x ^^^ y)
def execXori (p : Site) (o : LayI) (s : State) : Out := issue p (.xori p o) s (opI o fun x y => x ^^^ y)

/-- A shift amount: bits [5:0] (R208). -/
def amount (y : Word) : Nat := y.toNat % 64

def execShl (p : Site) (o : LayR) (s : State) : Out := issue p (.shl p o) s (opR o fun x y => x <<< amount y)
def execShli (p : Site) (o : LayI) (s : State) : Out := issue p (.shli p o) s (opI o fun x y => x <<< amount y)
def execShr (p : Site) (o : LayR) (s : State) : Out := issue p (.shr p o) s (opR o fun x y => x >>> amount y)
def execShri (p : Site) (o : LayI) (s : State) : Out := issue p (.shri p o) s (opI o fun x y => x >>> amount y)
def execSra (p : Site) (o : LayR) (s : State) : Out := issue p (.sra p o) s (opR o fun x y => x.sshiftRight (amount y))
def execSrai (p : Site) (o : LayI) (s : State) : Out :=
  issue p (.srai p o) s (opI o fun x y => x.sshiftRight (amount y))
def execSlt (p : Site) (o : LayR) (s : State) : Out := issue p (.slt p o) s (opR o fun x y => if x.slt y then 1 else 0)
def execSlti (p : Site) (o : LayI) (s : State) : Out :=
  issue p (.slti p o) s (opI o fun x y => if x.slt y then 1 else 0)
def execSltu (p : Site) (o : LayR) (s : State) : Out := issue p (.sltu p o) s (opR o fun x y => if x < y then 1 else 0)
def execSltiu (p : Site) (o : LayI) (s : State) : Out :=
  issue p (.sltiu p o) s (opI o fun x y => if x < y then 1 else 0)
def execMin (p : Site) (o : LayR) (s : State) : Out := issue p (.min p o) s (opR o fun x y => if x.slt y then x else y)
def execMax (p : Site) (o : LayR) (s : State) : Out := issue p (.max p o) s (opR o fun x y => if x.slt y then y else x)
def execDivu (p : Site) (o : LayR) (s : State) : Out :=
  issue p (.divu p o) s (opR o fun x y => if y = 0 then BitVec.allOnes 64 else x / y)
def execRemu (p : Site) (o : LayR) (s : State) : Out :=
  issue p (.remu p o) s (opR o fun x y => if y = 0 then x else x % y)
def execMovi (p : Site) (o : LayI) (s : State) : Out := issue p (.movi p o) s (opI o fun _ y => y)
/-- MOVHI: (IMM << 32) or ra[31:0]. -/
def execMovhi (p : Site) (o : LayI) (s : State) : Out :=
  issue p (.movhi p o) s (opI o fun x y => (y <<< 32) ||| (x &&& 0xFFFFFFFF))

/-! ### Major 0x02 (R209) -/

def execLd64 (p : Site) (o : LayM) (u : Upset) (s : State) : Out := issue p (.ld64 p o u) s (opLoad o 8 u)
def execLd32 (p : Site) (o : LayM) (u : Upset) (s : State) : Out := issue p (.ld32 p o u) s (opLoad o 4 u)
def execSt64 (p : Site) (o : LayM) (s : State) : Out := issue p (.st64 p o) s (opStore o 8)
def execSt32 (p : Site) (o : LayM) (s : State) : Out := issue p (.st32 p o) s (opStore o 4)

/-! ### Major 0x03 (R210) -/

def execBeq (p : Site) (o : LayB) (s : State) : Out := issue p (.beq p o) s (opB o fun x y => x == y)
def execBne (p : Site) (o : LayB) (s : State) : Out := issue p (.bne p o) s (opB o fun x y => x != y)
def execBlt (p : Site) (o : LayB) (s : State) : Out := issue p (.blt p o) s (opB o fun x y => x.slt y)
def execBge (p : Site) (o : LayB) (s : State) : Out := issue p (.bge p o) s (opB o fun x y => !x.slt y)
def execBltu (p : Site) (o : LayB) (s : State) : Out := issue p (.bltu p o) s (opB o fun x y => x.ult y)
def execBgeu (p : Site) (o : LayB) (s : State) : Out := issue p (.bgeu p o) s (opB o fun x y => !x.ult y)

/-- The link a JAL or JR writes: pc + 8. -/
def linkOf (a : At) : Word := (a.pc + 8).setWidth 64

/-- JAL: rd stands in bits [51:47], where a branch has ra. -/
def execJal (p : Site) (o : LayB) (s : State) : Out :=
  issue p (.jal p o) s fun a s => .jump (s.wx a o.ra (linkOf a)) (branchTarget a o.off)

/-- JR: a target with bits [2:0] set traps PC_ALIGN with rd and pc unchanged. -/
def execJr (p : Site) (o : LayR) (s : State) : Out :=
  issue p (.jr p o) s fun a s =>
    let t := s.rx a o.ra
    if t.toNat % 8 ≠ 0 then .trap s .pcAlign 0 0 else .jump (s.wx a o.rd (linkOf a)) (addr48 t)

/-! ### Major 0x04 (R211-R214) -/

/-- VSETVL: a length outside 1-64 is ILLEGAL with DETAIL 0 (R138). -/
def execVsetvl (p : Site) (o : LayI) (s : State) : Out :=
  issue p (.vsetvl p o) s fun a s =>
    let v := s.rx a o.ra + sext64 o.imm
    if 1 ≤ v.toNat ∧ v.toNat ≤ 64 then .done (s.modStream a.c a.t fun st => { st with vl := v.setWidth 7 })
    else .trap s .illegal 0 0

/-- Plates a stream has given that have not joined their target (R180). -/
def Stream.inTransfer (st : Stream) : BitVec 16 := st.giving.foldl (fun m x => m ||| x.mask) 0

/-- PGIVE: T must differ from the issuer, also for an empty mask (DETAIL 50), and every plate of the mask must be the
issuer's (DETAIL 34, the position of MASK) (R180, R206). -/
def execPgive (p : Site) (o : PgiveOps) (s : State) : Out :=
  issue p (.pgive p o) s fun a s =>
    let st := s.stream a.c a.t
    if o.t.toFin = a.t then .trap s .illegal 50 0
    else if o.mask &&& ~~~st.plates ≠ 0 then .trap s .illegal 34 0
    else .done (s.modStream a.c a.t fun st => { st with
      plates := st.plates &&& ~~~o.mask
      giving := if o.mask = 0 then st.giving else st.giving ++ [⟨o.mask, o.t.toFin, a.seqNo⟩] })

/-- The transfers of stream g whose earlier vector instructions are complete join their targets (R180). -/
def deliver (k : Core) (g : Fin 4) : Core :=
  let xs := (k.streams[g]).giving.filter fun x => !k.vecPending g x.seqNo
  let k := k.modStream g fun st => { st with giving := st.giving.filter fun x => k.vecPending g x.seqNo }
  xs.foldl (fun k x => k.modStream x.target fun st => { st with plates := st.plates ||| x.mask }) k

/-- Plates in transfer join once every earlier vector instruction of the issuer is complete (R180). -/
def execPlateTransferDone (p : Site) (s : State) : Out :=
  let st := s.stream p.core p.stream
  guard (s.live && st.giving.any fun x => !(s.core p.core).vecPending p.stream x.seqNo) "no transfer to deliver"
    (s.modCore p.core fun k => deliver k p.stream)

/-- SRD selectors (R212). -/
def srdValue (s : State) (a : At) (sel : Nat) : Word :=
  let k := s.core a.c
  let st := s.stream a.c a.t
  match sel with
  | 0 => BitVec.ofNat 64 a.c.val
  | 1 => BitVec.ofNat 64 a.t.val
  | 2 => (s.ctxOf a.c).setWidth 64
  | 3 => s.tick
  | 4 => st.vl.setWidth 64
  | 5 => st.plates.setWidth 64
  | 6 => k.present.setWidth 64
  | 7 => k.mxMode.setWidth 64
  | _ => (ctxTrseq (s.ctxE (s.ctxOf a.c))).setWidth 64

def execSrd (p : Site) (o : LayI) (s : State) : Out :=
  issue p (.srd p o) s fun a s =>
    let s := s.loadCtx (s.ctxOf a.c)
    .done (s.wx a o.rd (srdValue s a o.imm.toNat))

/-- SFLAG: the five flags, cleared where IMM[0] is 1 (R213). -/
def execSflag (p : Site) (o : LayI) (s : State) : Out :=
  issue p (.sflag p o) s fun a s =>
    let v := (s.core a.c).sflags a.t
    let s := if o.imm.getLsbD 0 then s.modCore a.c fun k => k.clearSflags a.t else s
    .done (s.wx a o.rd v)

/-- CRRD: a word of the context register block, which stands in words 16-31 of the context entry (R214, R338). -/
def execCrrd (p : Site) (o : LayI) (s : State) : Out :=
  issue p (.crrd p o) s fun a s =>
    let c := s.ctxOf a.c
    let s := s.loadCtx c
    .done (s.wx a o.rd (ew (s.ctxE c) (16 + o.imm.toNat)))

def execCrwr (p : Site) (o : LayI) (s : State) : Out :=
  issue p (.crwr p o) s fun a s =>
    let c := s.ctxOf a.c
    let s := s.loadCtx c
    .done (s.setCtxE c (setEw (s.ctxE c) (16 + o.imm.toNat) (s.rx a o.ra)))

/-! ### A word that is no instruction (R206) -/

/-- ILLEGAL: the words trap at issue with DETAIL of R206. Legal words are the command of their own instruction. -/
def execIllegal (p : Site) (w0 w1 : Word) (s : State) : Out :=
  match illegalDetail w0 w1 with
  | some d => guard (s.mayIssue p) "the stream does not issue"
      (if !s.fetched p w0 then s.stallAt p .fetch
       else finish p (s.here p w0) (.trap s .illegal (BitVec.ofNat 64 d) 0))
  | none => .refused (.notEnabled "the words spell a legal instruction")

end Sys2Proof.Machine
end

