-- ==== Sys2Proof/Machine/Teardown.lean ====
section
/-! DEFINITION. CONTEXT_DESTROY (R356-R358): the steps that start it, and those once everything of the context is
quiescent. -/
namespace Sys2Proof.Machine

/-- STATE of a context entry is set. -/
def State.setCtxState (s : State) (c : BitVec 9) (x : Nat) : State :=
  let s := s.loadCtx c
  s.setCtxE c (setEw (s.ctxE c) 6 (putFld (ew (s.ctxE c) 6) 0 2 x))

/-- The cores bound to a context. -/
def State.boundTo (s : State) (c : BitVec 9) : List (Fin 96) := (List.finRange 96).filter fun n => (s.core n).ctx == some c

/-- A queue of the context stops empty, its command discarded unsignalled. -/
def State.stopQueue (s : State) (q : BitVec 13) : State :=
  let s := match s.takenOf q with
    | some x => (s.dropTaken q).unrefAll x.words
    | none => s
  s.modQueue q fun e => setQState (setQHead e (qTail e)) 0

/-- Step 1: every queue of the context. -/
def State.stopQueues (s : State) (c : BitVec 9) : State :=
  (s.host.qvalid.map fun e => BitVec.ofNat 13 e.1).foldl (fun s q =>
    if qCtx (s.queueV q) = c then s.stopQueue q else s) s

/-- Step 2 on one core: its streams are aborted without record or signal, and channel 4 stops. -/
def State.abortCore (s : State) (n : Fin 96) : State :=
  let s := (List.finRange 4).foldl (fun s t => s.abortStream n t true) s
  s.modCore n fun k => { k with dmaQ := k.dmaQ.filter fun d => d.channel.val ≠ 4 }

/-- Step 2. The vault stops a drain before the fabric drops its requests, whose bytes stay counted (R450). -/
def State.cancelWork (s : State) (c : BitVec 9) : State :=
  ((((s.boundTo c).foldl State.abortCore s).vaultCancel c).fabricCancel c).transitCancel c

/-- CONTEXT_DESTROY: only a LIVE context other than 0 (R344 DESTROY). -/
def execContextDestroy (q : BitVec 13) (s : State) : Out :=
  runCmd q 0x14 [.fresh] s fun x s =>
    let c := cmdContext x.words
    let s := s.loadCtx c
    if c = 0 ∨ ctxState (s.ctxE c) ≠ 1 then s.refuseCmd q 0x0B
    else ((((s.setCtxState c 2).stopQueues c).cancelWork c).stageCmd q x .running)

/-- Step 3: the core works no more for its context. -/
def Core.quiet (k : Core) : Bool := k.allIdle && k.quadIdle && k.vecIdle && k.dmaQ.isEmpty && k.wq.isEmpty

/-- A message of the context is open: its operation runs, and completes first (R499). -/
def Registrar.serves (r : Registrar) (c : BitVec 9) : Bool :=
  (r.opened.bind fun o => Tbl.find? r.tenants o.1).any fun t => t.ctx == c

/-- Every core of the context is quiet, and no block has a request of it. -/
def State.quiet (s : State) (c : BitVec 9) : Bool :=
  ((s.boundTo c).all fun n => (s.core n).quiet) && !s.reg.serves c && s.fab.reqs.all fun r => r.ctx != c

/-- The fences of a context that are LIVE. -/
def State.fencesOf (s : State) (c : BitVec 9) : State × List (BitVec 14) :=
  (s.host.flive.map fun e => BitVec.ofNat 14 e.1).foldl (fun a f =>
    let s := a.1.loadFence f
    (s, if fLive (s.fenceE f) && fOwner (s.fenceE f) == c then a.2 ++ [f] else a.2)) (s, [])

/-- Step 4: the terminal value with the error flag. -/
def State.endFence (s : State) (f : BitVec 14) : State :=
  let s := s.loadFence f
  s.signalFence ⟨f, fValue (s.fenceE f) + 0x8000000000000000#64, true, .block⟩

/-- Step 5: the core unbinds; the next context there goes through R171, whatever its number. -/
def State.unbind (s : State) (n : Fin 96) : State :=
  (s.acceptAll n).modCore n fun k => { k.clearCaches with ctx := none, lastCtx := none }

/-- Steps 6 and 7 for one fence: under ABORT it leaves LIVE once its mirror writes are sent, under REFCOUNT when no reference is left (R357). -/
def State.releaseFence (s : State) (refcount : Bool) (f : BitVec 14) : State :=
  let s := (s.loadFence f).modHost fun h => { h with leaving := h.leaving.filter (fun x => x.1 != f) ++ [(f, !refcount)] }
  if refcount then s.dropDead f else if s.host.mirrors.contains f then s else s.endLive f

/-- DESTROY_QUIESCED. -/
def execDestroyQuiesced (q : BitVec 13) (s : State) : Out :=
  match s.takenOf q with
  | some x =>
    let c := cmdContext x.words
    guard (s.processing && cmdKind x.words == 0x14 && x.stage == .running && s.quiet c) "no context quiesces here"
      (let (s, fs) := s.fencesOf c
       let s := fs.foldl State.endFence s
       let s := (s.boundTo c).foldl State.unbind s
       let s := ((s.setCtxState c 3).regCancel c).putConsent c
       let s := fs.foldl (fun s f => s.releaseFence (ctxTeardownRef (s.ctxE c)) f) s
       s.completeCmd q true)
  | none => .refused (.notEnabled "no context quiesces here")

end Sys2Proof.Machine
end

