-- ==== Sys2Proof/Machine/VecQueue.lean ====
section
/-! DEFINITION. The input queue of the vector engine, and the events after which it goes on: the end of a VTAKE's copy and a
line fill (R131, R177, R237, R260). -/
namespace Sys2Proof.Machine

/-- Where a queued instruction was issued. -/
def VecWait.at' (x : VecWait) (c : Fin 96) : At := ⟨c, x.stream, x.pc, x.seqNo, x.insn⟩

/-- The engine reaches a queued instruction; VTAKE starts its copy of the entry it claimed. -/
def vecRun (x : VecWait) : At → State → Issued :=
  onPlates (vecPlates x.instr) (match x.instr with
    | .vtake _ o => vtakeStart o.pd (x.entry.getD 0)
    | i => vecBody i)

/-- The state as the instruction saw it at issue: its vector length, its stream's plates and registers, and no plate in
transfer, since it waited for none. -/
def State.asIssued (s : State) (c : Fin 96) (x : VecWait) : State :=
  (s.modCore c fun k => { k with streams := k.streams.map fun t => { t with giving := [] } }).modStream c x.stream
    fun t => { t with vl := x.vl, plates := x.plates, regs := x.regs }

/-- The streams as they stand now, with what the instruction did to its own: VGET's register, and VTAKE's copy. -/
def State.sinceIssue (s : State) (c : Fin 96) (x : VecWait) (now : State) : State :=
  (s.modCore c fun k => { k with streams := (now.core c).streams }).modStream c x.stream fun t =>
    { t with
      regs := match x.instr with
        | .vget _ o => (t.setReg o.r (s.stream c x.stream).regs[o.r.toFin]).regs
        | _ => t.regs
      vtake := (s.stream c x.stream).vtake }

/-- The engine takes the instruction at the head of its queue. A line it has to wait for leaves it there: true says so
(R260). -/
def State.vecTake (s : State) (c : Fin 96) (x : VecWait) : State × Bool :=
  let a := x.at' c
  match (vecRun x a (s.asIssued c x)).counted x.instr a x.vl.toNat with
  | .done t => (t.sinceIssue c x s, false)
  | .fault t code detail addr =>
    ((t.sinceIssue c x s).trapEngine c x.stream code x.seqNo x.pc x.insn detail addr, false)
  | .stall t _ => (t.sinceIssue c x s, true)
  | _ => (s, false)

/-- The engine goes through its queue in order until a VTAKE copies or an instruction waits for a line. -/
def State.vecDrain (c : Fin 96) : List VecWait → State → State
  | [], s => s.modCore c fun k => { k with vecQ := [] }
  | x :: rest, s =>
    if (s.core c).vtakeRuns then s.modCore c fun k => { k with vecQ := x :: rest }
    else match s.vecTake c x with
      | (t, false) => t.vecDrain c rest
      | (t, true) => t.modCore c fun k => { k with vecQ := x :: rest }

/-- The vector engine goes on. -/
def State.vecResume (s : State) (c : Fin 96) : State :=
  if (s.core c).vecQ.isEmpty then s else (State.vecDrain c (s.core c).vecQ s).settleHeld c

/-- VTAKE_COMPLETE: the plate holds the entry's rows and the entry is free. -/
def execVtakeComplete (p : Site) (s : State) : Out :=
  match (s.stream p.core p.stream).vtake with
  | none => .refused (.notEnabled "no VTAKE copies")
  | some v =>
    match (s.core p.core).handoff.find? fun h => h.id == v.entry with
    | none => .refused (.notEnabled "no VTAKE copies")
    | some h =>
      guard (s.completes p.core) "the core does not run"
        ((((s.modCore p.core fun k =>
          { (k.setPlate v.pd fun r => Tbl.get (Vector.replicate 64 0) h.rows r) with
            handoff := k.handoff.filter fun x => x.id != h.id }).modStream p.core p.stream
              fun st => { st with vtake := none }).settleHeld p.core).vecResume p.core)

/-- LINE_FILL: what a prefetch asked for arrives. -/
def execLineFill (c : Fin 96) (line : BitVec 40) (u : Upset) (s : State) : Out :=
  match (s.core c).fills.find? fun x => x.line == line with
  | none => .refused (.notEnabled "no prefetch of the line is in flight")
  | some x =>
    guard (s.runs c) "the core does not run"
      (((s.modCore c fun k => { k with fills := k.fills.erase x }.refill).installPrefetch c x (u.at 0)).vecResume c)

end Sys2Proof.Machine
end

