-- ==== Sys2Proof/Machine/Dispatch.lean ====
section
/-! DEFINITION. One arm per command: each a direct call of that command's meaning. -/
namespace Sys2Proof.Machine

/-- The effect of a command on everything but the queue. -/
def exec (i : Instr) (s : State) : Host.Outcome State Fault Refusal :=
  match i with
  | .registerWrite m dpa bytes v => Sys2Proof.Machine.execRegisterWrite m dpa bytes v s
  | .quarantine m core => Sys2Proof.Machine.execQuarantine m core s
  | .quarantineDrainDone c => Sys2Proof.Machine.execQuarantineDrainDone c s
  | .release m core => Sys2Proof.Machine.execRelease m core s
  | .retire m core => Sys2Proof.Machine.execRetire m core s
  | .coreWake c => Sys2Proof.Machine.execCoreWake c s
  | .coreGate c => Sys2Proof.Machine.execCoreGate c s
  | .meshClockStop => Sys2Proof.Machine.execMeshClockStop s
  | .meshClockStart => Sys2Proof.Machine.execMeshClockStart s
  | .deepIdleEnter => Sys2Proof.Machine.execDeepIdleEnter s
  | .deepIdleLeave => Sys2Proof.Machine.execDeepIdleLeave s
  | .contextSwitch c => Sys2Proof.Machine.execContextSwitch c s
  | .launchStart site => Sys2Proof.Machine.execLaunchStart site s
  | .programComplete site => Sys2Proof.Machine.execProgramComplete site s
  | .icacheFill site ext u => Sys2Proof.Machine.execIcacheFill site ext u s
  | .illegal site w0 w1 => Sys2Proof.Machine.execIllegal site w0 w1 s
  | .nop site o => Sys2Proof.Machine.execNop site o s
  | .add site o => Sys2Proof.Machine.execAdd site o s
  | .addi site o => Sys2Proof.Machine.execAddi site o s
  | .sub site o => Sys2Proof.Machine.execSub site o s
  | .mul site o => Sys2Proof.Machine.execMul site o s
  | .mulhu site o => Sys2Proof.Machine.execMulhu site o s
  | .and site o => Sys2Proof.Machine.execAnd site o s
  | .andi site o => Sys2Proof.Machine.execAndi site o s
  | .or site o => Sys2Proof.Machine.execOr site o s
  | .ori site o => Sys2Proof.Machine.execOri site o s
  | .xor site o => Sys2Proof.Machine.execXor site o s
  | .xori site o => Sys2Proof.Machine.execXori site o s
  | .shl site o => Sys2Proof.Machine.execShl site o s
  | .shli site o => Sys2Proof.Machine.execShli site o s
  | .shr site o => Sys2Proof.Machine.execShr site o s
  | .shri site o => Sys2Proof.Machine.execShri site o s
  | .sra site o => Sys2Proof.Machine.execSra site o s
  | .srai site o => Sys2Proof.Machine.execSrai site o s
  | .slt site o => Sys2Proof.Machine.execSlt site o s
  | .slti site o => Sys2Proof.Machine.execSlti site o s
  | .sltu site o => Sys2Proof.Machine.execSltu site o s
  | .sltiu site o => Sys2Proof.Machine.execSltiu site o s
  | .min site o => Sys2Proof.Machine.execMin site o s
  | .max site o => Sys2Proof.Machine.execMax site o s
  | .divu site o => Sys2Proof.Machine.execDivu site o s
  | .remu site o => Sys2Proof.Machine.execRemu site o s
  | .movi site o => Sys2Proof.Machine.execMovi site o s
  | .movhi site o => Sys2Proof.Machine.execMovhi site o s
  | .ld64 site o u => Sys2Proof.Machine.execLd64 site o u s
  | .ld32 site o u => Sys2Proof.Machine.execLd32 site o u s
  | .st64 site o => Sys2Proof.Machine.execSt64 site o s
  | .st32 site o => Sys2Proof.Machine.execSt32 site o s
  | .beq site o => Sys2Proof.Machine.execBeq site o s
  | .bne site o => Sys2Proof.Machine.execBne site o s
  | .blt site o => Sys2Proof.Machine.execBlt site o s
  | .bge site o => Sys2Proof.Machine.execBge site o s
  | .bltu site o => Sys2Proof.Machine.execBltu site o s
  | .bgeu site o => Sys2Proof.Machine.execBgeu site o s
  | .jal site o => Sys2Proof.Machine.execJal site o s
  | .jr site o => Sys2Proof.Machine.execJr site o s
  | .vsetvl site o => Sys2Proof.Machine.execVsetvl site o s
  | .pgive site o => Sys2Proof.Machine.execPgive site o s
  | .plateTransferDone site => Sys2Proof.Machine.execPlateTransferDone site s
  | .srd site o => Sys2Proof.Machine.execSrd site o s
  | .sflag site o => Sys2Proof.Machine.execSflag site o s
  | .crrd site o => Sys2Proof.Machine.execCrrd site o s
  | .crwr site o => Sys2Proof.Machine.execCrwr site o s
  | .dcopy site o => Sys2Proof.Machine.execDcopy site o s
  | .dcopy2d site o dstride sstride => Sys2Proof.Machine.execDcopy2d site o dstride sstride s
  | .dgather site o => Sys2Proof.Machine.execDgather site o s
  | .dscatter site o => Sys2Proof.Machine.execDscatter site o s
  | .dmaComplete c ch => Sys2Proof.Machine.execDmaComplete c ch s
  | .nspf site o => Sys2Proof.Machine.execNspf site o s
  | .nswb site o => Sys2Proof.Machine.execNswb site o s
  | .nsinv site o => Sys2Proof.Machine.execNsinv site o s
  | .nswbinv site o => Sys2Proof.Machine.execNswbinv site o s
  | .stash site o => Sys2Proof.Machine.execStash site o s
  | .unstash site o => Sys2Proof.Machine.execUnstash site o s
  | .mmq site o => Sys2Proof.Machine.execMmq site o s
  | .tileQueueHead c p => Sys2Proof.Machine.execTileQueueHead c p s
  | .blockLoad c p u => Sys2Proof.Machine.execBlockLoad c p u s
  | .feederVectorRead c a cycles u => Sys2Proof.Machine.execFeederVectorRead c a cycles u s
  | .accumulationStep c a n parity => Sys2Proof.Machine.execAccumulationStep c a n parity s
  | .tileComplete c p => Sys2Proof.Machine.execTileComplete c p s
  | .rampUp c a => Sys2Proof.Machine.execRampUp c a s
  | .rampDown c a cycles => Sys2Proof.Machine.execRampDown c a cycles s
  | .arrayIdle c a cycles => Sys2Proof.Machine.execArrayIdle c a cycles s
  | .mmode site mode => Sys2Proof.Machine.execMmode site mode s
  | .modeChange c => Sys2Proof.Machine.execModeChange c s
  | .mxModeWrite m c v => Sys2Proof.Machine.execMxModeWrite m c v s
  | .mocfg site o u => Sys2Proof.Machine.execMocfg site o u s
  | .hscale site o => Sys2Proof.Machine.execHscale site o s
  | .hscaleComplete site => Sys2Proof.Machine.execHscaleComplete site s
  | .outputTileStart c p u => Sys2Proof.Machine.execOutputTileStart c p u s
  | .outputEntryRead c p parity => Sys2Proof.Machine.execOutputEntryRead c p parity s
  | .handoffEntryAlloc c p => Sys2Proof.Machine.execHandoffEntryAlloc c p s
  | .photometryAdd c p => Sys2Proof.Machine.execPhotometryAdd c p s
  | .outputTileComplete c p => Sys2Proof.Machine.execOutputTileComplete c p s
  | .vtake site o => Sys2Proof.Machine.execVtake site o s
  | .vtakeCopy site => Sys2Proof.Machine.execVtakeCopy site s
  | .vtakeComplete site => Sys2Proof.Machine.execVtakeComplete site s
  | .vadd site o => Sys2Proof.Machine.execVadd site o s
  | .vsub site o => Sys2Proof.Machine.execVsub site o s
  | .vmul site o => Sys2Proof.Machine.execVmul site o s
  | .vfma site o => Sys2Proof.Machine.execVfma site o s
  | .vmax site o => Sys2Proof.Machine.execVmax site o s
  | .vmin site o => Sys2Proof.Machine.execVmin site o s
  | .vabs site o => Sys2Proof.Machine.execVabs site o s
  | .vneg site o => Sys2Proof.Machine.execVneg site o s
  | .vcmp site o => Sys2Proof.Machine.execVcmp site o s
  | .vsel site o => Sys2Proof.Machine.execVsel site o s
  | .vand site o => Sys2Proof.Machine.execVand site o s
  | .vor site o => Sys2Proof.Machine.execVor site o s
  | .vxor site o => Sys2Proof.Machine.execVxor site o s
  | .vnot site o => Sys2Proof.Machine.execVnot site o s
  | .vshl site o => Sys2Proof.Machine.execVshl site o s
  | .vshr site o => Sys2Proof.Machine.execVshr site o s
  | .vsra site o => Sys2Proof.Machine.execVsra site o s
  | .vcvt site o => Sys2Proof.Machine.execVcvt site o s
  | .vsplat site o => Sys2Proof.Machine.execVsplat site o s
  | .vget site o => Sys2Proof.Machine.execVget site o s
  | .vmov site o => Sys2Proof.Machine.execVmov site o s
  | .vld site o u => Sys2Proof.Machine.execVld site o u s
  | .vst site o => Sys2Proof.Machine.execVst site o s
  | .vstMx site o => Sys2Proof.Machine.execVstMx site o s
  | .vredRow site o => Sys2Proof.Machine.execVredRow site o s
  | .vredCol site o => Sys2Proof.Machine.execVredCol site o s
  | .vexp site o => Sys2Proof.Machine.execVexp site o s
  | .vlog site o => Sys2Proof.Machine.execVlog site o s
  | .vrcp site o => Sys2Proof.Machine.execVrcp site o s
  | .vrsq site o => Sys2Proof.Machine.execVrsq site o s
  | .vmaxRun site o => Sys2Proof.Machine.execVmaxRun site o s
  | .vexpSub site o => Sys2Proof.Machine.execVexpSub site o s
  | .vscaleRun site o => Sys2Proof.Machine.execVscaleRun site o s
  | .vlse site o => Sys2Proof.Machine.execVlse site o s
  | .vpermRow site o => Sys2Proof.Machine.execVpermRow site o s
  | .vpermCol site o => Sys2Proof.Machine.execVpermCol site o s
  | .rseed site o => Sys2Proof.Machine.execRseed site o s
  | .rsave site ra => Sys2Proof.Machine.execRsave site ra s
  | .rload site ra u => Sys2Proof.Machine.execRload site ra u s
  | .vrandU32 site o => Sys2Proof.Machine.execVrandU32 site o s
  | .vrandF32 site o => Sys2Proof.Machine.execVrandF32 site o s
  | .genloWrite m c g v => Sys2Proof.Machine.execGenloWrite m c g v s
  | .genhiWrite m c g v => Sys2Proof.Machine.execGenhiWrite m c g v s
  | .seminit site o => Sys2Proof.Machine.execSeminit site o s
  | .semsig site o => Sys2Proof.Machine.execSemsig site o s
  | .semacq site o => Sys2Proof.Machine.execSemacq site o s
  | .semacqSatisfied site => Sys2Proof.Machine.execSemacqSatisfied site s
  | .fsig site o => Sys2Proof.Machine.execFsig site o s
  | .fwait site o => Sys2Proof.Machine.execFwait site o s
  | .fwaitSatisfied site => Sys2Proof.Machine.execFwaitSatisfied site s
  | .waitLimit site => Sys2Proof.Machine.execWaitLimit site s
  | .sync site o => Sys2Proof.Machine.execSync site o s
  | .syncDone site => Sys2Proof.Machine.execSyncDone site s
  | .nput site o => Sys2Proof.Machine.execNput site o s
  | .nget site o => Sys2Proof.Machine.execNget site o s
  | .nsend site o => Sys2Proof.Machine.execNsend site o s
  | .nputComplete req => Sys2Proof.Machine.execNputComplete req s
  | .ngetComplete req => Sys2Proof.Machine.execNgetComplete req s
  | .nsendComplete req => Sys2Proof.Machine.execNsendComplete req s
  | .transitOut site o => Sys2Proof.Machine.execTransitOut site o s
  | .transitPull site o => Sys2Proof.Machine.execTransitPull site o s
  | .vaultSave site o => Sys2Proof.Machine.execVaultSave site o s
  | .vaultCommit site o => Sys2Proof.Machine.execVaultCommit site o s
  | .vaultRestore site o images => Sys2Proof.Machine.execVaultRestore site o images s
  | .vaultDrain site o => Sys2Proof.Machine.execVaultDrain site o s
  | .endProg site => Sys2Proof.Machine.execEndProg site s
  | .trap site imm => Sys2Proof.Machine.execTrap site imm s
  | .icinv site => Sys2Proof.Machine.execIcinv site s
  | .trapDrainComplete site => Sys2Proof.Machine.execTrapDrainComplete site s
  | .abortDrainComplete site => Sys2Proof.Machine.execAbortDrainComplete site s
  | .lineFill c line u => Sys2Proof.Machine.execLineFill c line u s
  | .stridePrefetch c entry => Sys2Proof.Machine.execStridePrefetch c entry s
  | .sectorWrite c => Sys2Proof.Machine.execSectorWrite c s
  | .sliceEviction line => Sys2Proof.Machine.execSliceEviction line s
  | .translationWalk c dva => Sys2Proof.Machine.execTranslationWalk c dva s
  | .stackLineRead m line owner e => Sys2Proof.Machine.execStackLineRead m line owner e s
  | .stackLineWrite m line owner data e => Sys2Proof.Machine.execStackLineWrite m line owner data e s
  | .partialWriteMerge line e => Sys2Proof.Machine.execPartialWriteMerge line e s
  | .patrolRead stack e => Sys2Proof.Machine.execPatrolRead stack e s
  | .rowSpare stack die channel bank row errs => Sys2Proof.Machine.execRowSpare stack die channel bank row errs s
  | .rebuildStep stack group e => Sys2Proof.Machine.execRebuildStep stack group e s
  | .stackRetire m stack die => Sys2Proof.Machine.execStackRetire m stack die s
  | .stackFill m stack => Sys2Proof.Machine.execStackFill m stack s
  | .fillComplete stack => Sys2Proof.Machine.execFillComplete stack s
  | .mapClear m stack page => Sys2Proof.Machine.execMapClear m stack page s
  | .mapClearDone stack => Sys2Proof.Machine.execMapClearDone stack s
  | .repairQueuePop m stack => Sys2Proof.Machine.execRepairQueuePop m stack s
  | .stackTempChange stack temp => Sys2Proof.Machine.execStackTempChange stack temp s
  | .zeroize m => Sys2Proof.Machine.execZeroize m s
  | .haltPropagate => Sys2Proof.Machine.execHaltPropagate s
  | .haltKeyZero => Sys2Proof.Machine.execHaltKeyZero s
  | .haltFaultPin => Sys2Proof.Machine.execHaltFaultPin s
  | .haltLinksDown => Sys2Proof.Machine.execHaltLinksDown s
  | .haltClear => Sys2Proof.Machine.execHaltClear s
  | .curatorWindowLock m => Sys2Proof.Machine.execCuratorWindowLock m s
  | .doorbellWrite q tail => Sys2Proof.Machine.execDoorbellWrite q tail s
  | .queueTakeCommand q => Sys2Proof.Machine.execQueueTakeCommand q s
  | .cmdNop q => Sys2Proof.Machine.execCmdNop q s
  | .launch q => Sys2Proof.Machine.execLaunch q s
  | .copy q => Sys2Proof.Machine.execCopy q s
  | .signal q => Sys2Proof.Machine.execSignal q s
  | .wait q => Sys2Proof.Machine.execWait q s
  | .queueWaitSatisfied q => Sys2Proof.Machine.execQueueWaitSatisfied q s
  | .resume q => Sys2Proof.Machine.execResume q s
  | .abort q => Sys2Proof.Machine.execAbort q s
  | .query q => Sys2Proof.Machine.execQuery q s
  | .map q => Sys2Proof.Machine.execMap q s
  | .unmap q => Sys2Proof.Machine.execUnmap q s
  | .remap q => Sys2Proof.Machine.execRemap q s
  | .catalogueSync q => Sys2Proof.Machine.execCatalogueSync q s
  | .contextDestroy q => Sys2Proof.Machine.execContextDestroy q s
  | .destroyQuiesced q => Sys2Proof.Machine.execDestroyQuiesced q s
  | .catalogueEntryEvict cat idx => Sys2Proof.Machine.execCatalogueEntryEvict cat idx s
  | .catalogueLock m => Sys2Proof.Machine.execCatalogueLock m s
  | .fenceSignal => Sys2Proof.Machine.execFenceSignal s
  | .mirrorWrite f => Sys2Proof.Machine.execMirrorWrite f s
  | .qpLoad m n => Sys2Proof.Machine.execQpLoad m n s
  | .linkUp port half kr => Sys2Proof.Machine.execLinkUp port half kr s
  | .linkDown port half => Sys2Proof.Machine.execLinkDown port half s
  | .roceSendRx f data => Sys2Proof.Machine.execRoceSendRx f data s
  | .roceWriteRx f va rkey data => Sys2Proof.Machine.execRoceWriteRx f va rkey data s
  | .roceReadReqRx f va rkey len => Sys2Proof.Machine.execRoceReadReqRx f va rkey len s
  | .roceReadRespRx f data => Sys2Proof.Machine.execRoceReadRespRx f data s
  | .roceAckRx f kind => Sys2Proof.Machine.execRoceAckRx f kind s
  | .cnpRx f => Sys2Proof.Machine.execCnpRx f s
  | .roceUnsupportedRx f => Sys2Proof.Machine.execRoceUnsupportedRx f s
  | .roceAckTimeout qp => Sys2Proof.Machine.execRoceAckTimeout qp s
  | .roceRateIncrease qp => Sys2Proof.Machine.execRoceRateIncrease qp s
  | .cnpSend qp => Sys2Proof.Machine.execCnpSend qp s
  | .arpRequestRx port v6 target => Sys2Proof.Machine.execArpRequestRx port v6 target s
  | .frameDrop port why => Sys2Proof.Machine.execFrameDrop port why s
  | .sessionEnable m i1 v => Sys2Proof.Machine.execSessionEnable m i1 v s
  | .sessionDisable m i1 v => Sys2Proof.Machine.execSessionDisable m i1 v s
  | .sessionLost i1 => Sys2Proof.Machine.execSessionLost i1 s
  | .keySwitch m i1 => Sys2Proof.Machine.execKeySwitch m i1 s
  | .keyRetire m i1 slot => Sys2Proof.Machine.execKeyRetire m i1 slot s
  | .nctPacketSend i1 => Sys2Proof.Machine.execNctPacketSend i1 s
  | .nctDataRx u p => Sys2Proof.Machine.execNctDataRx u p s
  | .nctAckRx u p => Sys2Proof.Machine.execNctAckRx u p s
  | .nctReadRx u p => Sys2Proof.Machine.execNctReadRx u p s
  | .nctSignalRx u p => Sys2Proof.Machine.execNctSignalRx u p s
  | .nctProbeRx u p => Sys2Proof.Machine.execNctProbeRx u p s
  | .nctNakRx u p => Sys2Proof.Machine.execNctNakRx u p s
  | .nctAckTimer i1 => Sys2Proof.Machine.execNctAckTimer i1 s
  | .nctRto i1 psn => Sys2Proof.Machine.execNctRto i1 psn s
  | .nctProbeSend i1 path => Sys2Proof.Machine.execNctProbeSend i1 path s
  | .pathSuspect path => Sys2Proof.Machine.execPathSuspect path s
  | .transitPass1Done => Sys2Proof.Machine.execTransitPass1Done s
  | .transitPass2Done => Sys2Proof.Machine.execTransitPass2Done s
  | .transitFragmentSend => Sys2Proof.Machine.execTransitFragmentSend s
  | .transitDataRx u p => Sys2Proof.Machine.execTransitDataRx u p s
  | .transitAckRx u p => Sys2Proof.Machine.execTransitAckRx u p s
  | .transitMergeRx u p => Sys2Proof.Machine.execTransitMergeRx u p s
  | .transitProbeRx u p => Sys2Proof.Machine.execTransitProbeRx u p s
  | .transitEchoRx u p => Sys2Proof.Machine.execTransitEchoRx u p s
  | .transitProbeSend route dst => Sys2Proof.Machine.execTransitProbeSend route dst s
  | .routeDead route => Sys2Proof.Machine.execRouteDead route s
  | .transitDeadline k => Sys2Proof.Machine.execTransitDeadline k s
  | .coordDecide k => Sys2Proof.Machine.execCoordDecide k s
  | .transitUnmerged k => Sys2Proof.Machine.execTransitUnmerged k s
  | .transitPullComplete => Sys2Proof.Machine.execTransitPullComplete s
  | .transitJobEnd m v => Sys2Proof.Machine.execTransitJobEnd m v s
  | .transitKeySwitch m => Sys2Proof.Machine.execTransitKeySwitch m s
  | .transitKeyRetire m slot => Sys2Proof.Machine.execTransitKeyRetire m slot s
  | .vaultEnable m v => Sys2Proof.Machine.execVaultEnable m v s
  | .vaultTimerDue => Sys2Proof.Machine.execVaultTimerDue s
  | .vaultSaveComplete => Sys2Proof.Machine.execVaultSaveComplete s
  | .vaultCommitComplete => Sys2Proof.Machine.execVaultCommitComplete s
  | .drainComplete => Sys2Proof.Machine.execDrainComplete s
  | .restoreComplete => Sys2Proof.Machine.execRestoreComplete s
  | .logbookScan => Sys2Proof.Machine.execLogbookScan s
  | .safeWrite m => Sys2Proof.Machine.execSafeWrite m s
  | .mboxTailWrite m tail => Sys2Proof.Machine.execMboxTailWrite m tail s
  | .cert => Sys2Proof.Machine.execCert s
  | .kemkey => Sys2Proof.Machine.execKemkey s
  | .report => Sys2Proof.Machine.execReport s
  | .openSess => Sys2Proof.Machine.execOpenSess s
  | .msg => Sys2Proof.Machine.execMsg s
  | .close => Sys2Proof.Machine.execClose s
  | .measure => Sys2Proof.Machine.execMeasure s
  | .finalize => Sys2Proof.Machine.execFinalize s
  | .consent => Sys2Proof.Machine.execConsent s
  | .ownerkey => Sys2Proof.Machine.execOwnerkey s
  | .nctkey => Sys2Proof.Machine.execNctkey s
  | .sitekey => Sys2Proof.Machine.execSitekey s
  | .ckptkey => Sys2Proof.Machine.execCkptkey s
  | .prExtend m v => Sys2Proof.Machine.execPrExtend m v s
  | .fwConfirm m => Sys2Proof.Machine.execFwConfirm m s
  | .fwStageSet m v => Sys2Proof.Machine.execFwStageSet m v s
  | .watchdogKick m => Sys2Proof.Machine.execWatchdogKick m s
  | .watchdogExpire memoryError => Sys2Proof.Machine.execWatchdogExpire memoryError s
  | .coreReset m core => Sys2Proof.Machine.execCoreReset m core s
  | .chipReset m => Sys2Proof.Machine.execChipReset m s
  | .moduleReset m => Sys2Proof.Machine.execModuleReset m s
  | .modResetNAssert => Sys2Proof.Machine.execModResetNAssert s
  | .modResetNRelease => Sys2Proof.Machine.execModResetNRelease s
  | .inputValid => Sys2Proof.Machine.execInputValid s
  | .inputInvalid => Sys2Proof.Machine.execInputInvalid s
  | .hotswapRampDone => Sys2Proof.Machine.execHotswapRampDone s
  | .bootImageSelect => Sys2Proof.Machine.execBootImageSelect s
  | .stackTrainingDone trained katOk randomOk => Sys2Proof.Machine.execStackTrainingDone trained katOk randomOk s
  | .coresRelease => Sys2Proof.Machine.execCoresRelease s
  | .readySet => Sys2Proof.Machine.execReadySet s
  | .mgmtHello v6 dst port frame => Sys2Proof.Machine.execMgmtHello v6 dst port frame s
  | .mgmtFinish session frame => Sys2Proof.Machine.execMgmtFinish session frame s
  | .mgmtLockoutEnd => Sys2Proof.Machine.execMgmtLockoutEnd s
  | .regread session frame => Sys2Proof.Machine.execRegread session frame s
  | .regwrite session frame => Sys2Proof.Machine.execRegwrite session frame s
  | .logread session frame => Sys2Proof.Machine.execLogread session frame s
  | .setread session frame => Sys2Proof.Machine.execSetread session frame s
  | .setwrite session frame => Sys2Proof.Machine.execSetwrite session frame s
  | .fwstage session frame => Sys2Proof.Machine.execFwstage session frame s
  | .fwunstage session frame => Sys2Proof.Machine.execFwunstage session frame s
  | .reset session frame => Sys2Proof.Machine.execReset session frame s
  | .service session frame => Sys2Proof.Machine.execService session frame s
  | .power session frame => Sys2Proof.Machine.execPower session frame s
  | .debugmem session frame => Sys2Proof.Machine.execDebugmem session frame s
  | .repairclear session frame => Sys2Proof.Machine.execRepairclear session frame s
  | .enroll session frame => Sys2Proof.Machine.execEnroll session frame s
  | .buttonRelease => Sys2Proof.Machine.execButtonRelease s
  | .supplyWarning => Sys2Proof.Machine.execSupplyWarning s
  | .supplyAboveRelease minMv => Sys2Proof.Machine.execSupplyAboveRelease minMv s
  | .supplyBelowRelease => Sys2Proof.Machine.execSupplyBelowRelease s
  | .clampRelease => Sys2Proof.Machine.execClampRelease s
  | .clampRestored => Sys2Proof.Machine.execClampRestored s
  | .supplyReset => Sys2Proof.Machine.execSupplyReset s
  | .governorTick m => Sys2Proof.Machine.execGovernorTick m s
  | .thermalTrip die => Sys2Proof.Machine.execThermalTrip die s
  | .smbusVersion => Sys2Proof.Machine.execSmbusVersion s
  | .smbusStatus => Sys2Proof.Machine.execSmbusStatus s
  | .smbusOrderCode => Sys2Proof.Machine.execSmbusOrderCode s
  | .smbusSerial => Sys2Proof.Machine.execSmbusSerial s
  | .smbusVin => Sys2Proof.Machine.execSmbusVin s
  | .smbusIin => Sys2Proof.Machine.execSmbusIin s
  | .smbusPin => Sys2Proof.Machine.execSmbusPin s
  | .smbusTdie => Sys2Proof.Machine.execSmbusTdie s
  | .smbusTstack => Sys2Proof.Machine.execSmbusTstack s
  | .smbusTboard => Sys2Proof.Machine.execSmbusTboard s
  | .smbusCause => Sys2Proof.Machine.execSmbusCause s
  | .smbusNack write command => Sys2Proof.Machine.execSmbusNack write command s
  | .railFault => Sys2Proof.Machine.execRailFault s
  | .buttonPress => Sys2Proof.Machine.execButtonPress s
  | .curatorRestartDone => Sys2Proof.Machine.execCuratorRestartDone s
  | .rocePacketSend qp => Sys2Proof.Machine.execRocePacketSend qp s
  | .pfcPauseRx port mask => Sys2Proof.Machine.execPfcPauseRx port mask s

end Sys2Proof.Machine
end

