-- ==== Sys2Proof/WellFormed.lean ====
section
/-! DEFINITION. Which terms of `Instr` stand for something that can happen: an instruction has a legal encoding, an
illegal word is illegal, and what the surroundings supply has the shape the spec gives it. -/
namespace Sys2Proof

/-- Why a term is no command of the block. -/
inductive IllFormed where
  /-- The words of the instruction are not legal ones (R206). -/
  | encoding
  /-- The words of ILLEGAL spell a legal instruction (R206). -/
  | notIllegal
  /-- A symbol error of weight zero, or two errors of one beat at one position (R273). -/
  | symbols
  /-- Not one reading for each of the 24 die sensors and 16 stacks (R534). -/
  | sensors
  /-- A wire payload longer than a packet carries (R377, R405). -/
  | payload
  /-- A register access of no bytes (R18). -/
  | access
deriving DecidableEq, Repr

/-- Each error of a burst is one, and no two stand on one symbol. -/
def symbolsOk (es : List SymErr) : Bool :=
  es.all (fun e => e.sym != 0) && decide ((es.map fun e => (e.beat, e.pos)).Nodup)

/-- Both reads of a burst. -/
def BurstErr.ok (e : BurstErr) : Bool := symbolsOk e.first && symbolsOk e.second

/-- One reading per sensor. -/
def Measure.ok (m : Measure) : Bool := decide (m.die.length = 24) && decide (m.stack.length = 16)

/-- The instruction's words are legal; a command that is no instruction has none to check. -/
def Instr.encodes (i : Instr) : Bool :=
  match encode i with
  | some (w, x) => (illegalDetail w x).isNone
  | none => true

/-- The shape of what the surroundings supply. -/
def Instr.shape : Instr → Option IllFormed
  | .illegal _ w0 w1 => if (illegalDetail w0 w1).isSome then none else some .notIllegal
  | .registerWrite _ _ bytes _ => if bytes = 0 then some .access else none
  | .stackLineRead _ _ _ e => if e.ok then none else some .symbols
  | .stackLineWrite _ _ _ _ e => if e.ok then none else some .symbols
  | .partialWriteMerge _ e => if e.ok then none else some .symbols
  | .patrolRead _ e => if e.ok then none else some .symbols
  | .rebuildStep _ _ e => if e.ok then none else some .symbols
  | .governorTick m => if m.ok then none else some .sensors
  | .nctDataRx _ p | .nctAckRx _ p | .nctReadRx _ p | .nctSignalRx _ p | .nctProbeRx _ p | .nctNakRx _ p =>
    if p.payload.length ≤ 4096 then none else some .payload
  | .transitDataRx _ p | .transitAckRx _ p | .transitMergeRx _ p | .transitProbeRx _ p | .transitEchoRx _ p =>
    if p.payload.length ≤ 8192 then none else some .payload
  | _ => none

/-- The first thing wrong with a term. -/
def Instr.illFormed (i : Instr) : Option IllFormed := if i.encodes then i.shape else some .encoding

/-- A well-formed command. -/
def Instr.wf (i : Instr) : Bool := i.illFormed.isNone

/-! ### What stands beside the words of an instruction -/

/-- Whether a command is an instruction of a stream, one with words of its own. -/
def Instr.isJalner (i : Instr) : Bool := (encode i).isSome

/-- The site of an instruction. -/
def Instr.site : Instr → Option Site
  | .nop s _ | .add s _ | .addi s _ | .sub s _ | .mul s _ | .mulhu s _ | .and s _ | .andi s _ | .or s _ | .ori s _
  | .xor s _ | .xori s _ | .shl s _ | .shli s _ | .shr s _ | .shri s _ | .sra s _ | .srai s _ | .slt s _ | .slti s _
  | .sltu s _ | .sltiu s _ | .min s _ | .max s _ | .divu s _ | .remu s _ | .movi s _ | .movhi s _ | .ld64 s _ _
  | .ld32 s _ _ | .st64 s _ | .st32 s _ | .beq s _ | .bne s _ | .blt s _ | .bge s _ | .bltu s _ | .bgeu s _
  | .jal s _ | .jr s _ | .vsetvl s _ | .pgive s _ | .srd s _ | .sflag s _ | .crrd s _ | .crwr s _ | .dcopy s _
  | .dcopy2d s _ _ _ | .dgather s _ | .dscatter s _ | .nspf s _ | .nswb s _ | .nsinv s _ | .nswbinv s _ | .stash s _
  | .unstash s _ | .mmq s _ | .mmode s _ | .mocfg s _ _ | .hscale s _ | .vtake s _ | .vadd s _ | .vsub s _ | .vmul s _
  | .vfma s _ | .vmax s _ | .vmin s _ | .vabs s _ | .vneg s _ | .vcmp s _ | .vsel s _ | .vand s _ | .vor s _
  | .vxor s _ | .vnot s _ | .vshl s _ | .vshr s _ | .vsra s _ | .vcvt s _ | .vsplat s _ | .vget s _ | .vmov s _
  | .vld s _ _ | .vst s _ | .vstMx s _ | .vredRow s _ | .vredCol s _ | .vexp s _ | .vlog s _ | .vrcp s _ | .vrsq s _
  | .vmaxRun s _ | .vexpSub s _ | .vscaleRun s _ | .vlse s _ | .vpermRow s _ | .vpermCol s _ | .rseed s _
  | .rsave s _ | .rload s _ _ | .vrandU32 s _ | .vrandF32 s _ | .seminit s _ | .semsig s _ | .semacq s _ | .fsig s _
  | .fwait s _ | .sync s _ | .nput s _ | .nget s _ | .nsend s _ | .transitOut s _ | .transitPull s _ | .vaultSave s _
  | .vaultCommit s _ | .vaultRestore s _ _ | .vaultDrain s _ | .endProg s | .trap s _ | .icinv s => some s
  | _ => none

/-- What the near store's check finds when the instruction reads it. -/
def Instr.upset : Instr → Upset
  | .ld64 _ _ u | .ld32 _ _ u | .mocfg _ _ u | .vld _ _ u | .rload _ _ u => u
  | _ => .none

/-- The staged images of a restore. -/
def Instr.images : Instr → List StagedImage
  | .vaultRestore _ _ im => im
  | _ => []

end Sys2Proof
end

