-- ==== Sys2Proof/Safety.lean ====
section
/-! DEFINITION. The words the claims are stated in: when an instruction is presented to its stream, what an issue leaves,
which parts of the state a command may change, and what a sound state is. -/
namespace Sys2Proof.Machine

/-! ### Parts of the state -/

/-- The parts a frame names. -/
inductive Part where
  | cores | mem | host | fab | tr | vault | reg | cur | alm | sup | glob | wire
deriving DecidableEq, Repr

/-- The part is the same in both states. -/
def Part.same (s t : State) : Part → Prop
  | .cores => t.cores = s.cores
  | .mem => t.mem = s.mem
  | .host => t.host = s.host
  | .fab => t.fab = s.fab
  | .tr => t.tr = s.tr
  | .vault => t.vault = s.vault
  | .reg => t.reg = s.reg
  | .cur => t.cur = s.cur
  | .alm => t.alm = s.alm
  | .sup => t.sup = s.sup
  | .glob => t.glob = s.glob
  | .wire => t.wire = s.wire

/-- From `s` to `t` nothing changes but the parts named; the queue of commands never does. -/
def Only (ps : List Part) (s t : State) : Prop := t.pending = s.pending ∧ ∀ p, p ∉ ps → p.same s t

/-- Among the cores only core c changes. -/
def OnlyCore (c : Fin 96) (s t : State) : Prop := ∀ d : Fin 96, d ≠ c → t.cores[d] = s.cores[d]

/-- The command answers a next state in which P holds. -/
def Answers (i : Instr) (s : State) (P : State → Prop) : Prop := ∃ t, exec i s = .next t ∧ P t

/-! ### Instructions -/

/-- An instruction with legal words is presented to a stream that may issue it, and waits for no scalar result, and
its words have been fetched (R175, R183, R206). -/
structure Presents (p : Site) (i : Instr) (s : State) : Prop where
  site : i.site = some p
  legal : i.encodes = true
  may : s.mayIssue p = true
  free : s.scalarDue p i = false
  here : s.fetched p ((encode i).getD (0, 0)).1 = true

/-- The state after an instruction of the site issues and goes on at `pc`: its stream runs there with the change `f`, the
issue counts advance, the arbitration pointer passes the stream, and nothing else changes (R178, R203). Whether the issue
shares its cycle with one before it is the part's own timing (log entry 16). -/
def issuedAs (s : State) (p : Site) (pc : Addr) (f : Stream → Stream) : State :=
  let k := s.cores[p.core]
  let st := k.streams[p.stream]
  { s with cores := s.cores.set p.core { k with
      streams := k.streams.set p.stream { f st with
        mode := .run, wait := .none, missWaits := false, pc := pc, seqNo := (f st).seqNo + 1 }
      issued := k.issued + 1
      dualcyc := k.dualcyc + (if k.dual p s.glob.tick then 1 else 0)
      rr := p.stream + 1 } }

/-- The pc of the site's stream. -/
def pcOf (s : State) (p : Site) : Addr := ((s.cores[p.core]).streams[p.stream]).pc

/-- A scalar register of the site's stream as an instruction reads it: s0 is zero (R170). -/
def regOf (s : State) (p : Site) (r : BitVec 5) : Word :=
  if r = 0 then 0 else ((s.cores[p.core]).streams[p.stream]).regs[r.toFin]

/-- Write register r of a stream; s0 discards it (R170). -/
def putReg (r : BitVec 5) (v : Word) (st : Stream) : Stream :=
  { st with regs := if r = 0 then st.regs else st.regs.set r.toFin v }

/-- The state in which the site's stream has stopped for a trap found at issue: DRAIN, the trap recorded with the
instruction's own pc, later signals discarded, nothing issued (R187, R195, R196). -/
def trappedAs (s : State) (p : Site) (code : BitVec 8) (insn detail : Word) (addr : Addr) : State :=
  let k := s.cores[p.core]
  let st := k.streams[p.stream]
  { s with cores := s.cores.set p.core { k with
      streams := k.streams.set p.stream { st with
        mode := .drain, wait := .none, missWaits := false
        held := st.held.filter fun h => h.seqNo < st.seqNo
        trap := some { code := code, pc := st.pc, insn := insn, detail := detail, stoppc := st.pc, addr := addr,
                       multi := false } }
      semOrder := k.semOrder.filter fun u => u ≠ p.stream } }

/-! ### Sound states -/

/-- s0 of every stream holds zero: nothing ever writes it (R170). -/
def ZeroRegs (s : State) : Prop := ∀ (c : Fin 96) (t : Fin 4), ((s.cores[c]).streams[t]).regs[0] = 0

/-- The memory is in its canonical form. -/
def MemWf (s : State) : Prop := s.mem.wf = true

/-- A step never stops the block for good: no command faults. -/
def NeverFaults : Prop := ∀ (i : Instr) (s : State) (r : Fault), exec i s ≠ .fault r

end Sys2Proof.Machine
end

