-- ==== Sys2Proof/Certificates/Slice0/Obligations.lean ====
section
/-! DEFINITION. The statements about the model, by chapter of the spec, with the tables and predicates they share. -/
namespace Sys2Proof.Claims
open Sys2Proof.Machine

/-! ### Scalar tables (R208, R210)

Each row is an instruction and what it computes, in the manual's own arithmetic. -/

/-- One thing, and no other, leaves the module from s to t. -/
def emits (s t : State) (e : WireEvent) : Prop := t.wire = s.wire ++ [e]

/-- All ones or zero as a 64-bit truth value 1 or 0. -/
def truth (b : Bool) : Word := BitVec.zeroExtend 64 (BitVec.ofBool b)

/-- Register-register operations. -/
def aluR : List ((Site → LayR → Instr) × (Word → Word → Word)) :=
  [ (.add, fun a b => BitVec.ofNat 64 (a.toNat + b.toNat)),
    (.sub, fun a b => BitVec.ofInt 64 (a.toNat - b.toNat)),
    (.mul, fun a b => BitVec.ofNat 64 (a.toNat * b.toNat)),
    (.mulhu, fun a b => ((a.zeroExtend 128 * b.zeroExtend 128) >>> 64).truncate 64),
    (.and, fun a b => ~~~(~~~a ||| ~~~b)),
    (.or, fun a b => a ||| b),
    (.xor, fun a b => a ^^^ b),
    (.shl, fun a b => a <<< (b &&& 63)),
    (.shr, fun a b => a >>> (b &&& 63)),
    (.sra, fun a b => BitVec.ofInt 64 (a.toInt / 2 ^ (b &&& 63).toNat)),
    (.slt, fun a b => truth (decide (a.toInt < b.toInt))),
    (.sltu, fun a b => truth (decide (a.toNat < b.toNat))),
    (.min, fun a b => BitVec.ofInt 64 (Min.min a.toInt b.toInt)),
    (.max, fun a b => BitVec.ofInt 64 (Max.max a.toInt b.toInt)),
    (.divu, fun a b => if b.toNat = 0 then 0xFFFFFFFFFFFFFFFF#64 else BitVec.ofNat 64 (a.toNat / b.toNat)),
    (.remu, fun a b => if b.toNat = 0 then a else BitVec.ofNat 64 (a.toNat % b.toNat)) ]

/-- Register-immediate operations on ra and the sign-extended immediate. -/
def aluI : List ((Site → LayI → Instr) × (Word → Word → Word)) :=
  [ (.addi, fun a m => BitVec.ofNat 64 (a.toNat + m.toNat)),
    (.andi, fun a m => ~~~(~~~a ||| ~~~m)),
    (.ori, fun a m => a ||| m),
    (.xori, fun a m => a ^^^ m),
    (.shli, fun a m => a <<< (m &&& 63)),
    (.shri, fun a m => a >>> (m &&& 63)),
    (.srai, fun a m => BitVec.ofInt 64 (a.toInt / 2 ^ (m &&& 63).toNat)),
    (.slti, fun a m => truth (decide (a.toInt < m.toInt))),
    (.sltiu, fun a m => truth (decide (a.toNat < m.toNat))),
    (.movi, fun _ m => m),
    (.movhi, fun a m => (m.truncate 32 : W32) ++ (a.truncate 32 : W32)) ]

/-- Conditional branches and the condition each takes. -/
def branches : List ((Site → LayB → Instr) × (Word → Word → Prop)) :=
  [ (.beq, fun a b => a.toNat = b.toNat),
    (.bne, fun a b => a.toNat ≠ b.toNat),
    (.blt, fun a b => a.toInt < b.toInt),
    (.bge, fun a b => b.toInt ≤ a.toInt),
    (.bltu, fun a b => a.toNat < b.toNat),
    (.bgeu, fun a b => b.toNat ≤ a.toNat) ]

/-- The target of a taken branch: pc + 8 × OFF, in 48 bits (R210). -/
def target (pc : Addr) (off : BitVec 32) : Addr := BitVec.ofInt 48 (pc.toNat + 8 * off.toInt)

end Sys2Proof.Claims

open Sys2Proof Sys2Proof.Machine Sys2Proof.Claims

/-! ### The queue -/

/-- A step takes the command at the front of the queue and runs it with the queue's rest. -/
def Obligations.StepRunsFront : Prop :=
  ∀ (c : Instr) (rest : List Instr) (s : State),
    step { s with pending := c :: rest } = exec c { s with pending := rest }

/-! ### Scalar instructions -/

/-- R208, register form: rd takes the result of ra and rb, s0 discards it, the stream goes on 8 bytes later, and nothing
else changes. -/
def Obligations.ScalarRegister : Prop :=
  ∀ e ∈ aluR, ∀ (p : Site) (o : LayR) (s : State), Presents p (e.1 p o) s →
    exec (e.1 p o) s = .next (issuedAs s p (pcOf s p + 8) (putReg o.rd (e.2 (regOf s p o.ra) (regOf s p o.rb))))

/-- R208, immediate form: rd takes the result of ra and the sign-extended immediate, s0 discards it, the stream goes on 8
bytes later, and nothing else changes. -/
def Obligations.ScalarImmediate : Prop :=
  ∀ e ∈ aluI, ∀ (p : Site) (o : LayI) (s : State), Presents p (e.1 p o) s →
    exec (e.1 p o) s = .next (issuedAs s p (pcOf s p + 8) (putReg o.rd (e.2 (regOf s p o.ra) (o.imm.signExtend 64))))

/-- R195, R210: branches, JAL, and JR to a target with bits [2:0] clear; JR to another target traps PC_ALIGN with rd and
pc unchanged. -/
def Obligations.ControlFlow : Prop :=
  (∀ e ∈ branches, ∀ (p : Site) (o : LayB) (s : State), Presents p (e.1 p o) s →
    (e.2 (regOf s p o.ra) (regOf s p o.rb) →
      exec (e.1 p o) s = .next (issuedAs s p (target (pcOf s p) o.off) id)) ∧
    (¬ e.2 (regOf s p o.ra) (regOf s p o.rb) → exec (e.1 p o) s = .next (issuedAs s p (pcOf s p + 8) id))) ∧
  (∀ (p : Site) (o : LayB) (s : State), Presents p (.jal p o) s →
    exec (.jal p o) s = .next (issuedAs s p (target (pcOf s p) o.off) (putReg o.ra ((pcOf s p + 8).zeroExtend 64)))) ∧
  (∀ (p : Site) (o : LayR) (s : State), Presents p (.jr p o) s → regOf s p o.ra &&& 7 = 0 →
    exec (.jr p o) s =
      .next (issuedAs s p ((regOf s p o.ra).truncate 48) (putReg o.rd ((pcOf s p + 8).zeroExtend 64)))) ∧
  (∀ (p : Site) (o : LayR) (s : State), Presents p (.nop p o) s →
    exec (.nop p o) s = .next (issuedAs s p (pcOf s p + 8) id)) ∧
  (∀ (p : Site) (o : LayR) (s : State), Presents p (.jr p o) s → regOf s p o.ra &&& 7 ≠ 0 →
    exec (.jr p o) s = .next (trappedAs s p 0x0E (opc 0x03 0x07 o.bits) 0 0))

/-! ### Scalar memory access (R209, R240, R264) -/

namespace Sys2Proof.Claims
open Sys2Proof.Machine

/-- The effective address of layout M with the bits below the access size cleared (R209). -/
def scalarAddr (s : State) (p : Site) (o : LayM) (n : Nat) : Nat :=
  (regOf s p o.ra + o.off.signExtend 64).toNat % 2 ^ 48 / n * n

/-- The loads and their sizes. -/
def loads : List ((Site → LayM → Upset → Instr) × Nat) := [(.ld64, 8), (.ld32, 4)]

/-- The stores and their sizes. -/
def stores : List ((Site → LayM → Instr) × Nat) := [(.st64, 8), (.st32, 4)]

/-- n bytes of a line from an offset, as a little-endian number. -/
def lineNum (d : Line) (off : Nat) : Nat → Nat
  | 0 => 0
  | n + 1 => (d.getD off 0).toNat + 256 * lineNum d (off + 1) n

/-- The bytes of a line that an engine of core c finds in its near store. -/
def nearBytes (s : State) (c : Fin 96) (line : Nat) : Option Line := ((s.cores[c]).nsFind line).map fun x => x.data

/-- Only the pc, the issue count and one change of the site's stream differ among the streams and the arbiter of core c. -/
def OnlySite (p : Site) (f : Stream → Stream) (s t : State) : Prop :=
  OnlyCore p.core s t ∧ (t.cores[p.core]).streams = ((issuedAs s p (pcOf s p + 8) f).cores[p.core]).streams ∧
    (t.cores[p.core]).issued = (s.cores[p.core]).issued + 1

end Sys2Proof.Claims

/-- R209: a load whose translation and line the core holds writes the little-endian bytes, zero-extended, and changes
no byte of memory, of the near store or of the write queue; one that reaches memory writes what the access path
delivers. -/
def Obligations.LoadHit : Prop :=
  (∀ e ∈ loads, ∀ (p : Site) (o : LayM) (s : State) (f : Leaf) (x : NsLine), Presents p (e.1 p o .none) s →
    (s.cores[p.core]).ctx.isSome = true → (s.cores[p.core]).tlbFind (scalarAddr s p o e.2) = some f → f.r = true →
    (s.cores[p.core]).nsFind (leafDpa f (scalarAddr s p o e.2) / 256) = some x → x.unref = false → x.poison = false →
    Answers (e.1 p o .none) s fun t =>
      Only [.cores] s t ∧
      OnlySite p (putReg o.rd (BitVec.ofNat 64 (lineNum x.data (scalarAddr s p o e.2 % 256) e.2))) s t ∧
      (∀ l, nearBytes t p.core l = nearBytes s p.core l) ∧ (t.cores[p.core]).wq = (s.cores[p.core]).wq) ∧
  (∀ e ∈ loads, ∀ (p : Site) (o : LayM) (u : Upset) (s s' : State) (bs : List Byte), Presents p (e.1 p o u) s →
    s.loadBytes p.core p.stream (some .scalar) (scalarAddr s p o e.2) e.2 u = (s', .ok bs) →
    exec (e.1 p o u) s = .next (issuedAs s' p (pcOf s p + 8) (putReg o.rd (BitVec.ofNat 64 (leNat bs)))))

/-- R209, R240: a store under a held translation with W places its bytes, and no other, in the core's write queue and in
the near store's copy of the line; memory itself changes later. -/
def Obligations.StoreQueues : Prop :=
  ∀ e ∈ stores, ∀ (p : Site) (o : LayM) (s : State) (f : Leaf), Presents p (e.1 p o) s →
    (s.cores[p.core]).ctx.isSome = true → (s.cores[p.core]).tlbFind (scalarAddr s p o e.2) = some f → f.w = true →
    (s.cores[p.core]).wq.length < 256 →
    Answers (e.1 p o) s fun t =>
      let a := scalarAddr s p o e.2
      let bytes := (List.range e.2).map fun i => (a % 256 + i, (regOf s p o.rd).extractLsb' (8 * i) 8)
      Only [.cores] s t ∧ OnlySite p id s t ∧
      (t.cores[p.core]).wq = (s.cores[p.core]).wq ++
        [{ stream := p.stream, seqNo := (s.stream p.core p.stream).seqNo, eng := .seq,
           line := BitVec.ofNat 40 (leafDpa f a / 256), bytes := bytes, owner := f.owner }] ∧
      nearBytes t p.core (leafDpa f a / 256) =
        (nearBytes s p.core (leafDpa f a / 256)).map (fun d => mergeBytes d bytes) ∧
      ∀ l, l ≠ leafDpa f a / 256 → nearBytes t p.core l = nearBytes s p.core l

/-- R195, R209: a scalar access that fails traps SCALAR_MEM: DETAIL 1 without a translation, 2 without the right, 3 on
poison, with the address it met, the pc and every register as they were. -/
def Obligations.ScalarAccessTraps : Prop :=
  ∀ (p : Site) (o : LayM) (s s' : State) (d : Nat),
    (∀ e ∈ loads, ∀ u, Presents p (e.1 p o u) s →
      let r := s.loadBytes p.core p.stream (some .scalar) (scalarAddr s p o e.2) e.2 u
      let w := ((encode (e.1 p o u)).getD (0, 0)).1
      (r = (s', .error (.xlate d)) → exec (e.1 p o u) s = .next (s'.trapIssue p.core p.stream .scalarMem w 1 (BitVec.ofNat 48 d))) ∧
      (r = (s', .error (.right d)) → exec (e.1 p o u) s = .next (s'.trapIssue p.core p.stream .scalarMem w 2 (BitVec.ofNat 48 d))) ∧
      (r = (s', .error (.poison d)) → exec (e.1 p o u) s = .next (s'.trapIssue p.core p.stream .scalarMem w 3 (BitVec.ofNat 48 d)))) ∧
    (∀ e ∈ stores, Presents p (e.1 p o) s →
      let r := s.storeBytes p.core p.stream (s.stream p.core p.stream).seqNo .seq (scalarAddr s p o e.2)
        (leBytes e.2 (regOf s p o.rd).toNat)
      let w := ((encode (e.1 p o)).getD (0, 0)).1
      (r = (s', .error (.xlate d)) → exec (e.1 p o) s = .next (s'.trapIssue p.core p.stream .scalarMem w 1 (BitVec.ofNat 48 d))) ∧
      (r = (s', .error (.right d)) → exec (e.1 p o) s = .next (s'.trapIssue p.core p.stream .scalarMem w 2 (BitVec.ofNat 48 d))))

/-! ### Stream state, plates and flags (R180, R211-R214) -/

namespace Sys2Proof.Claims
open Sys2Proof.Machine

/-- What SRD shows for each selector (R212), `s` being the state with the context entry on chip. -/
def srdTable (s : State) (p : Site) : List Word :=
  let k := s.cores[p.core]
  let st := k.streams[p.stream]
  [ BitVec.ofNat 64 p.core.val, BitVec.ofNat 64 p.stream.val, (k.ctx.getD 0).zeroExtend 64, s.glob.tick,
    st.vl.zeroExtend 64, st.plates.zeroExtend 64, k.present.zeroExtend 64, k.mxMode.zeroExtend 64,
    (ew (s.ctxE (k.ctx.getD 0)) 6) >>> 32 ]

/-- The five flags SFLAG reads: tile OVF and NAN, vector OVF, NAN and PERM_RANGE of the stream (R213). -/
def sflagWord (k : Core) (t : Fin 4) : Word :=
  ((k.tflags >>> (2 * t.val)) &&& 3).zeroExtend 64 ||| (((k.vflags >>> (3 * t.val)) &&& 7).zeroExtend 64 <<< 2)

end Sys2Proof.Claims

/-- R214: CRRD brings a word of the stream's context register block to a scalar register and CRWR writes one from a scalar
register; no other word of any entry changes. -/
def Obligations.ContextRegisters : Prop :=
  (∀ (p : Site) (o : LayI) (s : State), Presents p (.crrd p o) s →
    let s' := s.loadCtx ((s.cores[p.core]).ctx.getD 0)
    exec (.crrd p o) s = .next (issuedAs s' p (pcOf s p + 8)
      (putReg o.rd ((s'.ctxE ((s.cores[p.core]).ctx.getD 0)).getD (16 + o.imm.toNat) 0)))) ∧
  (∀ (p : Site) (o : LayI) (s : State) (e : List Word), Presents p (.crwr p o) s →
    Tbl.find? s.host.ctxs ((s.cores[p.core]).ctx.getD 0).toNat = some e →
    Answers (.crwr p o) s fun t =>
      t = issuedAs { s with host := t.host } p (pcOf s p + 8) id ∧
      t.host = { s.host with ctxs := t.host.ctxs } ∧
      (∀ c : Nat, c ≠ ((s.cores[p.core]).ctx.getD 0).toNat → Tbl.get [] t.host.ctxs c = Tbl.get [] s.host.ctxs c) ∧
      Tbl.get [] t.host.ctxs ((s.cores[p.core]).ctx.getD 0).toNat = e.set (16 + o.imm.toNat) (regOf s p o.ra))

/-- R138, R173, R174, R180, R212, R213: VSETVL, PGIVE, SRD, SFLAG, ICINV and END; and given plates join their target once
the giver's earlier vector work is complete, and leave the transfer. -/
def Obligations.StreamState : Prop :=
  (∀ (p : Site) (o : LayI) (s : State), Presents p (.vsetvl p o) s →
    let v := (regOf s p o.ra + o.imm.signExtend 64).toNat
    (1 ≤ v ∧ v ≤ 64 → exec (.vsetvl p o) s =
      .next (issuedAs s p (pcOf s p + 8) fun st => { st with vl := BitVec.ofNat 7 v })) ∧
    (v = 0 ∨ 64 < v → exec (.vsetvl p o) s = .next (trappedAs s p 0x01 (opc 0x04 0x00 o.bits) 0 0))) ∧
  (∀ (p : Site) (o : PgiveOps) (s : State), Presents p (.pgive p o) s →
    o.t.toFin ≠ p.stream → o.mask ||| ((s.cores[p.core]).streams[p.stream]).plates = ((s.cores[p.core]).streams[p.stream]).plates →
    exec (.pgive p o) s = .next (issuedAs s p (pcOf s p + 8) fun st => { st with
      plates := st.plates ^^^ o.mask
      giving := if o.mask = 0 then st.giving else st.giving ++ [⟨o.mask, o.t.toFin, st.seqNo⟩] })) ∧
  (∀ (p : Site) (o : LayI) (s : State), Presents p (.srd p o) s →
    let s' := s.loadCtx ((s.cores[p.core]).ctx.getD 0)
    exec (.srd p o) s = .next (issuedAs s' p (pcOf s p + 8) (putReg o.rd ((srdTable s' p).getD o.imm.toNat 0)))) ∧
  (∀ (p : Site) (o : LayI) (s : State), Presents p (.sflag p o) s →
    let k := s.cores[p.core]
    let s' : State := if o.imm.getLsbD 0 then
        { s with cores := s.cores.set p.core { k with
            tflags := k.tflags &&& ~~~(3#8 <<< (2 * p.stream.val)), vflags := k.vflags &&& ~~~(7#12 <<< (3 * p.stream.val)) } }
      else s
    exec (.sflag p o) s = .next (issuedAs s' p (pcOf s p + 8) (putReg o.rd (sflagWord k p.stream)))) ∧
  (∀ (p : Site) (s : State), Presents p (.icinv p) s → exec (.icinv p) s =
    .next (issuedAs { s with cores := s.cores.set p.core { (s.cores[p.core]) with icache := [] } } p (pcOf s p + 8) id)) ∧
  (∀ (p : Site) (s : State), Presents p (.endProg p) s → exec (.endProg p) s =
    .next (issuedAs s p (pcOf s p + 8) fun st => { st with ended := true })) ∧
  (∀ (p : Site) (s : State) (x : Transfer), s.live = true →
    ((s.cores[p.core]).streams[p.stream]).giving = [x] → x.target ≠ p.stream →
    (s.cores[p.core]).vecPending p.stream x.seqNo = false →
    Answers (.plateTransferDone p) s fun t =>
      Only [.cores] s t ∧ OnlyCore p.core s t ∧
      t.cores[p.core] = { (s.cores[p.core]) with streams := (t.cores[p.core]).streams } ∧
      (t.cores[p.core]).streams[p.stream] = { ((s.cores[p.core]).streams[p.stream]) with giving := [] } ∧
      (t.cores[p.core]).streams[x.target] = { ((s.cores[p.core]).streams[x.target]) with
        plates := ((s.cores[p.core]).streams[x.target]).plates ||| x.mask } ∧
      ∀ u, u ≠ p.stream → u ≠ x.target → (t.cores[p.core]).streams[u] = (s.cores[p.core]).streams[u])

/-! ### Semaphores (R187-R190, R229) -/

namespace Sys2Proof.Claims
open Sys2Proof.Machine

/-- The state with core c replaced. -/
def withCore (s : State) (c : Fin 96) (k : Core) : State := { s with cores := s.cores.set c k }

/-- The state with stream t of core c replaced. -/
def withStream (s : State) (c : Fin 96) (t : Fin 4) (st : Stream) : State :=
  withCore s c { (s.cores[c]) with streams := (s.cores[c]).streams.set t st }

/-- The site's stream. -/
def streamOf (s : State) (p : Site) : Stream := (s.cores[p.core]).streams[p.stream]

/-- Nothing the stream issued before the present instruction is incomplete. -/
def allDone (s : State) (p : Site) : Prop := (s.cores[p.core]).anyPending p.stream (streamOf s p).seqNo = false

/-- The module has power and no halt has reached its blocks. -/
def Alive (s : State) : Prop := s.sup.power = .running ∧ s.mem.haltStage < 2

/-- The engines of the core do work. -/
def coreRuns (s : State) (c : Fin 96) : Prop :=
  Alive s ∧ (s.cores[c]).mode = .active ∧ (s.cores[c]).draining = false

/-- A semaphore. -/
def semOf (s : State) (c : Fin 96) (k : BitVec 6) : Nat := ((s.cores[c]).sems[k.toFin]).toNat

/-- Core k after semaphore i is given the value v. -/
def setSem (k : Core) (i : BitVec 6) (v : Nat) : Core := { k with sems := k.sems.set i.toFin (BitVec.ofNat 16 v) }

end Sys2Proof.Claims

/-- R188-R190, R229: SEMINIT writes; SEMSIG adds, saturating at 65,535 and setting SEM_OVF, once earlier work is
complete; SEMACQ subtracts where the value suffices and nobody waits, and a satisfied wait does the same later, never
before an earlier waiter on the semaphore that could take its own amount.
Where the rules leave a point open it rests on the choices of log entry 15. -/
def Obligations.Semaphores : Prop :=
  (∀ (p : Site) (o : SemOps) (s : State), Presents p (.seminit p o) s →
    exec (.seminit p o) s =
      .next (issuedAs (withCore s p.core (setSem s.cores[p.core] o.k o.val.toNat)) p (pcOf s p + 8) id)) ∧
  (∀ (p : Site) (o : SemOps) (s : State), Presents p (.semsig p o) s → (streamOf s p).held = [] → allDone s p →
    (semOf s p.core o.k + o.val.toNat ≤ 65535 → exec (.semsig p o) s =
      .next (issuedAs (withCore s p.core (setSem s.cores[p.core] o.k (semOf s p.core o.k + o.val.toNat))) p (pcOf s p + 8) id)) ∧
    (65535 < semOf s p.core o.k + o.val.toNat → exec (.semsig p o) s =
      .next (issuedAs (withCore s p.core { (setSem s.cores[p.core] o.k 65535) with semOvf := true }) p (pcOf s p + 8) id))) ∧
  (∀ (p : Site) (o : SemOps) (s : State), Presents p (.semsig p o) s → (streamOf s p).held = [] → ¬ allDone s p →
    exec (.semsig p o) s = .next (issuedAs s p (pcOf s p + 8) fun st =>
      { st with held := [⟨st.seqNo, .sem o.k o.val⟩] })) ∧
  (∀ (p : Site) (o : SemOps) (s : State), Presents p (.semacq p o) s → (s.cores[p.core]).semOrder = [] →
    o.val.toNat ≤ semOf s p.core o.k → exec (.semacq p o) s =
      .next (issuedAs (withCore s p.core ((setSem s.cores[p.core] o.k (semOf s p.core o.k - o.val.toNat)).advanceEpoch
        p.stream)) p (pcOf s p + 8) id)) ∧
  (∀ (p : Site) (o : SemOps) (s : State), Presents p (.semacq p o) s → semOf s p.core o.k < o.val.toNat →
    exec (.semacq p o) s = .next (withStream (withCore s p.core { (s.cores[p.core]) with
      semOrder := (s.cores[p.core]).semOrder ++ [p.stream] }) p.core p.stream
      { (streamOf s p) with mode := .wait, wait := .semacq o.k o.val, waitSince := s.glob.tick })) ∧
  (∀ (p : Site) (s : State) (i : BitVec 6) (n : BitVec 16), coreRuns s p.core → (streamOf s p).mode = .wait →
    (streamOf s p).wait = .semacq i n → (s.cores[p.core]).semOrder = [p.stream] → n.toNat ≤ semOf s p.core i →
    exec (.semacqSatisfied p) s =
      .next (issuedAs (withCore s p.core { ((setSem s.cores[p.core] i (semOf s p.core i - n.toNat)).advanceEpoch p.stream) with
        semOrder := [] }) p (pcOf s p + 8) id)) ∧
  (∀ (p : Site) (s : State) (u : Fin 4) (i : BitVec 6) (n m : BitVec 16), (streamOf s p).wait = .semacq i n →
    u ∈ (s.cores[p.core]).semOrder.takeWhile (fun v => v ≠ p.stream) →
    ((s.cores[p.core]).streams[u]).wait = .semacq i m → m.toNat ≤ semOf s p.core i →
    ∀ t, exec (.semacqSatisfied p) s ≠ .next t)

/-! ### Fences (R187, R191-R194, R230, R350, R353) -/

namespace Sys2Proof.Claims
open Sys2Proof.Machine

/-- The fence an instruction names: its field, or a register that holds a number below 16,384 (R230). -/
def Names (s : State) (p : Site) (fence : BitVec 14) (reg : Bool) (rf : BitVec 5) (f : BitVec 14) : Prop :=
  if reg = true then regOf s p rf = f.zeroExtend 64 else fence = f

/-- The core's context with its entry and a fence's entry, all on chip. -/
structure FenceOnChip (s : State) (p : Site) (f : BitVec 14) (c : BitVec 9) (ce fe : List Word) : Prop where
  ctx : (s.cores[p.core]).ctx = some c
  ctxE : Tbl.find? s.host.ctxs c.toNat = some ce
  fenceE : Tbl.find? s.host.fences f.toNat = some fe

/-- The signal right (R353): the fence is LIVE, and the context is 0, owns it, or shares it for signals in its group. -/
def SignalRight (c : BitVec 9) (ce fe : List Word) : Prop :=
  fLive fe = true ∧ (c = 0 ∨ fOwner fe = c ∨ (fShare fe = 2 ∧ fSgroup fe ≠ 0 ∧ fSgroup fe = ctxSgroup ce))

/-- The wait right (R353): also a fence shared for waits only. -/
def WaitRight (c : BitVec 9) (ce fe : List Word) : Prop :=
  fLive fe = true ∧
    (c = 0 ∨ fOwner fe = c ∨ ((fShare fe = 1 ∨ fShare fe = 2) ∧ fSgroup fe ≠ 0 ∧ fSgroup fe = ctxSgroup ce))

/-- A fence satisfies a wait for v: it holds v or a value after it in serial order, or it carries an error (R350). -/
def Met (v : Word) (fe : List Word) : Prop :=
  fValue fe = v ∨ 2 ^ 63 < (v.toNat + 2 ^ 64 - (fValue fe).toNat) % 2 ^ 64 ∨ fError fe = true

/-- What s31 shows after a wait: 1 where the fence carries an error. -/
def errWord (fe : List Word) : Word := if fError fe = true then 1 else 0

end Sys2Proof.Claims

/-- R187, R192, R195, R350, R353: FSIG with the right sends the signal once earlier work is complete; FWAIT with the right
on a fence that satisfies it acquires and writes s31, else it waits, and the satisfied wait ends the same way; a fence the
context may not use, or no fence at all, traps FENCE_RIGHT with the number.
Where the rules leave a point open it rests on the choices of log entry 15. -/
def Obligations.Fences : Prop :=
  (∀ (p : Site) (o : LayF) (s : State) (f : BitVec 14) (c : BitVec 9) (ce fe : List Word), Presents p (.fsig p o) s →
    Names s p o.fence o.reg o.rf f → FenceOnChip s p f c ce fe → SignalRight c ce fe →
    (streamOf s p).held = [] → allDone s p →
    exec (.fsig p o) s = .next (issuedAs { s with host := { s.host with
      inbox := s.host.inbox ++ [⟨f, regOf s p o.rv, false, .program⟩] } } p (pcOf s p + 8) id)) ∧
  (∀ (p : Site) (o : LayF) (s : State) (f : BitVec 14) (c : BitVec 9) (ce fe : List Word), Presents p (.fwait p o) s →
    Names s p o.fence o.reg o.rf f → FenceOnChip s p f c ce fe → WaitRight c ce fe →
    (Met (regOf s p o.rv) fe → exec (.fwait p o) s =
      .next (issuedAs (withCore s p.core (s.cores[p.core].advanceEpoch p.stream)) p (pcOf s p + 8) (putReg 31 (errWord fe)))) ∧
    (¬ Met (regOf s p o.rv) fe → exec (.fwait p o) s = .next (withStream s p.core p.stream { (streamOf s p) with
      mode := .wait, wait := .fwait f (regOf s p o.rv) (opc 0x29 0x01 o.bits), waitSince := s.glob.tick }))) ∧
  (∀ (p : Site) (s : State) (f : BitVec 14) (v w : Word) (fe : List Word), coreRuns s p.core →
    (streamOf s p).mode = .wait → (streamOf s p).wait = .fwait f v w → Tbl.find? s.host.fences f.toNat = some fe →
    Met v fe → exec (.fwaitSatisfied p) s =
      .next (issuedAs (withCore s p.core (s.cores[p.core].advanceEpoch p.stream)) p (pcOf s p + 8) (putReg 31 (errWord fe)))) ∧
  (∀ (p : Site) (o : LayF) (s : State) (f : BitVec 14) (c : BitVec 9) (ce fe : List Word),
    (Presents p (.fsig p o) s → Names s p o.fence o.reg o.rf f → FenceOnChip s p f c ce fe → ¬ SignalRight c ce fe →
      exec (.fsig p o) s = .next (trappedAs s p 0x0A (opc 0x29 0x00 o.bits) (f.zeroExtend 64) 0)) ∧
    (Presents p (.fwait p o) s → Names s p o.fence o.reg o.rf f → FenceOnChip s p f c ce fe → ¬ WaitRight c ce fe →
      exec (.fwait p o) s = .next (trappedAs s p 0x0A (opc 0x29 0x01 o.bits) (f.zeroExtend 64) 0)) ∧
    (Presents p (.fsig p o) s → o.reg = true → 16384 ≤ (regOf s p o.rf).toNat →
      exec (.fsig p o) s = .next (trappedAs s p 0x0A (opc 0x29 0x00 o.bits) (regOf s p o.rf) 0)))

/-! ### SYNC, traps and aborts (R186, R194-R202) -/

namespace Sys2Proof.Claims
open Sys2Proof.Machine

/-- LIMIT is not 0 and the stream has waited that many ticks (R194). -/
def limitReached (s : State) (p : Site) : Prop :=
  (s.cores[p.core]).waitlimit ≠ 0 ∧
    (s.cores[p.core]).waitlimit.toNat ≤ (s.glob.tick - (streamOf s p).waitSince).toNat

end Sys2Proof.Claims

/-- R186, R231: SYNC passes at once where nothing it names is outstanding, else the stream waits until it is. -/
def Obligations.Sync : Prop :=
  (∀ (p : Site) (o : SyncOps) (s : State), Presents p (.sync p o) s →
    ((s.cores[p.core]).pending p.stream (streamOf s p).seqNo o = false →
      exec (.sync p o) s = .next (issuedAs s p (pcOf s p + 8) id)) ∧
    ((s.cores[p.core]).pending p.stream (streamOf s p).seqNo o = true →
      Answers (.sync p o) s fun t => t = withStream (issuedAs s p (pcOf s p + 8) id) p.core p.stream
        { (streamOf (issuedAs s p (pcOf s p + 8) id) p) with mode := .wait, wait := .sync o (streamOf s p).seqNo })) ∧
  (∀ (p : Site) (o : SyncOps) (n : Nat) (s : State), coreRuns s p.core → (streamOf s p).mode = .wait →
    (streamOf s p).wait = .sync o n → (s.cores[p.core]).pending p.stream n o = false →
    exec (.syncDone p) s = .next (withStream s p.core p.stream { (streamOf s p) with mode := .run, wait := .none }))

/-- R195, R196, R206, R235: TRAP and an illegal word stop their stream in DRAIN with its pc, code and DETAIL, an illegal
word once its bytes have been fetched, till when the stream waits for them (R175); a wait that
reaches its limit traps WAIT_LIMIT. No register, no memory and no other stream changes. -/
def Obligations.TrapsTaken : Prop :=
  (∀ (p : Site) (imm : BitVec 32) (s : State), Presents p (.trap p imm) s →
    exec (.trap p imm) s = .next (trappedAs s p 0x0D (opc 0x3F 0x01 (0#20 ++ imm)) (imm.zeroExtend 64) 0)) ∧
  (∀ (p : Site) (w0 w1 : Word) (d : Nat) (s : State), s.mayIssue p = true → illegalDetail w0 w1 = some d →
    (s.fetched p w0 = true → exec (.illegal p w0 w1) s = .next (trappedAs s p 0x01 w0 (BitVec.ofNat 64 d) 0)) ∧
    (s.fetched p w0 = false → exec (.illegal p w0 w1) s =
      .next (withStream s p.core p.stream { (streamOf s p) with mode := .wait, wait := .fetch }))) ∧
  (∀ (p : Site) (s : State) (i : BitVec 6) (n : BitVec 16), coreRuns s p.core → (streamOf s p).mode = .wait →
    (streamOf s p).wait = .semacq i n → limitReached s p → semOf s p.core i < n.toNat →
    exec (.waitLimit p) s = .next (trappedAs s p 0x0B (opc 0x28 0x02 (⟨i, n⟩ : SemOps).bits) (i.zeroExtend 64) 0)) ∧
  (∀ (p : Site) (s : State) (f : BitVec 14) (v w : Word) (fe : List Word), coreRuns s p.core →
    (streamOf s p).mode = .wait → (streamOf s p).wait = .fwait f v w → limitReached s p →
    Tbl.find? s.host.fences f.toNat = some fe → ¬ Met v fe →
    exec (.waitLimit p) s = .next (trappedAs s p 0x0B w (f.zeroExtend 64) 0))

namespace Sys2Proof.Claims
open Sys2Proof.Machine

/-- The eight words of a trap record (R197): SEQ, CODE, CONTEXT, CORE, STREAM and MULTI; PC; INSN; DETAIL; STOPPC; ADDR; the
LAUNCH's position and queue; the time. -/
def recordWords (s : State) (p : Site) (c : BitVec 9) (e : List Word) (x : TrapInfo) : List Word :=
  [ ((ctxTrseq e).zeroExtend 64 <<< 32) ||| (x.code.zeroExtend 64 <<< 24) ||| (c.zeroExtend 64 <<< 15) |||
      (BitVec.ofNat 64 p.core.val <<< 8) ||| (BitVec.ofNat 64 p.stream.val <<< 6) ||| (truth x.multi <<< 5),
    x.pc.zeroExtend 64, x.insn, x.detail, x.stoppc.zeroExtend 64, x.addr.zeroExtend 64,
    (match (streamOf s p).launch with
     | some l => (l.pos.zeroExtend 64 <<< 32) ||| l.queue.zeroExtend 64
     | none => 0),
    s.glob.tick ]

/-- A context entry after its trap SEQ has advanced (R198). -/
def seqBumped (e : List Word) : List Word := setEw e 6 (putFld (ew e 6) 32 32 ((ctxTrseq e).toNat + 1))

/-- TRCONS of a context entry. -/
def trcons (e : List Word) : BitVec 32 := (ew e 4 >>> 32).truncate 32

/-- The ring has a free slot by a value of TRCONS (R198). -/
def ringFree (e : List Word) (cons : BitVec 32) : Prop := (ctxTrseq e - cons).toNat < 2 ^ ctxTrlog e

/-- Where the next record goes: slot SEQ mod the ring's size, of 64 bytes (R198). -/
def recordDva (e : List Word) : Nat := ctxTrbase e + 64 * ((ctxTrseq e).toNat % 2 ^ ctxTrlog e)

/-- The stream drains, and everything it had issued is complete. -/
structure Drained (s : State) (p : Site) : Prop where
  runs : coreRuns s p.core
  mode : (streamOf s p).mode = .drain
  done : allDone s p

/-- The core's context and its entry, on chip. -/
structure CtxOnChip (s : State) (p : Site) (c : BitVec 9) (e : List Word) : Prop where
  ctx : (s.cores[p.core]).ctx = some c
  entry : Tbl.find? s.host.ctxs c.toNat = some e

/-- The error fence of a stream's LAUNCH takes its error value with the error flag (R196). -/
def errorSignals (st : Stream) : List FenceSig :=
  match st.launch with
  | some l => [⟨l.efence, l.evalue, true, .command⟩]
  | none => []

/-- The ABORT commands that wait for the site's stream (R202). -/
def abortsOf (s : State) (p : Site) : List (BitVec 13) :=
  s.takenWhere fun x => x.stage == .running && cmdKind x.words == 6 && cmdCore x.words == p.core.val &&
    cmdStream x.words == p.stream

/-- The faults of the site's stream are cleared, those of other streams kept (R201). -/
def faultsCleared (p : Site) (k t : Core) : Prop :=
  (∀ q : Fin 4, t.pfault[q] = if nfld k.pfault[q] 58 2 = p.stream.val then 0 else k.pfault[q]) ∧
  t.opFault = (if nfld k.opFault 60 2 = p.stream.val then 0 else k.opFault) ∧
  t.vxFault = (if nfld k.vxFault 60 2 = p.stream.val then 0 else k.vxFault) ∧
  t.dmaFault = (if nfld k.dmaFault 59 3 = p.stream.val then 0 else k.dmaFault) ∧
  t.dmaHalted.getLsbD p.stream.val = false

end Sys2Proof.Claims

/-- R196-R202: when a trapped stream's earlier work is complete, its record goes into its context's ring at slot SEQ, SEQ
advances, its error fence is signalled with the error flag, and it is TRAPPED; a full ring takes no record but SEQ advances;
an ABORT that came meanwhile then takes effect. An aborted stream records ABORTED at the instruction it stopped at, signals
its error fence, and becomes IDLE, its plates and faults cleared, its LAUNCH over and the ABORT complete; a context's teardown
aborts without record and signal.
Where the rules leave a point open it rests on the choices of log entry 21. -/
def Obligations.TrapDrain : Prop :=
  (∀ (p : Site) (s s2 : State) (x : TrapInfo) (c : BitVec 9) (e : List Word), Drained s p →
    (streamOf s p).trap = some x → x.code ≠ 0x0F → (streamOf s p).aborting = false → (streamOf s p).silent = false →
    CtxOnChip s p c e → ringFree e (trcons e) →
    (s.setCtxE c (seqBumped e)).blockWrite .engine c (recordDva e) (wordBytes (recordWords s p c e x)) = (s2, .ok ()) →
    exec (.trapDrainComplete p) s = .next (withStream { s2 with host := { s2.host with
      inbox := s2.host.inbox ++ errorSignals (streamOf s p) } } p.core p.stream { (streamOf s2 p) with mode := .trapped })) ∧
  (∀ (p : Site) (s s1 : State) (x : TrapInfo) (c : BitVec 9) (e e1 : List Word), Drained s p →
    (streamOf s p).trap = some x → x.code ≠ 0x0F → (streamOf s p).aborting = false → (streamOf s p).silent = false →
    CtxOnChip s p c e → ¬ ringFree e (trcons e) → s.readEntry s.host.ctxbase 32 c.toNat = (s1, e1) →
    ¬ ringFree e (trcons e1) →
    Answers (.trapDrainComplete p) s fun t =>
      (t.cores[p.core]).trapDrop = true ∧ (streamOf t p).mode = .trapped ∧ t.mem = s1.mem ∧
      Tbl.get [] t.host.ctxs c.toNat = seqBumped e ∧
      t.host.inbox = s.host.inbox ++ errorSignals (streamOf s p) ∧ Only [.cores, .mem, .host] s t ∧ OnlyCore p.core s t) ∧
  (∀ (p : Site) (s : State) (x : TrapInfo), Drained s p →
    (streamOf s p).trap = some x → x.code ≠ 0x0F → (streamOf s p).aborting = true →
    Answers (.trapDrainComplete p) s fun t =>
      (streamOf t p).mode = .idle ∧ (streamOf t p).plates = 0 ∧ (streamOf t p).launch = none ∧
      faultsCleared p s.cores[p.core] t.cores[p.core] ∧ Only [.cores, .mem, .host] s t ∧ OnlyCore p.core s t) ∧
  (∀ (p : Site) (s s2 : State) (c : BitVec 9) (e : List Word) (l : LaunchRec) (qa : BitVec 13) (y z : QCmd), Drained s p →
    (streamOf s p).aborting = true → (streamOf s p).silent = false → (streamOf s p).trap = none →
    CtxOnChip s p c e → ringFree e (trcons e) →
    (s.setCtxE c (seqBumped e)).blockWrite .engine c (recordDva e) (wordBytes (recordWords s p c e
      { code := 0x0F, pc := pcOf s p, insn := 0, detail := 0, stoppc := pcOf s p, addr := 0, multi := false })) =
      (s2, .ok ()) →
    (streamOf s p).launch = some l → s.takenOf l.queue = some z → z.stage = .running → cmdKind z.words = 1 →
    abortsOf s p = [qa] → s.takenOf qa = some y → cmdCfen y.words = true →
    l.queue ≠ qa →
    Answers (.abortDrainComplete p) s fun t =>
      (streamOf t p).mode = .idle ∧ (streamOf t p).plates = 0 ∧ (streamOf t p).launch = none ∧
      faultsCleared p s.cores[p.core] t.cores[p.core] ∧ Only [.cores, .mem, .host] s t ∧ OnlyCore p.core s t ∧
      t.host.inbox = s2.host.inbox ++ [⟨l.efence, l.evalue, true, .command⟩, ⟨cmdCfence y.words, cmdCvalue y.words, false, .command⟩] ∧
      t.takenOf l.queue = none ∧ t.takenOf qa = none ∧
      ((∃ u, u ≠ p.stream ∧ ((s.cores[p.core]).streams[u]).mode ≠ .idle) →
        (∀ f ∈ cmdFences z.words ++ cmdFences y.words, (Tbl.find? s2.host.fences f.toNat).isSome = true) →
        (∀ q ∈ [l.queue, qa], (Tbl.find? s2.host.queues q.toNat).isSome = true) → t.mem = s2.mem)) ∧
  (∀ (p : Site) (s : State), coreRuns s p.core → (streamOf s p).mode = .drain → (streamOf s p).aborting = true →
    (streamOf s p).trap = none → allDone s p → (streamOf s p).silent = true → (streamOf s p).launch = none →
    s.host.taken = [] →
    Answers (.abortDrainComplete p) s fun t =>
      (streamOf t p).mode = .idle ∧ (streamOf t p).plates = 0 ∧ OnlyCore p.core s t ∧
      Only [.cores, .mem, .host] s t ∧ t.host.inbox = s.host.inbox)

/-! ### Programs on streams (R171-R174, R343, R346) -/

/-- R171, R172, R338, R343: a LAUNCH that waits starts on its IDLE stream of a core that serves its context or none, with pc
ENTRY, s1 to s8 from the command and the other registers zero, vl 64, its plates, and the stream's acquire epoch advanced; END then completes the program when its
earlier work is complete, signals its completion fence, leaves the stream IDLE without plates and lets its queue go on: HEAD
passes the LAUNCH's two slots, where it still stands at them. -/
def Obligations.ProgramRuns : Prop :=
  (∀ (p : Site) (s : State) (q : BitVec 13) (x : QCmd), coreRuns s p.core → s.nextLaunch p.core p.stream = some q →
    s.takenOf q = some x → (streamOf s p).mode = .idle →
    ((s.cores[p.core]).ctx = some (qCtx (s.queueV q)) ∨ (s.cores[p.core]).ctx = none) →
    (s.cores[p.core]).platesElsewhere p.stream &&& cmdPlates x.words = 0 →
    Answers (.launchStart p) s fun t =>
      let st := streamOf t p
      st.mode = .run ∧ st.pc = (ew x.words 2).truncate 48 ∧ st.vl = 64 ∧
      (∀ r : BitVec 5, regOf t p r = if 1 ≤ r.toNat ∧ r.toNat ≤ 8 then ew x.words (r.toNat + 3) else 0) ∧
      (t.cores[p.core]).ctx = some (qCtx (s.queueV q)) ∧
      ((s.cores[p.core]).ctx ≠ none ∨ (s.cores[p.core]).lastCtx = some (qCtx (s.queueV q)) →
        st.plates = (streamOf s p).plates ||| cmdPlates x.words) ∧
      ((s.cores[p.core]).ctx = none → (s.cores[p.core]).lastCtx ≠ some (qCtx (s.queueV q)) →
        st.plates = cmdPlates x.words ∧ (t.cores[p.core]).ns = [] ∧ (t.cores[p.core]).icache = [] ∧
        (t.cores[p.core]).tlb = [] ∧ ∀ g : Fin 384, (t.cores[p.core]).gens[g] = Gen.seeded 0 0 g.val) ∧ st.ended = false ∧ st.trap = none ∧
      st.launch = some { queue := q, pos := x.pos, cfence := cmdCfence x.words, cvalue := ew x.words 1,
                         efence := cmdEfence x.words, evalue := ew x.words 3 } ∧
      (t.cores[p.core]).epochs[p.stream] = (s.cores[p.core]).epochs[p.stream] + 1 ∧
      t.takenOf q = some { x with stage := .running } ∧
      Only [.cores, .host] s t ∧ OnlyCore p.core s t) ∧
  (∀ (p : Site) (s : State) (l : LaunchRec) (x : QCmd) (qe : List Word), coreRuns s p.core → (streamOf s p).mode = .run →
    (streamOf s p).ended = true → (streamOf s p).launch = some l → allDone s p → s.takenOf l.queue = some x →
    x.stage = .running → cmdKind x.words = 1 → abortsOf s p = [] → Tbl.find? s.host.queues l.queue.toNat = some qe →
    2 < qe.length →
    Answers (.programComplete p) s fun t =>
      (streamOf t p).mode = .idle ∧ (streamOf t p).plates = 0 ∧ (streamOf t p).launch = none ∧
      (streamOf t p).regs = (streamOf s p).regs ∧ t.takenOf l.queue = none ∧
      qHead (Tbl.get [] t.host.queues l.queue.toNat) = (if qHead qe = x.pos then x.pos + 2 else qHead qe) ∧
      (∀ q : BitVec 13, q ≠ l.queue → t.takenOf q = s.takenOf q) ∧
      t.host.inbox = s.host.inbox ++ [⟨l.cfence, l.cvalue, false, .command⟩] ∧
      Only [.cores, .mem, .host] s t ∧ OnlyCore p.core s t)

/-- R174, R175, R205: an instruction whose words the instruction cache does not hold leaves its stream in WAIT for the fetch,
and nothing else changes; the fetch brings the line from the near store where the leaf has X and the data is good, and the
stream runs on; it traps FETCH_XLATE where the leaf has no X.
Where the rules leave a point open it rests on the choices of log entries 12 and 14. -/
def Obligations.InstructionFetch : Prop :=
  (∀ (i : Instr) (p : Site) (w x : Word) (s : State), i.site = some p → encode i = some (w, x) → s.mayIssue p = true →
    s.fetched p w = false →
    exec i s = .next (withStream s p.core p.stream { (streamOf s p) with mode := .wait, wait := .fetch })) ∧
  (∀ (p : Site) (s : State) (f : Leaf) (x : NsLine), s.mayIssue p = true →
    (∀ e ∈ (s.cores[p.core]).icache, e.1 ≠ (pcOf s p).toNat / 256) → (s.cores[p.core]).ctx.isSome = true →
    (s.cores[p.core]).tlbFind (pcOf s p).toNat = some f → f.x = true →
    (s.cores[p.core]).nsFind (leafDpa f (pcOf s p).toNat / 256) = some x → x.unref = false → x.poison = false →
    Answers (.icacheFill p false .none) s fun t =>
      (∃ e ∈ (t.cores[p.core]).icache, e = ((pcOf s p).toNat / 256, x.data)) ∧ pcOf t p = pcOf s p ∧
      ((streamOf s p).wait = .fetch → (streamOf t p).mode = .run) ∧
      Only [.cores] s t ∧ OnlyCore p.core s t ∧ (streamOf t p).regs = (streamOf s p).regs) ∧
  (∀ (p : Site) (s : State) (f : Leaf), s.mayIssue p = true →
    (∀ e ∈ (s.cores[p.core]).icache, e.1 ≠ (pcOf s p).toNat / 256) → (s.cores[p.core]).ctx.isSome = true →
    (s.cores[p.core]).tlbFind (pcOf s p).toNat = some f → f.x = false →
    Answers (.icacheFill p false .none) s fun t =>
      (streamOf t p).mode = .drain ∧ (streamOf t p).pc = (streamOf s p).pc ∧
      (streamOf t p).trap = some { code := 0x03, pc := pcOf s p, insn := 0, detail := 0, stoppc := pcOf s p,
                                   addr := pcOf s p, multi := false } ∧ Only [.cores] s t)

/-! ### Core states and the mesh clock (R32, R34-R38, R43) -/

namespace Sys2Proof.Claims
open Sys2Proof.Machine

/-- A register write of this master reaches its block (R33, R307, R503). -/
def pathOpen (s : State) (m : RegMaster) : Prop :=
  s.sup.power = .running ∧ s.cur.deepIdle = false ∧ (m = .curator → s.cur.restarting = false) ∧
    (m = .host → s.mem.haltStage < 2)

/-- CTL_REJECT is set and nothing else changes (R37). -/
def rejected (s : State) : State := { s with glob := { s.glob with ctlReject := true } }

/-- The mesh clock runs, with its count of ticks without need at 0 (R32). -/
def meshWoken (s : State) : State := { s with glob := { s.glob with meshRun := true, meshIdle := 0 } }

/-- A core number as a command carries it. -/
def num7 (c : Fin 96) : BitVec 7 := BitVec.ofNat 7 c.val

end Sys2Proof.Claims

/-- R37, R38: QUARANTINE of a GATED core takes effect at once; of an ACTIVE one it stops issue and drains, and is
complete when the quad is empty; RELEASE and RETIRE act on a QUARANTINED core; every other use is rejected. A QUARANTINED
core needs the mesh clock (R32). -/
def Obligations.CoreStates : Prop :=
  (∀ (m : RegMaster) (c : Fin 96) (s : State), pathOpen s m →
    ((s.cores[c]).mode = .gated → exec (.quarantine m (num7 c)) s =
      .next (meshWoken (withCore s c { (s.cores[c]) with mode := .quarantined }))) ∧
    ((s.cores[c]).mode = .active → Answers (.quarantine m (num7 c)) s fun t =>
      (t.cores[c]).draining = true ∧ (t.cores[c]).mode = .active ∧ OnlyCore c s t ∧ Only [.cores] s t) ∧
    ((s.cores[c]).mode = .quarantined ∨ (s.cores[c]).mode = .retired →
      exec (.quarantine m (num7 c)) s = .next (rejected s)) ∧
    ((s.cores[c]).mode = .quarantined → (∀ u : Fin 4, ((s.cores[c]).streams[u]).launch = none) → s.host.taken = [] →
      Answers (.release m (num7 c)) s fun t =>
        (t.cores[c]).mode = .gated ∧ OnlyCore c s t ∧ Only [.cores, .mem] s t) ∧
    ((s.cores[c]).mode ≠ .quarantined → exec (.release m (num7 c)) s = .next (rejected s)) ∧
    ((s.cores[c]).mode = .quarantined → (∀ u : Fin 4, ((s.cores[c]).streams[u]).launch = none) → s.host.taken = [] →
      Answers (.retire m (num7 c)) s fun t =>
        (t.cores[c]).mode = .retired ∧ OnlyCore c s t ∧ Only [.cores, .mem] s t) ∧
    ((s.cores[c]).mode ≠ .quarantined → exec (.retire m (num7 c)) s = .next (rejected s))) ∧
  (∀ (m : RegMaster) (n : BitVec 7) (s : State), pathOpen s m → 96 ≤ n.toNat →
    exec (.quarantine m n) s = .next (rejected s) ∧ exec (.release m n) s = .next (rejected s) ∧
    exec (.retire m n) s = .next (rejected s)) ∧
  (∀ (c : Fin 96) (s : State), Alive s → (s.cores[c]).mode = .active → (s.cores[c]).draining = true →
    (∀ a : Fin 4, ((s.cores[c]).arrs[a]).flights = []) → (∀ q : Fin 4, (s.cores[c]).outQ[q] = []) →
    Answers (.quarantineDrainDone c) s fun t =>
      (t.cores[c]).mode = .quarantined ∧ (t.cores[c]).draining = false ∧ (t.cores[c]).wq = [] ∧ OnlyCore c s t ∧
      Only [.cores, .mem, .host] s t)

/-- R32, R35, R36, R38, R171: a GATED core for which a LAUNCH, COPY or QUERY waits wakes ACTIVE, once the mesh runs, with
semaphores, plates, accumulators, descriptors and flags clear and its generators kept; an ACTIVE core that has been idle for
DELAY ticks is gated with its writes accepted and its caches empty; the mesh clock stops after 250 ticks in which nothing
needed it, and starts again. A core whose streams are IDLE switches to the context of a launch that
waits: its queued writes are accepted, and near store, instruction cache, translations, semaphores, plates, accumulators,
descriptors and flags are cleared and the generators seeded.
Where the rules leave a point open it rests on the choices of log entry 45. -/
def Obligations.CoreWakeAndGate : Prop :=
  (∀ (c : Fin 96) (q : BitVec 13) (x : QCmd) (s : State), Alive s → s.glob.released = true → s.cur.deepIdle = false →
    s.glob.meshRun = true → (s.cores[c]).mode = .gated → Tbl.find? s.host.taken q.toNat = some x → x.stage = .waiting →
    cmdKind x.words = 1 ∨ cmdKind x.words = 2 ∨ cmdKind x.words = 7 → qCore (s.queueV q) = c.val →
    Answers (.coreWake c) s fun t =>
      let k := t.cores[c]
      k.mode = .active ∧ k.idleTicks = 0 ∧ k.sems = Vector.replicate 64 0 ∧ k.plates = [] ∧ k.tflags = 0 ∧ k.vflags = 0 ∧
      (∀ a : Fin 4, (k.arrs[a]).acc = []) ∧ (∀ a : Fin 4, k.odesc[a] = Vector.replicate 8 0) ∧
      k.gens = (s.cores[c]).gens ∧ OnlyCore c s t ∧ Only [.cores] s t) ∧
  (∀ (c : Fin 96) (s : State), coreRuns s c → (s.cores[c]).idle = true → s.demand c = false → s.glob.gatedelay ≠ 0 →
    s.glob.gatedelay.toNat ≤ (s.cores[c]).idleTicks →
    Answers (.coreGate c) s fun t =>
      let k := t.cores[c]
      k.mode = .gated ∧ k.wq = [] ∧ k.ns = [] ∧ k.icache = [] ∧ k.tlb = [] ∧ k.gens = (s.cores[c]).gens ∧
      OnlyCore c s t ∧ Only [.cores, .mem, .host] s t) ∧
  (∀ s : State, s.sup.power = .running → s.glob.meshRun = true → s.meshBusy = false → 250 ≤ s.glob.meshIdle →
    exec .meshClockStop s = .next { s with glob := { s.glob with meshRun := false } }) ∧
  (∀ s : State, s.sup.power = .running → s.glob.meshRun = false → s.glob.serviceRun = true → s.cur.deepIdle = false →
    exec .meshClockStart s = .next (meshWoken s)) ∧
  (∀ (c : Fin 96) (s : State) (x : BitVec 9), coreRuns s c → s.switchTo c = some x →
    (∀ u : Fin 4, ((s.cores[c]).streams[u]).mode = .idle) → (s.cores[c]).quadBusy = false → (s.cores[c]).dmaQ = [] →
    Answers (.contextSwitch c) s fun t =>
      let k := t.cores[c]
      k.ctx = some x ∧ k.wq = [] ∧ k.ns = [] ∧ k.icache = [] ∧ k.tlb = [] ∧ k.tlbUpper = [] ∧ k.plates = [] ∧
      k.sems = Vector.replicate 64 0 ∧ k.handoff = [] ∧ k.tflags = 0 ∧ k.vflags = 0 ∧
      (∀ a : Fin 4, (k.arrs[a]).acc = []) ∧ (∀ a : Fin 4, k.odesc[a] = Vector.replicate 8 0) ∧
      (∀ g : Fin 384, k.gens[g] = Gen.seeded 0 0 g.val) ∧ (∀ u : Fin 4, (k.streams[u]).plates = 0) ∧
      OnlyCore c s t ∧ Only [.cores, .mem, .host] s t)

/-! ### DMA (R215-R217, R253-R259, R324) -/

namespace Sys2Proof.Claims
open Sys2Proof.Machine

/-- A 48-bit address register of an instruction. -/
def adr (s : State) (p : Site) (r : BitVec 5) : Addr := (regOf s p r).truncate 48

/-- The D-layout instructions of the DMA queue, and the operation each one captures from its registers at issue. -/
def dmaD : List ((Site → LayD → Instr) × (State → Site → LayD → DmaOp)) :=
  [ (.dcopy, fun s p o => .copy (adr s p o.r1) (adr s p o.r2) 1 (regOf s p o.r3).toNat 0 0 false),
    (.dgather, fun s p o => .gather (adr s p o.r1) (adr s p o.r2) (adr s p o.r3) (regOf s p o.r4).toNat),
    (.dscatter, fun s p o => .scatter (adr s p o.r1) (adr s p o.r2) (adr s p o.r3) (regOf s p o.r4).toNat),
    (.nswb, fun s p o => .nswb (adr s p o.r1) (regOf s p o.r2).toNat),
    (.nsinv, fun s p o => .nsinv (adr s p o.r1) (regOf s p o.r2).toNat),
    (.nswbinv, fun s p o => .nswbinv (adr s p o.r1) (regOf s p o.r2).toNat) ]

/-- STASH and UNSTASH with the operation each captures. -/
def dmaS : List ((Site → LayS → Instr) × (State → Site → LayS → DmaOp)) :=
  [ (.stash, fun s p o => .stash (adr s p o.r1) (adr s p o.r2) (adr s p o.r4) (regOf s p o.r3).toNat o),
    (.unstash, fun s p o => .unstash (adr s p o.r1) (adr s p o.r2) (adr s p o.r4) (regOf s p o.r3).toNat o) ]

/-- What a copy, gather, scatter, maintenance or stash operation moves: 0 where its count or length reads zero. -/
def moves : DmaOp → Nat
  | .copy _ _ rows len _ _ _ => rows * len
  | .gather _ _ _ n => n
  | .scatter _ _ _ n => n
  | .nswb _ n => n
  | .nsinv _ n => n
  | .nswbinv _ n => n
  | .stash _ _ _ n _ => n
  | .unstash _ _ _ n _ => n

/-- The multiple an element count must be, by stash form (R217). -/
def stashUnit (o : LayS) : Nat := if o.sfmt = 0 then 2 else if o.sfmt = 1 then 32 else 8

/-- The DMA queue of core c with an instruction of the site added: it starts at once where its channel is empty (R254). One
with nothing to move is complete at acceptance. -/
def queued (s : State) (p : Site) (insn : Word) (op : DmaOp) : State :=
  if moves op = 0 then s else
  let k := s.cores[p.core]
  withCore s p.core { k with dmaQ := k.dmaQ ++
    [{ channel := p.stream.castSucc, seqNo := (streamOf s p).seqNo, pc := pcOf s p, insn := insn, op := op,
       keys := (Tbl.get CtxSec.none s.reg.ctxs (k.ctx.getD 0).toNat).ownerKeys,
       started := !k.dmaQ.any fun d => d.channel = p.stream.castSucc, queue := 0 }] }

/-- Instructions of the streams in the DMA queue of a core. -/
def depth (s : State) (c : Fin 96) : Nat := ((s.cores[c]).dmaQ.filter fun d => d.channel ≠ 4).length

end Sys2Proof.Claims

/-- R215-R217, R254: a DMA instruction enters the queue with the register values of its issue, unless its count or length is
zero, and the stream goes on at the next instruction; memory and every register stay. -/
def Obligations.DmaAccepted : Prop :=
  (∀ e ∈ dmaD, ∀ (p : Site) (o : LayD) (s : State), Presents p (e.1 p o) s → depth s p.core < 16 →
    exec (e.1 p o) s = .next (issuedAs (queued s p ((encode (e.1 p o)).getD (0, 0)).1 (e.2 s p o)) p (pcOf s p + 8) id)) ∧
  (∀ (p : Site) (o : LayD) (ds ss : BitVec 32) (s : State), Presents p (.dcopy2d p o ds ss) s → depth s p.core < 16 →
    exec (.dcopy2d p o ds ss) s = .next (issuedAs (queued s p (opc 0x08 0x01 o.bits)
      (.copy (adr s p o.r1) (adr s p o.r2) (regOf s p o.r4).toNat (regOf s p o.r3).toNat ds.toNat ss.toNat true)) p
      (pcOf s p + 16) id)) ∧
  (∀ e ∈ dmaS, ∀ (p : Site) (o : LayS) (s : State), Presents p (e.1 p o) s → depth s p.core < 16 →
    (regOf s p o.r3).toNat < 2 ^ 40 → stashUnit o ∣ (regOf s p o.r3).toNat →
    exec (e.1 p o) s = .next (issuedAs (queued s p ((encode (e.1 p o)).getD (0, 0)).1 (e.2 s p o)) p (pcOf s p + 8) id)) ∧
  (∀ e ∈ dmaS, ∀ (p : Site) (o : LayS) (s : State), Presents p (e.1 p o) s →
    ¬ stashUnit o ∣ (regOf s p o.r3).toNat →
    exec (e.1 p o) s = .next (trappedAs s p 0x01 ((encode (e.1 p o)).getD (0, 0)).1 37 0)) ∧
  (∀ e ∈ dmaD, ∀ (p : Site) (o : LayD) (s : State), Presents p (e.1 p o) s → 16 ≤ depth s p.core →
    exec (e.1 p o) s = .next (withStream s p.core p.stream { (streamOf s p) with mode := .wait, wait := .full }))

namespace Sys2Proof.Claims
open Sys2Proof.Machine

/-- Line l is a memory line outside the vault region, on a page that is not measured. -/
def plainLine (s : State) (l : Nat) : Prop :=
  l < 0xC0000000 ∧ s.mem.vaultEn = false ∧ Tbl.get 0 s.mem.measured (l / 8192) = 0

/-- What the slices hold of a line. -/
def sliceBytes (s : State) (l : Nat) : Option Line := (s.mem.sliceFind l).map fun x => x.data

/-- The vector engine of the core copies nothing, and nothing waits in its queue (R131, R177). -/
def vecFree (s : State) (c : Fin 96) : Prop :=
  (∀ u : Fin 4, ((s.cores[c]).streams[u]).vtake = none) ∧ (s.cores[c]).vecQ = []

/-- No demand miss of the core waits for a fill entry (R251). -/
def noMiss (s : State) (c : Fin 96) : Prop :=
  (∀ u : Fin 4, ((s.cores[c]).streams[u]).missWaits = false) ∧ (s.cores[c]).vecQ = []

/-- No release of the core is held back. -/
def noneHeld (s : State) (c : Fin 96) : Prop := ∀ u : Fin 4, ((s.cores[c]).streams[u]).held = []

end Sys2Proof.Claims

/-- R215, R255, R256, R258, R259, R267: DMA_COMPLETE of a DCOPY of one line between cached lines writes the source's bytes
and no others, counts them, and takes the instruction from the queue. A transfer that meets a fault halts its channel,
discards what waits behind it, records the fault where none is recorded, and traps its stream DMA.
Where the rules leave a point open it rests on the choices of log entries 18 and 45. -/
def Obligations.DmaCompletes : Prop :=
  (∀ (c : Fin 96) (s : State) (d : DmaEntry) (rest : List DmaEntry) (dst src : Addr) (f g : Leaf) (x y : SliceLine),
    coreRuns s c → (s.cores[c]).dmaQ = d :: rest → d.channel.val < 4 → d.op = .copy dst src 1 256 0 0 false →
    src.toNat % 256 = 0 → dst.toNat % 256 = 0 → (s.cores[c]).ctx.isSome = true →
    (s.cores[c]).tlbFind src.toNat = some f → f.r = true → f.s = false →
    (s.cores[c]).tlbFind dst.toNat = some g → g.w = true → g.i = false →
    plainLine s (leafDpa f src.toNat / 256) → plainLine s (leafDpa g dst.toNat / 256) →
    leafDpa f src.toNat / 256 ≠ leafDpa g dst.toNat / 256 → s.mem.parts = [] → noneHeld s c →
    s.mem.sliceFind (leafDpa f src.toNat / 256) = some x → x.owner = f.owner → x.poison = false →
    s.mem.sliceFind (leafDpa g dst.toNat / 256) = some y → y.owner = g.owner →
    Answers (.dmaComplete c d.channel) s fun t =>
      sliceBytes t (leafDpa g dst.toNat / 256) = some x.data ∧
      (∀ l, l ≠ leafDpa g dst.toNat / 256 → sliceBytes t l = sliceBytes s l) ∧ t.mem.dram = s.mem.dram ∧
      t.mem.side = s.mem.side ∧ (t.cores[c]).dmaQ.length = rest.length ∧
      (t.cores[c]).dmaBytes = (s.cores[c]).dmaBytes + 256 ∧ (t.cores[c]).streams = (s.cores[c]).streams ∧
      OnlyCore c s t ∧ Only [.cores, .mem, .glob] s t) ∧
  (∀ (c : Fin 96) (u : Fin 4) (s s' : State) (d : DmaEntry) (code : DmaCode) (a : Nat),
    coreRuns s c → (s.cores[c]).dmaHead u.castSucc = some d → d.channel = u.castSucc →
    runDma s c d = (s', some (.fault code a)) → (s'.cores[c]).dmaFault.getLsbD 63 = false →
    ((s'.cores[c]).streams[u]).mode = .run → noneHeld s' c →
    Answers (.dmaComplete c u.castSucc) s fun t =>
      (t.cores[c]).dmaHalted = (s'.cores[c]).dmaHalted ||| (1#5 <<< u.val) ∧
      (∀ e ∈ (t.cores[c]).dmaQ, e.channel ≠ u.castSucc) ∧
      (t.cores[c]).dmaFaddr = BitVec.ofNat 48 a ∧ (t.cores[c]).dmaFault.getLsbD 63 = true ∧
      ((t.cores[c]).streams[u]).mode = .drain ∧
      (∃ x, ((t.cores[c]).streams[u]).trap = some x ∧ x.code = 0x07 ∧ x.pc = d.pc ∧ x.insn = d.insn ∧
        x.addr = BitVec.ofNat 48 a) ∧ t.mem = s'.mem)

/-! ### Near store, write queue, prefetches, slices, translations (R240-R253, R265) -/

/-- R240, R251-R253: where no demand miss waits for a fill entry, NSPF asks for a line and is complete; a prefetch installs its line marked as prefetched; a trained
stride entry issues its next line, or holds at a page boundary that has no translation; the slice takes the oldest sector write.
Where the rules leave a point open it rests on the choices of log entries 12 and 17. -/
def Obligations.NearStoreTraffic : Prop :=
  (∀ (p : Site) (o : LayD) (s : State) (f : Leaf), Presents p (.nspf p o) s → depth s p.core < 16 →
    regOf s p o.r2 = 1 → (s.cores[p.core]).ctx.isSome = true →
    (s.cores[p.core]).tlbFind ((adr s p o.r1).toNat / 256 * 256) = some f → f.r = true →
    (s.cores[p.core]).pfmax ≠ 0 → (s.cores[p.core]).fills.length < (s.cores[p.core]).pfmax.toNat → noMiss s p.core →
    Answers (.nspf p o) s fun t =>
      (t.cores[p.core]).fills = (s.cores[p.core]).fills ++
        [{ line := BitVec.ofNat 40 (leafDpa f ((adr s p o.r1).toNat / 256 * 256) / 256), stream := p.stream,
           epoch := (s.cores[p.core]).epochs[p.stream], owner := f.owner }] ∧
      OnlySite p id s t ∧ Only [.cores] s t) ∧
  (∀ (c : Fin 96) (s : State) (x : Fill) (y : SliceLine), coreRuns s c → (s.cores[c]).fills = [x] →
    (s.cores[c]).fillQ = [] → (s.cores[c]).vecQ = [] → x.epoch = (s.cores[c]).epochs[x.stream] → (s.cores[c]).nsFind x.line.toNat = none →
    (s.cores[c]).wq = [] → s.mem.parts = [] → plainLine s x.line.toNat → s.mem.sliceFind x.line.toNat = some y →
    y.owner = x.owner → y.poison = false → (Tbl.get (CSet.empty 8) (s.cores[c]).ns (x.line.toNat % 2048)).ways.length = 8 →
    Answers (.lineFill c x.line .none) s fun t =>
      (t.cores[c]).nsFind x.line.toNat =
        some { data := y.data, poison := false, pf := true, pfStream := x.stream, pfEpoch := x.epoch, ref := false } ∧
      (t.cores[c]).fills = [] ∧ (t.cores[c]).streams = (s.cores[c]).streams ∧ OnlyCore c s t ∧
      (∀ l, sliceBytes t l = sliceBytes s l) ∧ t.mem.dram = s.mem.dram ∧ Only [.cores, .mem] s t) ∧
  (∀ (c : Fin 96) (i : Fin 16) (s : State) (e : PfEntry) (f : Leaf), coreRuns s c → (s.cores[c]).pf[i.val]? = some e →
    (s.cores[c]).pfen = true → (s.cores[c]).fills.length < (s.cores[c]).pfmax.toNat → noMiss s c → e.trained = true →
    0 < e.stride →
    e.hold = none → 0 ≤ e.issued → e.issued + e.stride < 2 ^ 40 →
    e.issued + e.stride ≤ e.last + (s.cores[c]).pfdist.toNat * e.stride →
    (s.cores[c]).tlbFind (256 * (e.issued + e.stride).toNat) = some f → f.r = true →
    exec (.stridePrefetch c i) s = .next (withCore s c { (s.cores[c]) with
      pf := (s.cores[c]).pf.modify i.val fun e => { e with issued := e.issued + e.stride, hold := none }
      fills := (s.cores[c]).fills ++
        [{ line := BitVec.ofNat 40 (leafDpa f (256 * (e.issued + e.stride).toNat) / 256), stream := e.stream,
           epoch := (s.cores[c]).epochs[e.stream], owner := f.owner }] })) ∧
  (∀ (c : Fin 96) (i : Fin 16) (s : State) (e : PfEntry), coreRuns s c → (s.cores[c]).pf[i.val]? = some e →
    (s.cores[c]).pfen = true → e.trained = true → 0 < e.stride → e.hold = none → 0 ≤ e.issued →
    e.issued + e.stride < 2 ^ 40 → e.issued + e.stride ≤ e.last + (s.cores[c]).pfdist.toNat * e.stride →
    e.issued / 8192 ≠ (e.issued + e.stride) / 8192 →
    (s.cores[c]).tlbFind (256 * (e.issued + e.stride).toNat) = none →
    exec (.stridePrefetch c i) s = .next (withCore s c { (s.cores[c]) with
      pf := (s.cores[c]).pf.modify i.val fun e => { e with hold := some true } })) ∧
  (∀ (c : Fin 96) (s : State) (w : SectorW) (rest : List SectorW) (y : SliceLine), Alive s →
    (s.cores[c]).mode = .active → (s.cores[c]).wq = w :: rest → noneHeld s c → plainLine s w.line.toNat →
    s.mem.sliceFind w.line.toNat = some y → y.owner = w.owner →
    Answers (.sectorWrite c) s fun t =>
      (t.cores[c]).wq = rest ∧ sliceBytes t w.line.toNat = some (mergeBytes y.data w.bytes) ∧
      (∀ l, l ≠ w.line.toNat → sliceBytes t l = sliceBytes s l) ∧ t.mem.dram = s.mem.dram ∧ OnlyCore c s t ∧
      Only [.cores, .mem] s t)

/-- R261-R265: a walk of the core's tables is counted and changes no stream and no other core; a leaf it finds is left in the
core's translation cache. -/
def Obligations.TranslationWalks : Prop :=
  (∀ (c : Fin 96) (s : State) (a : Addr), coreRuns s c → (s.cores[c]).ctx.isSome = true →
    (s.cores[c]).tlbFind a.toNat = none →
    Answers (.translationWalk c a) s fun t =>
      (t.cores[c]).streams = (s.cores[c]).streams ∧ (t.cores[c]).ns = (s.cores[c]).ns ∧
      (t.cores[c]).walks = (s.cores[c]).walks + 1 ∧ OnlyCore c s t ∧ t.host = s.host) ∧
  ∀ (c : Fin 96) (s s' : State) (x : BitVec 9) (a : Addr) (f : Leaf), coreRuns s c → (s.cores[c]).ctx = some x →
    (s.cores[c]).tlbFind a.toNat = none →
    (Tbl.get (CSet.empty 8) s'.cores[c].tlb (a.toNat / 0x200000 % 32)).ways.length = 8 →
    (withCore s c { (s.cores[c]) with walks := (s.cores[c]).walks + 1 }).coreWalk c x a.toNat = (s', some f) →
    Answers (.translationWalk c a) s fun t =>
      (t.cores[c]).tlbFind a.toNat = some f ∧ (t.cores[c]).streams = (s.cores[c]).streams ∧
      (t.cores[c]).walks = (s.cores[c]).walks + 1 ∧ OnlyCore c s t

/-! ### Matrix quad (R78-R123, R218-R222) -/

namespace Sys2Proof.Claims
open Sys2Proof.Machine

/-- No RSEED of columns waits for the quad (R168). -/
def noSeedWait (s : State) (c : Fin 96) : Prop := ∀ u : Fin 4, ((s.cores[c]).streams[u]).wait ≠ .quadIdle true

/-- A tile as MMQ puts it into its queue: the registers and the partition's descriptor captured at issue (R219, R220). -/
def newTile (s : State) (p : Site) (o : TileOps) : Tile :=
  { stream := p.stream, seqNo := (streamOf s p).seqNo, pc := pcOf s p, insn := opc 0x10 0x00 o.bits,
    order := (s.cores[p.core]).issued.toNat, o := o,
    aAddr := adr s p o.ra, wAddr := adr s p o.rw, saAddr := adr s p o.rsa, swAddr := adr s p o.rsw,
    desc := (s.cores[p.core]).odesc[o.part.toFin], checked := false, loaded := false, rowsRead := 0, nanF := false,
    ovfF := false }

/-- Nothing of the quad is in progress that a mode change waits for (R86). -/
def quadDrained (k : Core) : Prop :=
  (∀ q : Fin 4, k.tileQ[q] = []) ∧ (∀ a : Fin 4, (k.arrs[a]).flights = []) ∧ (∀ q : Fin 4, k.outQ[q] = [])

/-- Only array a of core c differs among the arrays. -/
def OnlyArr (c : Fin 96) (a : Fin 4) (s t : State) : Prop :=
  OnlyCore c s t ∧ ∀ b : Fin 4, b ≠ a → (t.cores[c]).arrs[b] = (s.cores[c]).arrs[b]

/-- The sum of an integer tile's products of column n and its old value (R115). -/
def intSum (f : Flight) (n : Fin 64) (old : Int) : Int :=
  ((List.range f.tile.k).map fun k =>
    f.tile.afmt.toInt (f.act.getD k 0) * f.tile.wfmt.toInt ((f.block.w.getD k []).getD n.val 0)).sum + old

/-- A column of an accumulator entry. -/
def accAt (s : State) (c : Fin 96) (a : Fin 4) (e : Nat) (n : Fin 64) : W32 :=
  ((Tbl.get AccEntry.zero ((s.cores[c]).arrs[a]).acc e).w)[n]

end Sys2Proof.Claims

/-- R84, R86, R87, R116, R218-R222: MMQ queues a tile; MMODE changes the mode of a drained quad, or waits for it; a mode
write acts on an idle quad and sets MODE_BUSY otherwise; MOCFG with a good descriptor replaces its partition's. -/
def Obligations.QuadControl : Prop :=
  (∀ (p : Site) (o : TileOps) (s : State), Presents p (.mmq p o) s → (s.cores[p.core]).modeWait = none →
    noSeedWait s p.core → (((s.cores[p.core]).tileQ[o.part.toFin]).filter fun x => x.rowsRead = 0).length < 4 →
    exec (.mmq p o) s = .next (issuedAs (withCore s p.core { (s.cores[p.core]) with
      tileQ := (s.cores[p.core]).tileQ.set o.part.toFin ((s.cores[p.core]).tileQ[o.part.toFin] ++ [newTile s p o]) }) p
      (pcOf s p + 16) id)) ∧
  (∀ (p : Site) (m : BitVec 2) (s : State), Presents p (.mmode p m) s → (s.cores[p.core]).modeWait = none →
    (quadDrained s.cores[p.core] → exec (.mmode p m) s =
      .next (issuedAs (withCore s p.core { (s.cores[p.core]) with mxMode := m }) p (pcOf s p + 8) id)) ∧
    ((∃ q : Fin 4, (s.cores[p.core]).tileQ[q] ≠ []) → exec (.mmode p m) s =
      .next (issuedAs (withCore s p.core { (s.cores[p.core]) with
        modeWait := some (m, p.stream, (streamOf s p).seqNo) }) p (pcOf s p + 8) id))) ∧
  (∀ (c : Fin 96) (m : BitVec 2) (u : Fin 4) (n : Nat) (s : State), coreRuns s c → (s.cores[c]).modeWait = some (m, u, n) →
    quadDrained s.cores[c] → noneHeld s c →
    exec (.modeChange c) s = .next (withCore s c { (s.cores[c]) with mxMode := m, modeWait := none })) ∧
  (∀ (m : RegMaster) (c : Fin 96) (v : Word) (s : State), pathOpen s m →
    (quadDrained s.cores[c] → (∀ a : Fin 4, ((s.cores[c]).arrs[a]).level = 0) → v.toNat % 4 ≠ 3 →
      exec (.mxModeWrite m c v) s = .next (withCore s c { (s.cores[c]) with mxMode := v.truncate 2 })) ∧
    ((∃ a : Fin 4, ((s.cores[c]).arrs[a]).level ≠ 0) →
      exec (.mxModeWrite m c v) s = .next (withCore s c { (s.cores[c]) with modeBusy := true }))) ∧
  (∀ (p : Site) (o : MocfgOps) (u : Upset) (s s' : State) (bs : List Byte), Presents p (.mocfg p o u) s →
    (s.cores[p.core]).modeWait = none →
    s.loadBytes p.core p.stream (some .scalar) ((adr s p o.ra).toNat / 64 * 64) 64 u = (s', .ok bs) →
    descBad (Vector.ofFn fun i : Fin 8 => ew (leWords 8 bs) i.val) = [] →
    exec (.mocfg p o u) s = .next (issuedAs (withCore s' p.core { (s'.cores[p.core]) with
      odesc := (s'.cores[p.core]).odesc.set o.part.toFin (Vector.ofFn fun i : Fin 8 => ew (leWords 8 bs) i.val) }) p
      (pcOf s p + 8) id))

/-- R94, R113, R115, R123, R128: a column sum is added into its accumulator entry, an integer one exact and saturated at
the ends of INT32, and no other entry, column or array changes; a tile whose rows have all passed leaves its queue, a LAST
one for the output pipeline with its chain's flags, except on a core whose QUARANTINE drains (R107). -/
def Obligations.Accumulates : Prop :=
  (∀ (c : Fin 96) (a : Fin 4) (n : Fin 64) (s : State) (f : Flight) (rest : List Flight), Alive s →
    (s.cores[c]).mode = .active → ((s.cores[c]).arrs[a]).flights = f :: rest → f.nextCol = n.val →
    n ∉ (Tbl.get AccEntry.zero ((s.cores[c]).arrs[a]).acc f.entry).bad →
    Answers (.accumulationStep c a n false) s fun t =>
      (n.val < f.tile.n → f.tile.isInt = true → (accAt t c a f.entry n).toInt =
        Max.max (-2147483648) (Min.min 2147483647
          (intSum f n (if f.tile.o.acc then (accAt s c a f.entry n).toInt else 0)))) ∧
      (f.tile.n ≤ n.val → accAt t c a f.entry n = accAt s c a f.entry n) ∧
      (∀ (e : Nat) (m : Fin 64), (e ≠ f.entry ∨ m ≠ n) → accAt t c a e m = accAt s c a e m) ∧
      OnlyArr c a s t ∧ Only [.cores] s t ∧ (t.cores[c]).streams = (s.cores[c]).streams) ∧
  (∀ (c : Fin 96) (p : Fin 4) (s : State) (t : Tile) (rest : List Tile), Alive s →
    (s.cores[c]).mode = .active → (s.cores[c]).tileQ[p] = t :: rest → t.m ≤ t.rowsRead →
    (∀ a : Fin 4, ((s.cores[c]).arrs[a]).flights = []) → noneHeld s c →
    Answers (.tileComplete c p) s fun u =>
      (u.cores[c]).tileQ[p] = rest ∧ (u.cores[c]).arrs = (s.cores[c]).arrs ∧
      (t.o.last = false ∨ (s.cores[c]).draining = true → (u.cores[c]).outQ = (s.cores[c]).outQ) ∧
      (t.o.last = true → (s.cores[c]).draining = false → ∃ o, (u.cores[c]).outQ[p] = (s.cores[c]).outQ[p] ++ [o] ∧ o.started = false ∧
        o.lanes = (s.cores[c]).arrays p ∧ (t.nanF = true → o.tile.nanF = true) ∧ (t.ovfF = true → o.tile.ovfF = true)) ∧
      OnlyCore c s u ∧ Only [.cores] s u)

namespace Sys2Proof.Claims
open Sys2Proof.Machine

/-- Cycles of a full ramp: 16 for each step of LEN (R99). -/
def rampCycles (k : Core) : Nat := 16 * (k.rampLen.toNat + 1)

/-- The array is j cycles into a fall of d cycles from level l, or begins one now (R100). -/
def FallsFrom (k : Core) (a : Fin 4) (l d j : Nat) : Prop :=
  0 < l ∧ j < d ∧ (k.arrs[a]).level = l - l * j / d ∧
    ((k.arrs[a]).ramp = .down l d j ∨
      ((k.arrs[a]).falling = false ∧ j = 0 ∧ d = (rampCycles k * l + 255) / 256))

end Sys2Proof.Claims

/-- R83, R89, R98-R101, R103-R105: a tile at the head of its queue is checked; the block of the
oldest that waits for one fills the shadow sets of its partition's arrays; an array with the
credit, a vector's cycles after its last, reads the next row, makes the shadow sets active with
its first, and spends 256; with each core cycle the credit grows by the level, or the clamp's
level where that is lower, to at most 511. A check that fails reports PART_ABSENT before
FMT_PAIR before ACC_RANGE: the tile leaves the queue, the fault register records it where it
holds none, and the stream traps QUAD. An array that is idle or ramps down and has rows to read
ramps up from its level in ceil(G (256 - level) / 256) cycles; one whose queue holds no vector
ramps down, level L0 - floor(L0 (j + 1) / D) after cycle j of D = ceil(G L0 / 256), its fillers
spending the credit, and stops at level 0 with its credit 0; with EN 0 it stops at once. Where
the rules leave a point open it rests on the choices of log entries 16 and 41. -/
def Obligations.TileStreams : Prop :=
  (∀ (c : Fin 96) (p : Fin 4) (s : State) (t : Tile) (rest : List Tile), coreRuns s c →
    (s.cores[c]).tileQ[p] = t :: rest → t.rowsRead = 0 → t.checked = false → (s.cores[c]).arrays p ≠ [] →
    pairOk t.afmt t.wfmt t.o.mx t.k = true → t.rangeBad ((s.cores[c]).arrays p).length = false →
    Answers (.tileQueueHead c p) s fun u =>
      ((u.cores[c]).tileQ[p]).head? = some { t with checked := true } ∧ (u.cores[c]).arrs = (s.cores[c]).arrs ∧
      (u.cores[c]).streams = (s.cores[c]).streams ∧ OnlyCore c s u ∧ Only [.cores] s u) ∧
  (∀ (c : Fin 96) (p : Fin 4) (u : Upset) (s s' : State) (t : Tile) (rest : List Tile) (rows : List (List W32)),
    coreRuns s c → (s.cores[c]).tileQ[p] = t :: rest → t.rowsRead = 0 → t.checked = true → t.loaded = false →
    t.o.keep = false → t.o.mx = false → (∀ (q : Fin 4) (x : Tile), x ∈ (s.cores[c]).tileQ[q] → t.order ≤ x.order) →
    s.operandRows c t.stream t.wfmt t.wAddr.toNat t.o.wstride.toNat t.k t.n u = (s', .ok (rows, [])) →
    (s'.cores[c]).tileQ = (s.cores[c]).tileQ →
    Answers (.blockLoad c p u) s fun v =>
      (∀ a ∈ (s.cores[c]).arrays p, ((v.cores[c]).arrs[a]).shadow = ⟨rows, []⟩ ∧
        ((v.cores[c]).arrs[a]).active = ((s'.cores[c]).arrs[a]).active ∧
        ((v.cores[c]).arrs[a]).acc = ((s'.cores[c]).arrs[a]).acc) ∧
      ((v.cores[c]).tileQ[p]).head? = some { t with loaded := true } ∧ v.mem = s'.mem) ∧
  (∀ (c : Fin 96) (a : Fin 4) (n : Nat) (u : Upset) (s s' : State) (t : Tile) (rest : List Tile) (act : List W32),
    coreRuns s c → (s.cores[c]).tileQ[(s.cores[c]).partOf a] = t :: rest → t.checked = true → t.loaded = true →
    t.o.keep = false → t.o.mx = false → t.rowsRead = 0 → (s.cores[c]).rampEn = true →
    t.cadence ≤ n → ((s.cores[c]).arrs[a]).falling = false →
    ((s.cores[c]).arrays ((s.cores[c]).partOf a)).head? = some a →
    (s.cores[c]).entryHeld ((s.cores[c]).partOf a) t t.o.entry.toNat = false →
    let y := s.runArr c ((s.cores[c]).arrs[a]) (feedEvent t) n
    256 ≤ y.credit →
    ((s.clampTo y).modCore c fun k => k.modArr a fun _ => y).operandRow
      c t.stream t.afmt t.aAddr.toNat t.k u = (s', .ok (act, [])) →
    (s'.cores[c]).arrs = (s.cores[c]).arrs.set a y →
    Answers (.feederVectorRead c a n u) s fun v =>
      let x := (v.cores[c]).arrs[a]
      x.credit + 256 = y.credit ∧ x.level = y.level ∧
      x.active = ((s.cores[c]).arrs[a]).shadow ∧ x.acc = ((s.cores[c]).arrs[a]).acc ∧
      (∃ f, x.flights = ((s.cores[c]).arrs[a]).flights ++ [f] ∧ f.act = act ∧ f.row = 0 ∧
        f.entry = t.o.entry.toNat ∧ f.block = ((s.cores[c]).arrs[a]).shadow ∧ f.nextCol = 0) ∧ v.mem = s'.mem) ∧
  (∀ (c : Fin 96) (s : State) (x : Arr) (e n : Nat), s.sup.clamp = .normal → 0 < n →
    (x.ramp = .steady → (s.runArr c x e n).level = x.level ∧
      (s.runArr c x e n).credit = Min.min (x.credit + n * Min.min x.level 256) 511) ∧
    (∀ l d : Nat, x.ramp = .up l d 0 → n < d →
      (s.runArr c x e n).level = l + (256 - l) * n / d ∧ (s.runArr c x e n).ramp = .up l d n)) ∧
  (∀ (c : Fin 96) (p : Fin 4) (s : State) (t : Tile), coreRuns s c → (s.cores[c]).tileQ[p] = [t] → t.rowsRead = 0 →
    t.checked = false → ((s.cores[c]).streams[t.stream]).mode = .run → (s.cores[c]).pfault[p] = 0 →
    (∀ a : Fin 4, ((s.cores[c]).arrs[a]).flights = []) → noneHeld s c →
    let code : Nat := if (s.cores[c]).arrays p = [] then 6
      else if pairOk t.afmt t.wfmt t.o.mx t.k = false then 5
      else if t.rangeBad ((s.cores[c]).arrays p).length = true then 7 else 0
    code ≠ 0 →
    Answers (.tileQueueHead c p) s fun u =>
      (u.cores[c]).tileQ[p] = [] ∧ ((u.cores[c]).pfault[p]).getLsbD 63 = true ∧
      (((u.cores[c]).pfault[p]) >>> 48).toNat % 8 = code % 8 ∧ ((u.cores[c]).streams[t.stream]).mode = .drain ∧
      (∃ x, ((u.cores[c]).streams[t.stream]).trap = some x ∧ x.code = 0x04 ∧ x.pc = t.pc ∧ x.insn = t.insn) ∧
      OnlyCore c s u ∧ Only [.cores] s u) ∧
  (∀ (c : Fin 96) (a : Fin 4) (s : State), coreRuns s c → (s.cores[c]).rampEn = true → (s.cores[c]).rowsLeft a = true →
    (s.cores[c]).present.getLsbD a.val = true →
    (((s.cores[c]).arrs[a]).ramp = .steady ∧ ((s.cores[c]).arrs[a]).level = 0) ∨ ((s.cores[c]).arrs[a]).falling = true →
    Answers (.rampUp c a) s fun t =>
      t.cores[c] = { (s.cores[c]) with arrs := (t.cores[c]).arrs } ∧
      (t.cores[c]).arrs[a] = { ((s.cores[c]).arrs[a]) with
        ramp := .up ((s.cores[c]).arrs[a]).level
          ((rampCycles s.cores[c] * (256 - ((s.cores[c]).arrs[a]).level) + 255) / 256) 0, noFill := false } ∧
      OnlyArr c a s t ∧ Only [.cores] s t) ∧
  (∀ (c : Fin 96) (a : Fin 4) (n l d j : Nat) (s : State), Alive s → (s.cores[c]).mode = .active →
    (s.cores[c]).rampEn = true → (s.cores[c]).queueLeft a = false → FallsFrom s.cores[c] a l d j → j + n < d →
    Answers (.rampDown c a n) s fun t =>
      let x := (t.cores[c]).arrs[a]
      x.level = l - l * (j + n) / d ∧ x.ramp = .down l d (j + n) ∧
      (0 < n → ((s.cores[c]).arrs[a]).noFill = false → x.credit < 256) ∧
      x.acc = ((s.cores[c]).arrs[a]).acc ∧ x.active = ((s.cores[c]).arrs[a]).active ∧
      x.flights = ((s.cores[c]).arrs[a]).flights ∧ OnlyArr c a s t ∧ Only [.cores, .sup] s t ∧
      (s.sup.clamp = .normal → t.sup = s.sup)) ∧
  (∀ (c : Fin 96) (a : Fin 4) (n l d j : Nat) (s : State), Alive s → (s.cores[c]).mode = .active →
    (s.cores[c]).rampEn = true → (s.cores[c]).queueLeft a = false → FallsFrom s.cores[c] a l d j → d ≤ j + n →
    Answers (.arrayIdle c a n) s fun t =>
      let x := (t.cores[c]).arrs[a]
      x.level = 0 ∧ x.ramp = .steady ∧ x.credit = 0 ∧ x.noFill = false ∧
      x.acc = ((s.cores[c]).arrs[a]).acc ∧ x.active = ((s.cores[c]).arrs[a]).active ∧
      x.flights = ((s.cores[c]).arrs[a]).flights ∧ OnlyArr c a s t ∧ Only [.cores, .sup] s t ∧
      (s.sup.clamp = .normal → t.sup = s.sup)) ∧
  (∀ (c : Fin 96) (a : Fin 4) (n : Nat) (s : State), Alive s → (s.cores[c]).mode = .active →
    (s.cores[c]).rampEn = false → (s.cores[c]).queueLeft a = false → 0 < ((s.cores[c]).arrs[a]).level →
    ((s.cores[c]).arrs[a]).falling = false → s.sup.clamp = .normal →
    exec (.arrayIdle c a n) s = .next (withCore s c { (s.cores[c]) with
      arrs := (s.cores[c]).arrs.set a { ((s.cores[c]).arrs[a]) with
        level := 0, ramp := .steady, credit := 0, noFill := false } }))

/-! ### Output pipeline (R116-R136, R223) -/

namespace Sys2Proof.Claims
open Sys2Proof.Machine

/-- The plates are in the mask of the stream (R140). -/
def HasPlates (s : State) (p : Site) (ps : List (BitVec 4)) : Prop :=
  ∀ q ∈ ps, (streamOf s p).plates.getLsbD q.toNat = true

/-- The stream owns the plates and the vector engine holds nothing (R131, R140). -/
def Owns (s : State) (p : Site) (ps : List (BitVec 4)) : Prop := HasPlates s p ps ∧ vecFree s p.core

/-- A plate word of core c. -/
def wordAt (s : State) (c : Fin 96) (q : BitVec 4) (r : Nat) (n : Fin 64) : W32 := ((s.cores[c]).plateRow q r)[n]

/-- Every row of every plate but the ones named is as it was. -/
def OnlyPlates (c : Fin 96) (qs : List (BitVec 4)) (s t : State) : Prop :=
  ∀ q, q ∉ qs → ∀ r : Nat, r < 64 → (t.cores[c]).plateRow q r = (s.cores[c]).plateRow q r

/-- The tile converts accumulator words to FP32 as they are: no scale, bias, activation or photometry, no stochastic
rounding (R117). -/
def plainTile (t : Tile) : Prop :=
  t.isInt = false ∧ t.smode = 0 ∧ t.bias = false ∧ t.act = 0 ∧ t.pen = false ∧ t.dfmt = .fp32 ∧ t.rnd = 0

/-- The lane of a plain tile with a queue destination may read the next entry, whose block holds the one queue entry. -/
structure ReadsNext (s : State) (c : Fin 96) (p a : Fin 4) (x : OutTile) (h : Handoff) : Prop where
  alive : Alive s
  mode : (s.cores[c]).mode = .active
  outQ : (s.cores[c]).outQ[p] = [x]
  lanes : x.lanes = [a]
  left : x.allRead = false
  started : x.started = true
  ready : x.waiting = false
  plain : plainTile x.tile
  dest : x.tile.dest = true
  first : x.tile.o.entry.toNat ≤ x.nextEntry
  row : x.nextEntry - x.tile.o.entry.toNat < x.tile.m
  handoff : (s.cores[c]).handoff = [h]
  stream : h.stream = x.tile.stream
  seq : h.tileSeq = x.tile.seqNo
  block : h.block = (x.nextEntry - x.tile.o.entry.toNat) / 64
  parity : (Tbl.get AccEntry.zero ((s.cores[c]).arrs[a]).acc x.nextEntry).bad = []

/-- Row m of the tile, from the accumulator words z, stands in the queue entry, which is complete with its last row
(R129). -/
def RowsIn (t : Tile) (z : AccEntry) (m : Nat) (h g : Handoff) : Prop :=
  (∀ n : Fin 64, (Tbl.get (Vector.replicate 64 0) g.rows (m % 64))[n] =
    if n.val < t.n then (outElem t 0 0 0 (z.w[n])).conv.bits else 0) ∧
  (m % 64 + 1 = h.rowCount → g.complete = true)

end Sys2Proof.Claims

/-- R117-R119, R122, R128-R130, R134: the lanes take a tile whose shape is good; they read its next entry, whose rows go, once
it reaches the last cycle of the lanes, into the queue entry of their block, and after the tile's last entry the lanes run
empty; a lane that waits gets a free entry. -/
def Obligations.OutputReads : Prop :=
  (∀ (c : Fin 96) (p : Fin 4) (s : State) (x : OutTile) (rest : List OutTile), coreRuns s c →
    (s.cores[c]).outQ[p] = x :: rest → x.allRead = false → x.started = false → plainTile x.tile →
    x.tile.shapeBad = false →
    Answers (.outputTileStart c p .none) s fun t =>
      ((t.cores[c]).outQ[p]).head? = some { x with started := true, svec := [], bvec := [] } ∧
      (t.cores[c]).arrs = (s.cores[c]).arrs ∧ (t.cores[c]).streams = (s.cores[c]).streams ∧ OnlyCore c s t ∧
      Only [.cores] s t) ∧
  (∀ (c : Fin 96) (p a : Fin 4) (s : State) (x : OutTile) (h : Handoff), ReadsNext s c p a x h → x.pipe = [] →
    x.nextEntry + 1 < x.tile.o.entry.toNat + x.tile.m →
    Answers (.outputEntryRead c p 0) s fun t =>
      (t.cores[c]).outQ[p] = [{ x with nextEntry := x.nextEntry + 1, pipe := [
        { entry := x.nextEntry, age := 0, draws := []
          rows := [(a, x.nextEntry - x.tile.o.entry.toNat, Tbl.get AccEntry.zero ((s.cores[c]).arrs[a]).acc x.nextEntry)] }] }] ∧
      (t.cores[c]).handoff = [h] ∧ (t.cores[c]).arrs = (s.cores[c]).arrs ∧
      (t.cores[c]).streams = (s.cores[c]).streams ∧ OnlyCore c s t ∧ Only [.cores] s t) ∧
  (∀ (c : Fin 96) (p a : Fin 4) (s : State) (x : OutTile) (h : Handoff) (m : Nat) (z : AccEntry) (old : Nat),
    ReadsNext s c p a x h → x.nextEntry + 1 < x.tile.o.entry.toNat + x.tile.m →
    x.pipe = [{ entry := old, age := 12, rows := [(a, m, z)], draws := [] }] → m < x.tile.m → h.block = m / 64 →
    Answers (.outputEntryRead c p 0) s fun t =>
      (∃ g, (t.cores[c]).handoff = [g] ∧ RowsIn x.tile z m h g) ∧
      (∃ y, (t.cores[c]).outQ[p] = [y] ∧ y.nextEntry = x.nextEntry + 1 ∧ y.pipe.length = 1) ∧
      (t.cores[c]).arrs = (s.cores[c]).arrs ∧ (t.cores[c]).streams = (s.cores[c]).streams ∧ OnlyCore c s t ∧
      Only [.cores] s t) ∧
  (∀ (c : Fin 96) (p a : Fin 4) (s : State) (x : OutTile) (h : Handoff), ReadsNext s c p a x h → x.pipe = [] →
    x.nextEntry + 1 = x.tile.o.entry.toNat + x.tile.m →
    Answers (.outputEntryRead c p 0) s fun t =>
      (∃ g, (t.cores[c]).handoff = [g] ∧ RowsIn x.tile
        (Tbl.get AccEntry.zero ((s.cores[c]).arrs[a]).acc x.nextEntry) (x.nextEntry - x.tile.o.entry.toNat) h g) ∧
      (∃ y, (t.cores[c]).outQ[p] = [y] ∧ y.nextEntry = x.nextEntry + 1 ∧ y.pipe = []) ∧ (t.cores[c]).arrs = (s.cores[c]).arrs ∧
      (t.cores[c]).streams = (s.cores[c]).streams ∧ OnlyCore c s t ∧ Only [.cores] s t) ∧
  (∀ (c : Fin 96) (p a : Fin 4) (s : State) (x : OutTile), Alive s → (s.cores[c]).mode = .active →
    (∀ q : Fin 4, q ≠ p → (s.cores[c]).outQ[q] = []) → (s.cores[c]).outQ[p] = [x] → x.lanes = [a] →
    x.allRead = false → x.waiting = true → x.nextEntry - x.tile.o.entry.toNat < x.tile.m →
    x.tile.o.entry.toNat ≤ x.nextEntry → (s.cores[c]).handoff = [] →
    Answers (.handoffEntryAlloc c p) s fun t =>
      (∃ h, (t.cores[c]).handoff = [h] ∧ h.stream = x.tile.stream ∧ h.tileSeq = x.tile.seqNo ∧
        h.block = (x.nextEntry - x.tile.o.entry.toNat) / 64 ∧ h.complete = false ∧ h.rows = []) ∧
      (t.cores[c]).outQ[p] = [{ x with waiting := false }] ∧ OnlyCore c s t ∧ Only [.cores] s t)

/-- R131, R177: VTAKE claims its stream's oldest complete queue entry, at once or when it comes, and
its completion copies the rows to the plate and frees the entry. While it copies, the vector
engine takes up to four instructions into its input queue, each with its operands as at its
issue; behind four the stream waits; once the copy is complete they take effect in order, shown
for VMOV. Where the rules leave a point open it rests on the choices of log entry 16. -/
def Obligations.TakesHandoff : Prop :=
  (∀ (p : Site) (o : LayV) (s : State) (h : Handoff), Presents p (.vtake p o) s → Owns s p [o.pd] →
    (s.cores[p.core]).handoff.find? (fun x => x.stream == p.stream && x.complete && !x.claimed) = some h →
    exec (.vtake p o) s = .next (issuedAs (withCore s p.core (({ (s.cores[p.core]) with
      handoff := (s.cores[p.core]).handoff.map fun x => if x.id = h.id then { x with claimed := true } else x } :
        Core).vecCount p.core s.glob.tick (64, 0) true)) p
      (pcOf s p + 8) fun st => { st with vtake := some { pd := o.pd, entry := h.id, seqNo := st.seqNo } })) ∧
  (∀ (p : Site) (pd : BitVec 4) (pc : Addr) (s : State) (h : Handoff), coreRuns s p.core →
    (streamOf s p).mode = .wait → (streamOf s p).wait = .vtake pd pc → Owns s p [pd] →
    (s.cores[p.core]).handoff.find? (fun x => x.stream == p.stream && x.complete && !x.claimed) = some h →
    exec (.vtakeCopy p) s = .next (issuedAs (withCore s p.core (({ (s.cores[p.core]) with
      handoff := (s.cores[p.core]).handoff.map fun x => if x.id = h.id then { x with claimed := true } else x } :
        Core).vecCount p.core s.glob.tick (64, 0) true)) p
      (pcOf s p + 8) fun st => { st with vtake := some { pd := pd, entry := h.id, seqNo := st.seqNo } })) ∧
  (∀ (p : Site) (s : State) (v : VtakeRun) (h : Handoff), Alive s → (s.cores[p.core]).mode = .active →
    (streamOf s p).vtake = some v → (s.cores[p.core]).handoff = [h] → h.id = v.entry → noneHeld s p.core →
    ((s.cores[p.core]).vecQ = [] → Answers (.vtakeComplete p) s fun t =>
      (∀ (r : Nat) (n : Fin 64), r < 64 → wordAt t p.core v.pd r n = (Tbl.get (Vector.replicate 64 0) h.rows r)[n]) ∧
      OnlyPlates p.core [v.pd] s t ∧ (t.cores[p.core]).handoff = [] ∧ (streamOf t p).vtake = none ∧
      (streamOf t p).regs = (streamOf s p).regs ∧ (streamOf t p).pc = (streamOf s p).pc ∧ OnlyCore p.core s t ∧
      Only [.cores] s t) ∧
    (∀ (x : VecWait) (o : LayV), (s.cores[p.core]).vecQ = [x] → x.instr = .vmov p o → x.stream = p.stream →
      (∀ u : Fin 4, u ≠ p.stream → ((s.cores[p.core]).streams[u]).vtake = none) →
      x.plates.getLsbD o.pd.toNat = true → x.plates.getLsbD o.pa.toNat = true → Answers (.vtakeComplete p) s fun t =>
        let taken (q : BitVec 4) (r : Nat) (n : Fin 64) : W32 :=
          if q = v.pd then (Tbl.get (Vector.replicate 64 0) h.rows r)[n] else wordAt s p.core q r n
        (∀ (r : Nat) (n : Fin 64), r < 64 →
          wordAt t p.core o.pd r n = if n.val < x.vl.toNat then taken o.pa r n else taken o.pd r n) ∧
        OnlyPlates p.core [v.pd, o.pd] s t ∧ (t.cores[p.core]).vecQ = [] ∧ (streamOf t p).vl = (streamOf s p).vl ∧
        (streamOf t p).plates = (streamOf s p).plates ∧ (streamOf t p).regs = (streamOf s p).regs ∧
        (streamOf t p).pc = (streamOf s p).pc ∧ OnlyCore p.core s t ∧ Only [.cores] s t)) ∧
  (∀ (p : Site) (i : Instr) (s : State), Presents p i s → vecPlates i ≠ [] → (∀ o, i ≠ .vtake p o) →
    HasPlates s p (vecPlates i) → (∃ u : Fin 4, ((s.cores[p.core]).streams[u]).vtake ≠ none) →
    ((s.cores[p.core]).vecQ.length < 4 →
      exec i s = .next (issuedAs (withCore s p.core { (s.cores[p.core]) with
        vecQ := (s.cores[p.core]).vecQ ++ [⟨p.stream, i, pcOf s p, ((encode i).getD (0, 0)).1, (streamOf s p).seqNo,
          (streamOf s p).vl, (streamOf s p).plates, (streamOf s p).regs, none⟩] }) p (pcOf s p + 8) id)) ∧
    (4 ≤ (s.cores[p.core]).vecQ.length →
      exec i s = .next (withStream s p.core p.stream { (streamOf s p) with mode := .wait, wait := .full })))

/-- R123, R125, R126, R132, R223: a tile's counts are added to its slot, and a complete tile leaves the pipeline and ORs
its flags into its stream's. HSCALE reads its slot and goes on; its completion writes the scale, zero-extended, to rd, and
the NAN flag where the scale is a NaN.
Where the rules leave a point open it rests on the choices of log entry 47. -/
def Obligations.OutputCompletes : Prop :=
  (∀ (c : Fin 96) (p : Fin 4) (s s' : State) (x : OutTile) (rest : List OutTile) (f : Leaf) (dva : Nat),
    Alive s → (s.cores[c]).mode = .active → (s.cores[c]).outQ[p] = x :: rest → x.started = true →
    x.allRead = true → x.tile.pen = true → x.added = false → s.slotLeaf c x.tile.slot = (s', some (f, dva)) →
    (s'.cores[c]).outQ[p] = x :: rest →
    Answers (.photometryAdd c p) s fun t =>
      t.mem = (s'.addCounts f dva x.counts).mem ∧
      ((t.cores[c]).outQ[p]).head? = some { x with added := true } ∧ OnlyCore c s' t ∧ Only [.cores, .mem] s' t) ∧
  (∀ (c : Fin 96) (p : Fin 4) (s : State) (x : OutTile) (rest : List OutTile), Alive s →
    (s.cores[c]).mode = .active → (s.cores[c]).outQ[p] = x :: rest → x.started = true → x.allRead = true →
    (x.tile.pen = true → x.added = true) → noneHeld s c →
    Answers (.outputTileComplete c p) s fun t =>
      (t.cores[c]).outQ[p] = rest ∧
      (t.cores[c]).tflags = (s.cores[c]).tflags ||| (if x.tile.ovfF = true then 1#8 <<< (2 * x.tile.stream.val) else 0) |||
        (if x.tile.nanF = true then 1#8 <<< (2 * x.tile.stream.val + 1) else 0) ∧
      (t.cores[c]).vflags = (s.cores[c]).vflags ∧ (t.cores[c]).streams = (s.cores[c]).streams ∧
      (t.cores[c]).handoff.length = (s.cores[c]).handoff.length ∧ OnlyCore c s t ∧ Only [.cores] s t) ∧
  (∀ (p : Site) (o : HscaleOps) (s s' : State) (f : Leaf) (dva : Nat), Presents p (.hscale p o) s →
    (streamOf s p).hscale = none → o.clr = false → s.slotLeaf p.core o.slot.toNat = (s', some (f, dva)) →
    let r := s'.mem.readBytes .engine (some f.owner) (leafDpa f dva) 256 s'.tick
    let bins := (List.range 64).map fun i => leNat ((r.2.1.drop (4 * i)).take 4)
    let v := hscaleValue bins ((regOf s p o.ra).truncate 32) ((Fmt.ofCode o.dfmt).getD .fp32) o.g.toNat
      ((regOf s' p o.rt).truncate 32 : W32).toNat
    let run : HscaleRun := ⟨o.rd, v, false, (streamOf s p).seqNo, pcOf s p, opc 0x11 0x02 o.bits⟩
    exec (.hscale p o) s = .next (issuedAs { s' with mem := r.1 } p (pcOf s p + 8) fun st =>
      { st with hscale := some run })) ∧
  (∀ (p : Site) (s : State) (h : HscaleRun), Alive s → (s.cores[p.core]).mode = .active →
    (streamOf s p).hscale = some h → h.fault = false → noneHeld s p.core →
    Answers (.hscaleComplete p) s fun t =>
      streamOf t p = putReg h.rd (h.value.zeroExtend 64) { (streamOf s p) with hscale := none } ∧
      (t.cores[p.core]).vflags = (s.cores[p.core]).vflags |||
        (if h.value = 0x7FC00000#32 then 1#12 <<< (3 * p.stream.val + 1) else 0) ∧
      OnlyCore p.core s t ∧ Only [.cores] s t)

/-! ### Vector instructions (R137-R169, R224-R228, R234) -/

namespace Sys2Proof.Claims
open Sys2Proof.Machine

/-- Some word a vector instruction writes meets a test. -/
def anyWord (vl : Nat) (g : Nat → Fin 64 → Bool) : Bool :=
  (List.range 64).any fun r => (List.finRange 64).any fun n => decide (n.val < vl) && g r n

/-- The vector flags of a stream with indications ORed in (R157). -/
def withFlags (k : Core) (t : Fin 4) (nan ovf perm : Bool) : BitVec 12 :=
  k.vflags ||| (if ovf = true then 1#12 <<< (3 * t.val) else 0) ||| (if nan = true then 1#12 <<< (3 * t.val + 1) else 0) |||
    (if perm = true then 1#12 <<< (3 * t.val + 2) else 0)

/-- The instruction wrote columns below vl of every row of pd as `f` says, its indications into the stream's flags, and
nothing else but its issue. -/
def Wrote (p : Site) (pd : BitVec 4) (vl : Nat) (f : Nat → Fin 64 → Conv) (s t : State) : Prop :=
  (∀ (r : Nat) (n : Fin 64), r < 64 →
    wordAt t p.core pd r n = if n.val < vl then (f r n).bits else wordAt s p.core pd r n) ∧
  OnlyPlates p.core [pd] s t ∧
  (t.cores[p.core]).vflags = withFlags s.cores[p.core] p.stream (anyWord vl fun r n => (f r n).nan)
    (anyWord vl fun r n => (f r n).ovf) false ∧
  (t.cores[p.core]).tflags = (s.cores[p.core]).tflags ∧ OnlySite p id s t ∧ Only [.cores] s t

/-- The vector length of the stream. -/
def vlenOf (s : State) (p : Site) : Nat := (streamOf s p).vl.toNat

/-- The plates of a two-source, one-source and three-source form. -/
def two (o : LayV) : List (BitVec 4) := [o.pd, o.pa, o.pb]
def one (o : LayV) : List (BitVec 4) := [o.pd, o.pa]
def three (o : LayV) : List (BitVec 4) := [o.pd, o.pa, o.pb, o.pc]

/-- An exact operation rounded once with RNE, or an integer one that saturates (R142, R143). -/
def exactOp (fl : Val → Val → Val → Val) (int : Int → Int → Int) (f : Fmt) (a b c : W32) : Conv :=
  if f.isInt = true then f.convInt .rne (Val.ofInt (int (f.toInt a) (f.toInt b)))
  else f.rne (fl (f.toVal a) (f.toVal b) (f.toVal c))

/-- Element-wise instructions: the plates each names and its result on elements. -/
def elementwise : List ((Site → LayV → Instr) × (LayV → List (BitVec 4)) × (LayV → Fmt → W32 → W32 → W32 → Conv)) :=
  [ (.vadd, two, fun _ => exactOp (fun a b _ => a.add b) fun a b => a + b),
    (.vsub, two, fun _ => exactOp (fun a b _ => a.add b.negate) fun a b => a - b),
    (.vmul, two, fun _ => exactOp (fun a b _ => a.mul b) fun a b => a * b),
    (.vfma, three, fun _ => exactOp (fun a b c => (a.mul b).add c) fun a b => a * b),
    (.vmax, two, fun _ => exactOp (fun a b _ => a.max b) fun a b => Max.max a b),
    (.vmin, two, fun _ => exactOp (fun a b _ => a.min b) fun a b => Min.min a b),
    (.vabs, one, fun _ => exactOp (fun a _ _ => a.abs) fun a _ => |a|),
    (.vneg, one, fun _ => exactOp (fun a _ _ => a.negate) fun a _ => -a),
    (.vcmp, two, fun o f a b _ => ⟨if compare o.sub (f.toVal a) (f.toVal b) = true then
      (if f.bits = 16 then 0xFFFF else 0xFFFFFFFF) else 0, false, false⟩),
    (.vsel, three, fun _ _ a b m => ⟨if m = 0 then b else a, false, false⟩),
    (.vand, two, fun _ _ a b _ => ⟨a &&& b, false, false⟩),
    (.vor, two, fun _ _ a b _ => ⟨a ||| b, false, false⟩),
    (.vxor, two, fun _ _ a b _ => ⟨a ^^^ b, false, false⟩),
    (.vnot, one, fun _ _ a _ _ => ⟨~~~a, false, false⟩),
    (.vshl, one, fun o _ a _ _ => ⟨a <<< o.idx.toNat, false, false⟩),
    (.vshr, one, fun o _ a _ _ => ⟨a >>> o.idx.toNat, false, false⟩),
    (.vsra, one, fun o f a _ _ => ⟨if f.bits = 16 then ((a.truncate 16 : BitVec 16).sshiftRight o.idx.toNat).zeroExtend 32
      else a.sshiftRight o.idx.toNat, false, false⟩),
    (.vexp, one, fun _ f a _ _ => transElem f vexpOf a),
    (.vlog, one, fun _ f a _ _ => transElem f vlogOf a),
    (.vrcp, one, fun _ f a _ _ => transElem f vrcpOf a),
    (.vrsq, one, fun _ f a _ _ => transElem f vrsqOf a) ]

/-- The tile flags and the vector flags of the other streams are as they were (R123, R157). -/
def OnlyFlags (p : Site) (s t : State) : Prop :=
  (t.cores[p.core]).tflags = (s.cores[p.core]).tflags ∧
  ∀ i : Nat, i < 12 → i / 3 ≠ p.stream.val → (t.cores[p.core]).vflags.getLsbD i = (s.cores[p.core]).vflags.getLsbD i

/-- The format of a vector instruction. -/
def fmtIs (o : LayV) : Fmt := (Fmt.ofCode o.fmt).getD .fp32

end Sys2Proof.Claims

/-- R139, R141-R144, R149, R157, R225-R227: an element-wise instruction computes every element of the columns below vl
from its sources, two to a word in a 16-bit format, and leaves the other columns and plates as they are; on INT32 the sum,
difference, product, magnitude and negation saturate at the ends of the format. -/
def Obligations.VectorElementwise : Prop :=
  (∀ e ∈ elementwise, ∀ (p : Site) (o : LayV) (s : State), Presents p (e.1 p o) s → Owns s p (e.2.1 o) →
    Answers (e.1 p o) s fun t =>
      Wrote p o.pd (vlenOf s p) (fun r n => onWord (fmtIs o) (e.2.2 o (fmtIs o)) (wordAt s p.core o.pa r n)
        (wordAt s p.core o.pb r n) (wordAt s p.core o.pc r n)) s t) ∧
  (∀ (p : Site) (o : LayV) (s : State), fmtIs o = .int32 → ∀ e ∈ ([(Instr.vadd, two, fun a b => a + b),
      (.vsub, two, fun a b => a - b), (.vmul, two, fun a b => a * b), (.vabs, one, fun a _ => |a|),
      (.vneg, one, fun a _ => -a)] : List ((Site → LayV → Instr) × (LayV → List (BitVec 4)) × (Int → Int → Int))),
    Presents p (e.1 p o) s → Owns s p (e.2.1 o) →
    Answers (e.1 p o) s fun t => ∀ (r : Nat) (n : Fin 64), r < 64 → n.val < vlenOf s p →
      (wordAt t p.core o.pd r n).toInt =
        Max.max (-2147483648) (Min.min 2147483647
          (e.2.2 (wordAt s p.core o.pa r n).toInt (wordAt s p.core o.pb r n).toInt)))

/-- R146, R153, R154, R224, R228: VSPLAT fills the columns below vl with the low bits of a scalar register, VMOV copies them,
VGET brings one word to a scalar register, VCVT converts between unpacked forms where it draws nothing, VSCALE.run scales
each row by column 2 of pb, and VLSE writes each row's log-sum-exp from columns 0 and 1 of pb; no other plate word changes. -/
def Obligations.VectorMoves : Prop :=
  (∀ (p : Site) (o : LayVS) (s : State), Presents p (.vsplat p o) s → Owns s p [o.p] →
    Answers (.vsplat p o) s fun t => Wrote p o.p (vlenOf s p) (fun _ _ =>
      let w : W32 := (regOf s p o.r).truncate 32
      ⟨if (fmtOf o.fmt).bits = 16 then (w.truncate 16 : BitVec 16) ++ (w.truncate 16 : BitVec 16) else w, false, false⟩) s t) ∧
  (∀ (p : Site) (o : LayV) (s : State), Presents p (.vmov p o) s → Owns s p (one o) →
    Answers (.vmov p o) s fun t => Wrote p o.pd (vlenOf s p) (fun r n => ⟨wordAt s p.core o.pa r n, false, false⟩) s t) ∧
  (∀ (p : Site) (o : LayVS) (s : State), Presents p (.vget p o) s → Owns s p [o.p] →
    exec (.vget p o) s = .next (issuedAs (withCore s p.core ((s.cores[p.core]).vecCount p.core s.glob.tick (1, 0) true)) p
      (pcOf s p + 8)
      (putReg o.r ((wordAt s p.core o.p o.row.toNat o.col.toFin).zeroExtend 64)))) ∧
  (∀ (p : Site) (o : LayV) (s : State), Presents p (.vcvt p o) s → Owns s p (one o) → o.rnd ≠ 2 →
    (fmtOf (o.aux.truncate 5)).packed = false → (fmtIs o).packed = false →
    Answers (.vcvt p o) s fun t => Wrote p o.pd (vlenOf s p) (fun r n =>
      convert (fmtOf (o.aux.truncate 5)) (fmtIs o) (Rnd.ofField o.rnd 0) o.ovfm (wordAt s p.core o.pa r n)) s t) ∧
  (∀ (p : Site) (o : LayV) (s : State), Presents p (.vscaleRun p o) s → Owns s p [o.pd, o.pb] →
    Answers (.vscaleRun p o) s fun t => Wrote p o.pd (vlenOf s p) (fun r n =>
      Fmt.fp32.rne ((f32 (wordAt s p.core o.pd r n)).mul (f32 (wordAt s p.core o.pb r 2)))) s t) ∧
  (∀ (p : Site) (o : LayV) (s : State), Presents p (.vlse p o) s → Owns s p [o.pd, o.pb] →
    Answers (.vlse p o) s fun t => Wrote p o.pd 1 (fun r _ =>
      lseRow (wordAt s p.core o.pb r 0) (wordAt s p.core o.pb r 1)) s t)

/-- R147, R148, R151, R153, R155, R156: the reductions of rows and columns, the running row maximum, the exponentials below it with
their sum, and the permutations within rows and columns write what their rule computes, where it says, and leave every other
word as it is. -/
def Obligations.VectorRows : Prop :=
  (∀ (p : Site) (o : LayV) (s : State), Presents p (.vredRow p o) s → Owns s p (one o) →
    Answers (.vredRow p o) s fun t =>
      (∀ (r : Nat) (n : Fin 64), r < 64 → wordAt t p.core o.pd r n = if n = o.idx.toFin then
        (reduce (fmtIs o) o.sub ((((s.cores[p.core]).plateRow o.pa r).toList).take (vlenOf s p))).bits
        else wordAt s p.core o.pd r n) ∧
      OnlyPlates p.core [o.pd] s t ∧ OnlyFlags p s t ∧ OnlySite p id s t ∧ Only [.cores] s t) ∧
  (∀ (p : Site) (o : LayV) (s : State), Presents p (.vredCol p o) s → Owns s p (one o) →
    Answers (.vredCol p o) s fun t =>
      (∀ (r : Nat) (n : Fin 64), r < 64 → wordAt t p.core o.pd r n = if r = o.idx.toNat ∧ n.val < vlenOf s p then
        (reduce (fmtIs o) o.sub ((List.range 64).map fun r => wordAt s p.core o.pa r n)).bits
        else wordAt s p.core o.pd r n) ∧
      OnlyPlates p.core [o.pd] s t ∧ OnlyFlags p s t ∧ OnlySite p id s t ∧ Only [.cores] s t) ∧
  (∀ (p : Site) (o : LayV) (s : State), Presents p (.vmaxRun p o) s → Owns s p (one o) →
    Answers (.vmaxRun p o) s fun t =>
      (∀ (r : Nat) (n : Fin 64), r < 64 →
        let x := maxRunRow (wordAt s p.core o.pd r 0) ((((s.cores[p.core]).plateRow o.pa r).toList).take (vlenOf s p))
        wordAt t p.core o.pd r n = if n = 0 then x.1.bits else if n = 2 then x.2.bits
          else if n = 3 then wordAt s p.core o.pd r 0 else wordAt s p.core o.pd r n) ∧
      OnlyPlates p.core [o.pd] s t ∧ OnlyFlags p s t ∧ OnlySite p id s t ∧ Only [.cores] s t) ∧
  (∀ (p : Site) (o : LayV) (s : State), Presents p (.vexpSub p o) s → Owns s p (two o) →
    Answers (.vexpSub p o) s fun t =>
      (∀ (q : BitVec 4) (r : Nat) (n : Fin 64), r < 64 → wordAt t p.core q r n =
        if q = o.pb ∧ n = 1 then (Fmt.fp32.rne (Val.sum
            ((f32 (wordAt s p.core o.pb r 1)).mul (f32 (wordAt s p.core o.pb r 2)) ::
              (((List.finRange 64).take (vlenOf s p)).map fun m =>
                f32 (expSub (wordAt s p.core o.pa r m) (wordAt s p.core o.pb r 0)).bits)))).bits
        else if q = o.pd ∧ n.val < vlenOf s p then (expSub (wordAt s p.core o.pa r n) (wordAt s p.core o.pb r 0)).bits
        else wordAt s p.core q r n) ∧ OnlyFlags p s t ∧ OnlySite p id s t ∧ Only [.cores] s t) ∧
  (∀ (p : Site) (o : LayV) (s : State), Presents p (.vpermRow p o) s → Owns s p (two o) → vlenOf s p ≤ 64 →
    Answers (.vpermRow p o) s fun t =>
      (∀ (r : Nat) (n : Fin 64), r < 64 → wordAt t p.core o.pd r n = if vlenOf s p ≤ n.val then wordAt s p.core o.pd r n
        else if (wordAt s p.core o.pb r n).toNat < vlenOf s p then
          wordAt s p.core o.pa r (Fin.ofNat 64 (wordAt s p.core o.pb r n).toNat) else 0) ∧
      (t.cores[p.core]).vflags = withFlags s.cores[p.core] p.stream false false
        (anyWord (vlenOf s p) fun r n => decide (vlenOf s p ≤ (wordAt s p.core o.pb r n).toNat)) ∧
      OnlyPlates p.core [o.pd] s t ∧ OnlySite p id s t ∧ Only [.cores] s t) ∧
  (∀ (p : Site) (o : LayV) (s : State), Presents p (.vpermCol p o) s → Owns s p (two o) →
    Answers (.vpermCol p o) s fun t =>
      (∀ (r : Nat) (n : Fin 64), r < 64 → wordAt t p.core o.pd r n = if vlenOf s p ≤ n.val then wordAt s p.core o.pd r n
        else if (wordAt s p.core o.pb r n).toNat < 64 then wordAt s p.core o.pa (wordAt s p.core o.pb r n).toNat n
        else 0) ∧
      (t.cores[p.core]).vflags = withFlags s.cores[p.core] p.stream false false
        (anyWord (vlenOf s p) fun r n => decide (64 ≤ (wordAt s p.core o.pb r n).toNat)) ∧
      OnlyPlates p.core [o.pd] s t ∧ OnlySite p id s t ∧ Only [.cores] s t)

namespace Sys2Proof.Claims
open Sys2Proof.Machine

/-- DVA of row r of a strided access (R145). -/
def rowAt (s : State) (p : Site) (o : LayVM) (r : Nat) : Nat :=
  ((regOf s p o.ra).toNat + r * (regOf s p o.rb).toNat) % 2 ^ 64 % 2 ^ 48

/-- The formats whose elements a plate holds as memory does: 32-bit ones a word each, 16-bit ones two to a word (R145). -/
def asStoredFormats : List Fmt := [.fp32, .int32, .bf16, .fp16, .int16]

/-- The word VST stores for a plate word in such a format, with round to nearest: an integer's bits pass unchanged, a float goes
through the conversion of R62. -/
def storedWord (f : Fmt) (ovfm : Bool) (w : W32) : W32 :=
  let g (x : W32) : W32 := (convert f f .rne ovfm x).bits
  if f.isInt = true then w
  else if f.packed = true then
    ((g (w >>> 16)).truncate 16 : BitVec 16) ++ ((g (w &&& 0xFFFF)).truncate 16 : BitVec 16)
  else g w

/-- A DVA lies in one of the 64 rows of an access of vl words a row. -/
def inRows (s : State) (p : Site) (o : LayVM) (a : Nat) : Prop :=
  ∃ r : Nat, r < 64 ∧ rowAt s p o r ≤ a ∧ a < rowAt s p o r + 4 * vlenOf s p

/-- The bytes the write queue holds, with their DPAs, oldest first. -/
def queuedBytes (ws : List SectorW) : List (Nat × Byte) :=
  ws.flatMap fun w => w.bytes.map fun b => (256 * w.line.toNat + b.1, b.2)

/-- The near store holds the line of a DVA, good, under a translation with R. -/
def Held (s : State) (c : Fin 96) (dva : Nat) (f : Leaf) (x : NsLine) : Prop :=
  (s.cores[c]).tlbFind dva = some f ∧ f.r = true ∧ (s.cores[c]).nsFind (leafDpa f dva / 256) = some x ∧
    x.unref = false ∧ x.poison = false

end Sys2Proof.Claims

/-- R140, R145, R158: VLD of rows of a 32-bit format, or of a packed 16-bit one, whose lines the core holds brings every row's
words, also where a row lies over several lines; VST of such rows under
translations with W queues every row's bytes at their addresses, in row order, and changes no plate; VST.mx with a vl that is no multiple of 32
faults, and one whose rows and scales all find a translation with W completes. An instruction that names a plate its stream
neither owns nor is being given reads and writes no plate, records PLATE_OWNER and traps VECTOR at the boundary after it.
Where the rules leave a point open it rests on the choices of log entry 46. -/
def Obligations.VectorMemory : Prop :=
  (∀ (p : Site) (o : LayVM) (s : State), Presents p (.vld p o .none) s → Owns s p [o.pd] → fmtOf o.fmt ∈ asStoredFormats →
    vlenOf s p ≤ 64 → 1 ≤ vlenOf s p → (s.cores[p.core]).ctx.isSome = true →
    (∀ r : Nat, r < 64 → rowAt s p o r % 4 = 0 ∧ rowAt s p o r + 4 * vlenOf s p ≤ 2 ^ 48) →
    ∀ (f : Nat → Leaf) (x : Nat → NsLine), (∀ a : Nat, inRows s p o a → Held s p.core a (f (a / 256)) (x (a / 256))) →
    Answers (.vld p o .none) s fun t =>
      (∀ (r : Nat) (n : Fin 64), r < 64 → wordAt t p.core o.pd r n = if n.val < vlenOf s p then
        let a := rowAt s p o r + 4 * n.val
        BitVec.ofNat 32 (lineNum (x (a / 256)).data (a % 256) 4) else wordAt s p.core o.pd r n) ∧
      OnlyPlates p.core [o.pd] s t ∧ OnlySite p id s t ∧ (t.cores[p.core]).wq = (s.cores[p.core]).wq ∧
      (∀ l, nearBytes t p.core l = nearBytes s p.core l) ∧ Only [.cores] s t) ∧
  (∀ (p : Site) (o : LayVM) (s : State), Presents p (.vst p o) s → Owns s p [o.pd] → fmtOf o.fmt ∈ asStoredFormats →
    o.rnd = 0 → vlenOf s p ≤ 8 → 1 ≤ vlenOf s p → (s.cores[p.core]).ctx.isSome = true →
    (∀ r : Nat, r < 64 → rowAt s p o r % 4 = 0 ∧ rowAt s p o r + 4 * vlenOf s p ≤ 2 ^ 48) →
    ∀ (f : Nat → Leaf), (∀ a : Nat, inRows s p o a →
      (s.cores[p.core]).tlbFind a = some (f (a / 256)) ∧ (f (a / 256)).w = true) →
    (s.cores[p.core]).wq.length + 128 ≤ 256 →
    Answers (.vst p o) s fun t =>
      (∃ ws, (t.cores[p.core]).wq = (s.cores[p.core]).wq ++ ws ∧
        queuedBytes ws = ((List.range 64).flatMap fun r => (List.range (4 * vlenOf s p)).map fun i =>
          let a := rowAt s p o r + i
          (leafDpa (f (a / 256)) a, (storedWord (fmtOf o.fmt) o.ovfm (wordAt s p.core o.pd r (Fin.ofNat 64 (i / 4)))).extractLsb'
            (8 * (i % 4)) 8)) ∧
        ∀ w ∈ ws, w.eng = .vec ∧ w.stream = p.stream ∧ w.seqNo = (streamOf s p).seqNo) ∧
      OnlyPlates p.core [] s t ∧ OnlySite p id s t ∧ Only [.cores] s t) ∧
  (∀ (p : Site) (o : LayVM) (s : State), Presents p (.vstMx p o) s → Owns s p [o.pd] → vlenOf s p % 32 ≠ 0 →
    (s.cores[p.core]).vxFault = 0 →
    Answers (.vstMx p o) s fun t =>
      (streamOf t p).mode = .drain ∧ ((t.cores[p.core]).vxFault >>> 56).toNat % 16 = 6 ∧ OnlyPlates p.core [] s t ∧
      (t.cores[p.core]).wq = (s.cores[p.core]).wq ∧ Only [.cores] s t) ∧
  (∀ (p : Site) (o : LayVM) (s s' : State), Presents p (.vstMx p o) s → Owns s p [o.pd] → vlenOf s p % 32 = 0 →
    (List.range 64).foldl (fun (x : State × Option RowStop) r => match x.2 with
      | some _ => x
      | none => match x.1.vstMxRow (s.here p (opc 0x1B 0x02 o.bits)) o (vlenOf s p) (regOf s p o.ra) (regOf s p o.rb)
          (regOf s p o.rc) r with
        | (s, .error e) => (s, some e)
        | (s, .ok m) => (s.modCore p.core fun k => k.mark p.stream m, none)) (s, none) = (s', none) →
    exec (.vstMx p o) s = .next (issuedAs (withCore s' p.core ((s'.cores[p.core]).vecCount p.core s'.glob.tick (64, 0) true))
      p (pcOf s p + 8) id)) ∧
  (∀ e ∈ elementwise, ∀ (p : Site) (o : LayV) (s : State), Presents p (e.1 p o) s →
    (streamOf s p).plates.getLsbD o.pd.toNat = false →
    (∀ u : Fin 4, ((s.cores[p.core]).streams[u]).giving = []) → vecFree s p.core →
    (s.cores[p.core]).vxFault = 0 →
    Answers (e.1 p o) s fun t =>
      OnlyPlates p.core [] s t ∧ (t.cores[p.core]).vflags = (s.cores[p.core]).vflags ∧
      ((t.cores[p.core]).vxFault >>> 56).toNat % 16 = 4 ∧ (t.cores[p.core]).vxFault.getLsbD 63 = true ∧
      (streamOf t p).mode = .drain ∧
      (∃ x, (streamOf t p).trap = some x ∧ x.code = 0x06 ∧ x.pc = pcOf s p ∧ x.stoppc = pcOf s p + 8 ∧
        x.detail = (t.cores[p.core]).vxFault) ∧ Only [.cores] s t)

/-- R160, R164-R169: RSEED seeds the selected generators; RSAVE and RLOAD move all 384 through memory; VRAND takes one
draw of each lane's generator per word in row order; genlo is held for genhi, which installs both where the engines that
draw are idle and sets GEN_BUSY where they are not.
Where the rules leave a point open it rests on the choices of log entry 3. -/
def Obligations.Generators : Prop :=
  (∀ (p : Site) (o : RseedOps) (s : State), Presents p (.rseed p o) s → (s.cores[p.core]).quadIdle = true →
    vecFree s p.core →
    Answers (.rseed p o) s fun t =>
      (∀ g : Fin 384, (t.cores[p.core]).gens[g] =
        if (g.val < 128 ∧ o.sel.getLsbD 0 = true) ∨ (128 ≤ g.val ∧ o.sel.getLsbD 1 = true) then
          { a := (regOf s p o.rs).truncate 32, b := (regOf s p o.rs >>> 32).truncate 32,
            c := 0x4B39A5D1#32 ^^^ BitVec.ofNat 32 g.val, d := 0xC3E17F2D#32 ^^^ (o.key ++ 0#16) }
        else (s.cores[p.core]).gens[g]) ∧ OnlySite p id s t ∧ Only [.cores] s t) ∧
  (∀ (p : Site) (ra : BitVec 5) (s s' : State), Presents p (.rsave p ra) s → (s.cores[p.core]).quadIdle = true →
    vecFree s p.core →
    s.storeBytes p.core p.stream (streamOf s p).seqNo .vec ((adr s p ra).toNat / 16 * 16) (genBytes s.cores[p.core]) =
      (s', .ok ()) → exec (.rsave p ra) s = .next (issuedAs s' p (pcOf s p + 8) id)) ∧
  (∀ (p : Site) (ra : BitVec 5) (u : Upset) (s s' : State) (bs : List Byte), Presents p (.rload p ra u) s →
    (s.cores[p.core]).quadIdle = true → vecFree s p.core →
    s.loadBytes p.core p.stream none ((adr s p ra).toNat / 16 * 16) 6144 u = (s', .ok bs) →
    exec (.rload p ra u) s = .next (issuedAs (withCore s' p.core { (s'.cores[p.core]) with gens := gensOf bs }) p
      (pcOf s p + 8) id)) ∧
  (∀ e ∈ ([(Instr.vrandU32, fun w => w),
      (.vrandF32, fun w => (Fmt.fp32.rne (.fin false (w.toNat / 256) (-24))).bits)] :
        List ((Site → LayV → Instr) × (W32 → W32))), ∀ (p : Site) (o : LayV) (s : State), Presents p (e.1 p o) s →
    Owns s p [o.pd] → Answers (e.1 p o) s fun t =>
      (∀ n : Fin 64, n.val < vlenOf s p → wordAt t p.core o.pd 0 n = e.2 ((s.cores[p.core]).gens[laneGen ⟨n.val, by omega⟩]).next.1) ∧
      (∀ (r : Nat) (n : Fin 64), r < 64 → vlenOf s p ≤ n.val → wordAt t p.core o.pd r n = wordAt s p.core o.pd r n) ∧
      (∀ g : Fin 384, 128 ≤ g.val → (t.cores[p.core]).gens[g] = (s.cores[p.core]).gens[g]) ∧
      OnlyPlates p.core [o.pd] s t ∧ (t.cores[p.core]).vflags = (s.cores[p.core]).vflags ∧ OnlySite p id s t ∧ Only [.cores] s t) ∧
  (∀ (m : RegMaster) (c : Fin 96) (g : Fin 384) (v : Word) (s : State), pathOpen s m →
    exec (.genloWrite m c g v) s = .next (withCore s c { (s.cores[c]) with
      genHeld := (g.val, v) :: (s.cores[c]).genHeld.filter fun x => x.1 ≠ g.val })) ∧
  (∀ (m : RegMaster) (c : Fin 96) (g : Fin 384) (v lo : Word) (s : State), pathOpen s m →
    (s.cores[c]).genHeld = [(g.val, lo)] →
    (vecFree s c ∧ (g.val < 128 ∨ (s.cores[c]).quadIdle = true) →
      v ≠ 0 → exec (.genhiWrite m c g v) s = .next (withCore s c { (s.cores[c]) with
        genHeld := []
        gens := (s.cores[c]).gens.set g { a := lo.truncate 32, b := (lo >>> 32).truncate 32, c := v.truncate 32,
                                          d := (v >>> 32).truncate 32 } })) ∧
    (128 ≤ g.val ∧ (s.cores[c]).quadIdle = false →
      exec (.genhiWrite m c g v) s = .next (withCore s c { (s.cores[c]) with genHeld := [], genBusy := true })))

/-! ### Stack controllers (R268-R293, R308-R313) -/

namespace Sys2Proof.Claims
open Sys2Proof.Machine

/-- Stack k's controller works, under a boot key (R33, R296, R306). -/
def StackOn (s : State) (k : Fin 16) : Prop :=
  s.sup.power = .running ∧ s.mem.haltStage < 2 ∧ s.glob.stackRun = true ∧ s.mem.keyValid = true ∧ (s.mem.stk[k]).selfRefresh = false

/-- A line that DRAM serves: its stack works, its group is not LOST, its slice does not hold it and no partial write
waits. -/
structure InDram (s : State) (l : Nat) : Prop where
  plain : plainLine s l
  on : StackOn s (lineStack l)
  group : (s.mem.stk[lineStack l]).erasedAt (lineGroup l) (lineK l) ≠ none
  absent : s.mem.sliceFind l = none
  ways : (Tbl.get (CSet.empty 16) s.mem.slice (sliceSet l)).ways.length = 16
  parts : s.mem.parts = []

/-- Both reads of a line meet an uncorrectable beat (R276). -/
def Undecodable (s : State) (l : Nat) (e : BurstErr) : Prop :=
  let mode := (s.mem.stk[lineStack l]).erasedAt (lineGroup l) (lineK l)
  (decodeBurst mode e.first).bad ≠ none ∧ (decodeBurst mode e.second).bad ≠ none

/-- The state with stack controller k replaced. -/
def withStack (s : State) (k : Fin 16) (x : Stack) : State := { s with mem := { s.mem with stk := s.mem.stk.set k x } }

/-- The state with the head gone from the repair queue of stack k (R283). -/
def popped (s : State) (k : Fin 16) (rest : List Word) : State :=
  withStack s k { (s.mem.stk[k]) with repairQ := rest, repRecorded := false }

/-- No die of the stack but d is due for retirement (R286). -/
def NoneDue (s : State) (k : Fin 16) (d : Nat) : Prop :=
  ∀ e : Nat, e < 16 → e ≠ d → (s.mem.stk[k]).dieDue e s.tick = false

end Sys2Proof.Claims

/-- R243, R276-R278, R288, R303, R308, R309: a read of a written line delivers it into its slice;
one of another owner sets OWNER and delivers nothing; a tag failure starts a halt; an
uncorrectable line is poisoned. A full-line write gives a line that was never written, that is
of its own owner, or that cannot be decoded, its data, owner and good tag; to a line of another
owner it writes nothing and sets OWNER. A partial write to an absent line merges into what was
read, into zeros where the line was never written, and into zeros marked poisoned where the line
is poisoned or cannot be decoded; one of another owner merges nothing. An evicted line leaves
its slice, and a dirty one is written to its place in the stacks. Where the rules leave a point
open it rests on the choices of log entries 13 and 48. -/
def Obligations.StackLines : Prop :=
  (∀ (s : State) (line : BitVec 40) (o : BitVec 4), InDram s line.toNat →
    (s.mem.side1 line.toNat).written = true → (s.mem.side1 line.toNat).poison = false →
    (s.mem.tagOk line.toNat = true → (s.mem.side1 line.toNat).owner = o →
      Answers (.stackLineRead .engine line o ⟨[], []⟩) s fun t =>
        t.mem.sliceFind line.toNat = some ⟨s.mem.dramLine line.toNat, o, false, false⟩ ∧
        t.mem.dramLine line.toNat = s.mem.dramLine line.toNat ∧ t.mem.side1 line.toNat = s.mem.side1 line.toNat ∧
        t.mem.stk = s.mem.stk ∧ Only [.mem] s t) ∧
    ((s.mem.side1 line.toNat).owner ≠ o →
      Answers (.stackLineRead .engine line o ⟨[], []⟩) s fun t =>
        (t.mem.stk[lineStack line.toNat]).ownerF = true ∧ t.mem.slice = s.mem.slice ∧ t.mem.dram = s.mem.dram ∧
        t.mem.side = s.mem.side ∧ t.mem.haltStage = s.mem.haltStage ∧ Only [.mem] s t) ∧
    (s.mem.tagOk line.toNat = false → (s.mem.side1 line.toNat).owner = o → s.mem.haltStage = 0 →
      Answers (.stackLineRead .engine line o ⟨[], []⟩) s fun t =>
        t.mem.haltStage = 1 ∧ t.mem.haltCause = 1 ∧ t.mem.haltTick = s.glob.tick ∧ t.mem.slice = s.mem.slice ∧
        t.mem.dram = s.mem.dram ∧ t.mem.side = s.mem.side ∧ Only [.mem] s t)) ∧
  (∀ (s : State) (line : BitVec 40) (o : BitVec 4) (e : BurstErr), InDram s line.toNat →
    (s.mem.side1 line.toNat).written = true → Undecodable s line.toNat e →
    Answers (.stackLineRead .engine line o e) s fun t =>
      (t.mem.side1 line.toNat).poison = true ∧ (t.mem.stk[lineStack line.toNat]).ue = true ∧
      t.mem.slice = s.mem.slice ∧ t.mem.dram = s.mem.dram ∧
      (∀ l, l ≠ line.toNat → t.mem.side1 l = s.mem.side1 l) ∧ Only [.mem] s t) ∧
  (∀ (s : State) (line : BitVec 40) (o : BitVec 4) (d : Line) (e : BurstErr), InDram s line.toNat →
    ((s.mem.side1 line.toNat).written = false ∨ (s.mem.side1 line.toNat).owner = o ∧ e = ⟨[], []⟩ ∨ Undecodable s line.toNat e →
      Answers (.stackLineWrite .engine line o d e) s fun t =>
        t.mem.dramLine line.toNat = d ∧ (t.mem.side1 line.toNat).owner = o ∧ (t.mem.side1 line.toNat).written = true ∧
        (t.mem.side1 line.toNat).poison = false ∧ t.mem.tagOk line.toNat = true ∧
        (∀ l, l ≠ line.toNat → t.mem.dramLine l = s.mem.dramLine l ∧ t.mem.side1 l = s.mem.side1 l) ∧
        t.mem.slice = s.mem.slice ∧ Only [.mem] s t) ∧
    ((s.mem.side1 line.toNat).written = true → (s.mem.side1 line.toNat).owner ≠ o → e = ⟨[], []⟩ →
      Answers (.stackLineWrite .engine line o d e) s fun t =>
        (t.mem.stk[lineStack line.toNat]).ownerF = true ∧ t.mem.dram = s.mem.dram ∧ t.mem.side = s.mem.side ∧
        t.mem.slice = s.mem.slice ∧ Only [.mem] s t)) ∧
  (∀ (s : State) (line : BitVec 40) (bs : List (Nat × Byte)) (o : BitVec 4) (m : Master), line.toNat < 0xC0000000 →
    StackOn s (lineStack line.toNat) → s.mem.sliceFind line.toNat = none → s.mem.parts = [⟨line, bs, o, m⟩] →
    (Tbl.get (CSet.empty 16) s.mem.slice (sliceSet line.toNat)).ways.length = 16 →
    ((s.mem.side1 line.toNat).written = false →
      Answers (.partialWriteMerge line ⟨[], []⟩) s fun t =>
        t.mem.sliceFind line.toNat = some ⟨mergeBytes zeroLine bs, o, false, true⟩ ∧
        (t.mem.side1 line.toNat).written = true ∧ t.mem.dramLine line.toNat = zeroLine ∧ t.mem.parts = [] ∧
        Only [.mem] s t) ∧
    ((s.mem.side1 line.toNat).written = true → (s.mem.side1 line.toNat).poison = false →
      (s.mem.side1 line.toNat).owner = o → s.mem.tagOk line.toNat = true →
      (s.mem.stk[lineStack line.toNat]).erasedAt (lineGroup line.toNat) (lineK line.toNat) ≠ none →
      Answers (.partialWriteMerge line ⟨[], []⟩) s fun t =>
        t.mem.sliceFind line.toNat = some ⟨mergeBytes (s.mem.dramLine line.toNat) bs, o, false, true⟩ ∧
        t.mem.dramLine line.toNat = s.mem.dramLine line.toNat ∧ t.mem.parts = [] ∧ Only [.mem] s t) ∧
    ((s.mem.side1 line.toNat).written = true → (s.mem.side1 line.toNat).poison = true →
      (s.mem.side1 line.toNat).owner = o →
      (s.mem.stk[lineStack line.toNat]).erasedAt (lineGroup line.toNat) (lineK line.toNat) ≠ none →
      Answers (.partialWriteMerge line ⟨[], []⟩) s fun t =>
        t.mem.sliceFind line.toNat = some ⟨mergeBytes zeroLine bs, o, true, true⟩ ∧
        t.mem.dramLine line.toNat = s.mem.dramLine line.toNat ∧ t.mem.parts = [] ∧ Only [.mem] s t) ∧
    ((s.mem.side1 line.toNat).written = true → (s.mem.side1 line.toNat).owner ≠ o →
      (s.mem.stk[lineStack line.toNat]).erasedAt (lineGroup line.toNat) (lineK line.toNat) ≠ none →
      Answers (.partialWriteMerge line ⟨[], []⟩) s fun t =>
        (t.mem.stk[lineStack line.toNat]).ownerF = true ∧ t.mem.slice = s.mem.slice ∧ t.mem.dram = s.mem.dram ∧
        t.mem.side = s.mem.side ∧ t.mem.parts = [] ∧ Only [.mem] s t) ∧
    (∀ e : BurstErr, (s.mem.side1 line.toNat).written = true → Undecodable s line.toNat e →
      Answers (.partialWriteMerge line e) s fun t =>
        t.mem.sliceFind line.toNat = some ⟨mergeBytes zeroLine bs, o, true, true⟩ ∧
        (t.mem.side1 line.toNat).poison = true ∧ (t.mem.stk[lineStack line.toNat]).ue = true ∧ t.mem.parts = [] ∧
        Only [.mem] s t)) ∧
  (∀ (s : State) (line : BitVec 40) (x : SliceLine), Alive s → s.glob.meshRun = true → s.mem.sliceFind line.toNat = some x →
    Answers (.sliceEviction line) s fun t =>
      t.mem.sliceFind line.toNat = none ∧
      (x.dirty = true → t.mem.dramLine line.toNat = x.data ∧ (t.mem.side1 line.toNat).owner = x.owner ∧
        (t.mem.side1 line.toNat).poison = x.poison ∧ (t.mem.side1 line.toNat).written = true) ∧
      (x.dirty = false → t.mem.dram = s.mem.dram ∧ t.mem.side = s.mem.side) ∧
      (∀ l, l ≠ line.toNat → t.mem.dramLine l = s.mem.dramLine l ∧ t.mem.side1 l = s.mem.side1 l) ∧
      (∀ l, l ≠ line.toNat → sliceBytes t l = sliceBytes s l) ∧ Only [.mem] s t)

/-- R280-R291: the patrol reads the next line of its stack and changes no byte; a row whose corrections reach the threshold
takes a free spare row of its bank, or its die is retired where none is left; a rebuild passes line by line; RETIRE moves every group of the die to its next state, or
is rejected; the repair queue loses its head; FILL and map clear make lines never written, and no others; temperature
halves the refresh interval and sets THERM. The curator's pop records the repair first, once, and removes none once the
records are full (R512).
Where the rules leave a point open it rests on the choices of log entries 13 and 42. -/
def Obligations.StackRepair : Prop :=
  (∀ (k : Fin 16) (s : State), StackOn s k → (s.mem.stk[k]).trained = true → (s.mem.stk[k]).filling = false →
    (s.mem.stk[k]).consEn = true →
    (s.mem.stk[k]).erasedAt (s.mem.stk[k]).posGroup.toFin (s.mem.stk[k]).posK.toNat ≠ none →
    ((s.mem.stk[k]).posGroup ≠ 15 → exec (.patrolRead k ⟨[], []⟩) s =
      .next (withStack s k { (s.mem.stk[k]) with posGroup := (s.mem.stk[k]).posGroup + 1 })) ∧
    ((s.mem.stk[k]).posGroup = 15 → (s.mem.stk[k]).posK.toNat + 1 < 12591104 → exec (.patrolRead k ⟨[], []⟩) s =
      .next (withStack s k { (s.mem.stk[k]) with posGroup := 0, posK := (s.mem.stk[k]).posK + 1 })) ∧
    ((s.mem.stk[k]).posGroup = 15 → 12591104 ≤ (s.mem.stk[k]).posK.toNat + 1 → exec (.patrolRead k ⟨[], []⟩) s =
      .next (withStack s k { (s.mem.stk[k]) with
        posGroup := 0, posK := 0, passes := (s.mem.stk[k]).passes + 1
        rowErrs := (s.mem.stk[k]).rowErrs.filter fun r => decide ((s.mem.stk[k]).rowThr.toNat ≤ r.2) }))) ∧
  (∀ (k : Fin 16) (d c : BitVec 4) (b : BitVec 5) (r : BitVec 14) (es : List (BitVec 5 × BurstErr)) (s : State), StackOn s k → c.toNat ≤ 11 →
    r.toNat < 12296 → (s.mem.stk[k]).retired.getLsbD d.toNat = false → (s.mem.stk[k]).repairQ.length < 16 →
    (s.mem.stk[k]).rowThr.toNat ≤ Tbl.get 0 (s.mem.stk[k]).rowErrs (rowKey d.toNat c.toNat b.toNat r.toNat) →
    Answers (.rowSpare k d c b r es) s fun t =>
      (es = [] → bankLeft k (s.mem.stk[k]) (bankKey d.toNat c.toNat b.toNat) ≠ [] →
        (∃ i ∈ bankLeft k (s.mem.stk[k]) (bankKey d.toNat c.toNat b.toNat),
          Tbl.find? (t.mem.stk[k]).rowMap (rowKey d.toNat c.toNat b.toNat r.toNat) = some i ∧
          (Tbl.get 0 (t.mem.stk[k]).bankTaken (bankKey d.toNat c.toNat b.toNat)).testBit i = true ∧
          ∃ rest, (t.mem.stk[k]).repairQ = (s.mem.stk[k]).repairQ ++
            repairEntry 1 d.toNat c.toNat b.toNat r.toNat i :: rest) ∧
        (t.mem.stk[k]).spareLeft = (s.mem.stk[k]).spareLeft - 1) ∧
      (bankLeft k (s.mem.stk[k]) (bankKey d.toNat c.toNat b.toNat) = [] →
        (t.mem.stk[k]).retired = (s.mem.stk[k]).retired ||| (1#16 <<< d.toNat) ∧
        (t.mem.stk[k]).rowMap = (s.mem.stk[k]).rowMap) ∧
      t.mem.dram = s.mem.dram ∧ t.mem.slice = s.mem.slice ∧ Only [.mem, .glob] s t) ∧
  (∀ (k g : Fin 16) (n : Nat) (q : BitVec 4) (s : State), StackOn s k → (s.mem.stk[k]).rebuild = [(g.val, n)] →
    (s.mem.stk[k]).groups[g] = .remapped q →
    (n + 1 < 12591104 → exec (.rebuildStep k g ⟨[], []⟩) s =
      .next (withStack s k { (s.mem.stk[k]) with rebuild := [(g.val, n + 1)] })) ∧
    (12591104 ≤ n + 1 → exec (.rebuildStep k g ⟨[], []⟩) s =
      .next (withStack s k { (s.mem.stk[k]) with rebuild := [] }))) ∧
  (∀ (m : RegMaster) (k : Fin 16) (d : BitVec 4) (s : State), pathOpen s m →
    ((s.mem.stk[k]).retired.getLsbD d.toNat = true → exec (.stackRetire m k d) s =
      .next (withStack s k { (s.mem.stk[k]) with cmdReject := true })) ∧
    ((s.mem.stk[k]).retired.getLsbD d.toNat = false → (s.mem.stk[k]).repairQ = [] → NoneDue s k d.toNat →
      Answers (.stackRetire m k d) s fun t =>
        (t.mem.stk[k]).retired = (s.mem.stk[k]).retired ||| (1#16 <<< d.toNat) ∧
        (∀ g : Fin 16, (s.mem.stk[k]).groups[g] = .fullSpare →
          let p := (d.toNat + 16 - g.val) % 16
          (t.mem.stk[k]).groups[g] = if p < 11 then .remapped (BitVec.ofNat 4 p) else if p = 11 then .noSpare else .fullSpare) ∧
        (∀ (g : Fin 16) (q : BitVec 4), (s.mem.stk[k]).groups[g] = .remapped q →
          let p := (d.toNat + 16 - g.val) % 16
          (t.mem.stk[k]).groups[g] =
            if p < 11 then .degraded (BitVec.ofNat 4 p) else if p = 11 then .degraded q else .remapped q) ∧
        (∀ g : Fin 16, (s.mem.stk[k]).groups[g] = .noSpare →
          let p := (d.toNat + 16 - g.val) % 16
          (t.mem.stk[k]).groups[g] = if p < 11 then .degraded (BitVec.ofNat 4 p) else .noSpare) ∧
        (∀ (g : Fin 16) (q : BitVec 4), (s.mem.stk[k]).groups[g] = .degraded q →
          (t.mem.stk[k]).groups[g] = if (d.toNat + 16 - g.val) % 16 ≤ 11 then .lost else .degraded q) ∧
        (t.mem.stk[k]).repairQ.length = 1 ∧ t.mem.dram = s.mem.dram ∧ t.mem.side = s.mem.side ∧
        t.mem.slice = s.mem.slice ∧ Only [.mem] s t)) ∧
  (∀ (k : Fin 16) (w : Word) (rest : List Word) (s : State), NoneDue s k 16 → (s.mem.stk[k]).repairQ = w :: rest →
    (pathOpen s .host → exec (.repairQueuePop .host k) s = .next (popped s k rest)) ∧
    (pathOpen s .curator → (s.mem.stk[k]).repRecorded = true →
      exec (.repairQueuePop .curator k) s = .next (popped s k rest)) ∧
    (pathOpen s .curator → (s.mem.stk[k]).repRecorded = false → s.alm.repair.length < 131071 →
      Answers (.repairQueuePop .curator k) s fun t =>
        t.mem = (popped s k rest).mem ∧
        (∃ r, t.alm.repair = s.alm.repair ++ [r] ∧ r.unit = BitVec.ofNat 8 k.val ∧ r.value = w) ∧ Only [.mem, .alm] s t) ∧
    (pathOpen s .curator → (s.mem.stk[k]).repRecorded = false → 131072 ≤ s.alm.repair.length →
      exec (.repairQueuePop .curator k) s = .next { s with cur := { s.cur with repairFull := true } })) ∧
  (∀ (m : RegMaster) (k : Fin 16) (s : State), pathOpen s m →
    (s.mem.keyValid = true → (∀ c : Fin 96, (s.cores[c]).mode = .gated ∨ (s.cores[c]).mode = .retired) → s.noTransfers = true →
      exec (.stackFill m k) s = .next (withStack s k { (s.mem.stk[k]) with filling := true })) ∧
    ((∃ c : Fin 96, (s.cores[c]).mode = .active) →
      exec (.stackFill m k) s = .next (withStack s k { (s.mem.stk[k]) with cmdReject := true }))) ∧
  (∀ (k : Fin 16) (s : State), StackOn s k → (s.mem.stk[k]).filling = true →
    Answers (.fillComplete k) s fun t =>
      (t.mem.stk[k]).filling = false ∧
      (∀ l : Nat, l < 0xC0000000 → lineStack l = k →
        t.mem.dramLine l = zeroLine ∧ t.mem.side1 l = LineMeta.fresh ∧ t.mem.sliceFind l = none) ∧
      (∀ l : Nat, l < 0xC0000000 → lineStack l ≠ k →
        t.mem.dramLine l = s.mem.dramLine l ∧ t.mem.side1 l = s.mem.side1 l ∧ sliceBytes t l = sliceBytes s l) ∧
      Only [.mem] s t) ∧
  (∀ (m : RegMaster) (k : Fin 16) (page : BitVec 27) (s : State), pathOpen s m →
    Answers (.mapClear m k page) s fun t =>
      (t.mem.stk[k]).mapBusy = true ∧
      (∀ l : Nat, l < 0xC0000000 → l / 8192 = page.toNat → lineStack l = k →
        t.mem.dramLine l = zeroLine ∧ t.mem.side1 l = LineMeta.fresh ∧ t.mem.sliceFind l = none) ∧
      (∀ l : Nat, l < 0xC0000000 → (l / 8192 ≠ page.toNat ∨ lineStack l ≠ k) →
        t.mem.dramLine l = s.mem.dramLine l ∧ t.mem.side1 l = s.mem.side1 l ∧ sliceBytes t l = sliceBytes s l) ∧
      Only [.mem] s t) ∧
  (∀ (k : Fin 16) (s : State), StackOn s k → (s.mem.stk[k]).mapBusy = true →
    exec (.mapClearDone k) s = .next (withStack s k { (s.mem.stk[k]) with mapBusy := false })) ∧
  (∀ (k : Fin 16) (x : Int) (s : State), s.sup.power = .running → s.glob.stackRun = true →
    exec (.stackTempChange k x) s = .next (withStack s k { (s.mem.stk[k]) with
      temp := x
      refreshHalved := decide (85 < x)
      therm := if 95 < x then true else (s.mem.stk[k]).therm }))

/-! ### Device halt (R305-R307, R315, R316) -/

namespace Sys2Proof.Claims
open Sys2Proof.Machine

/-- The state with another memory system. -/
def withMem (s : State) (m : Mem) : State := { s with mem := m }

/-- DPA_HOLE is set and nothing else changes. -/
def holed (s : State) : State := { s with glob := { s.glob with dpaHole := true } }

end Sys2Proof.Claims

/-- R305-R307, R315: ZEROIZE of the curator starts a halt that keeps its first cause; after a failed key test it does nothing; it propagates, zeroes the key and with it
loses the sessions, queue pairs, transit state, the vault's keys and work and the tenants' sessions and keys, drives
MOD_FAULT_N, takes the links down, with FAILOVER and the DOWN bit of each plane that had one up (R387), and clears what the chip
stores; from its propagation on no instruction issues. LOCK
freezes the curator windows. Neither takes a write of another master.
Where the rules leave a point open it rests on the choices of log entries 19 and 45. -/
def Obligations.DeviceHalt : Prop :=
  (∀ s : State, pathOpen s .curator →
    (s.mem.haltStage = 0 → s.mem.haltCause ≠ 3 → exec (.zeroize .curator) s =
      .next (withMem s { s.mem with haltStage := 1, haltCause := 2, haltTick := s.glob.tick })) ∧
    (s.mem.haltStage ≠ 0 ∨ s.mem.haltCause = 3 → exec (.zeroize .curator) s = .next s) ∧
    exec (.curatorWindowLock .curator) s = .next (withMem s { s.mem with lock := true })) ∧
  (∀ s : State, pathOpen s .host → exec (.zeroize .host) s = .next (holed s) ∧
    exec (.curatorWindowLock .host) s = .next (holed s)) ∧
  (∀ s : State, s.sup.power = .running →
    (s.mem.haltStage = 1 → exec .haltPropagate s = .next (withMem s { s.mem with haltStage := 2, parts := [] })) ∧
    (s.mem.haltStage = 2 → Answers .haltKeyZero s fun t =>
      t.mem = { s.mem with haltStage := 3, keyValid := false } ∧ t.fab.sess = [] ∧ t.fab.qps = [] ∧ t.fab.reqs = [] ∧
      t.fab.paths = s.fab.paths ∧ t.fab.ports = s.fab.ports ∧ t.tr = State.reset.tr ∧ t.vault.key0 = none ∧
      t.vault.key1 = none ∧ t.vault.jobs = [] ∧ t.vault.drain = none ∧ t.reg.tenants = [] ∧ t.reg.kemReady = false ∧
      t.reg.prov = s.reg.prov ∧ (∀ n, (Tbl.get CtxSec.none t.reg.ctxs n).ownerKeys = []) ∧
      Only [.mem, .fab, .tr, .vault, .reg] s t) ∧
    (s.mem.haltStage = 3 → exec .haltFaultPin s =
      .next { s with mem := { s.mem with haltStage := 4 }, sup := { s.sup with faultLow := true } }) ∧
    (s.mem.haltStage = 4 → Answers .haltLinksDown s fun t =>
      (∀ i : Fin 16, (t.fab.paths[i]).mode = .down) ∧ t.fab.heldTx = [] ∧
      ((∃ i : Fin 16, i.val < 8 ∧ (s.fab.paths[i]).mode = .up) → t.fab.downA = true ∧ t.fab.failover = true) ∧
      ((∃ i : Fin 16, 8 ≤ i.val ∧ (s.fab.paths[i]).mode = .up) → t.fab.downB = true ∧ t.fab.failover = true) ∧ t.mem = { s.mem with haltStage := 5 } ∧
      (∀ p : Fin 8, (s.fab.paths[(⟨2 * p.val, by omega⟩ : Fin 16)]).mode = .up → (t.fab.ports[p]).linkDrop = true) ∧
      t.fab.sess = s.fab.sess ∧ Only [.mem, .fab] s t) ∧
    (s.mem.haltStage = 5 → Answers .haltClear s fun t =>
      t.mem.halted = true ∧ t.mem.slice = [] ∧ t.mem.dram = s.mem.dram ∧ t.mem.side = s.mem.side ∧
      (∀ c : Fin 96, (t.cores[c]).ns = [] ∧ (t.cores[c]).plates = [] ∧ (t.cores[c]).handoff = [] ∧
        (t.cores[c]).icache = [] ∧ (t.cores[c]).tlb = [] ∧ (t.cores[c]).wq = [] ∧
        ∀ a : Fin 4, ((t.cores[c]).arrs[a]).acc = []) ∧
      (∀ k : Fin 16, (t.mem.stk[k]).selfRefresh = true) ∧ t.fab = { s.fab with heldTx := [] } ∧
      Only [.cores, .mem, .fab] s t)) ∧
  (∀ (i : Instr) (p : Site) (s t : State), i.site = some p → 2 ≤ s.mem.haltStage → exec i s ≠ .next t)

/-! ### Queues and their commands (R333-R360) -/

namespace Sys2Proof.Claims
open Sys2Proof.Machine

/-- Commands are processed (R362); the mesh, which a command's arrival wakes, runs (R32). -/
def Processing (s : State) : Prop :=
  s.sup.power = .running ∧ s.mem.haltStage < 2 ∧ s.host.lock = true ∧ s.cur.deepIdle = false ∧ s.glob.meshRun = true

/-- A queue has taken command x, which stands at its HEAD; its entry e is on chip. -/
structure Taken (s : State) (q : BitVec 13) (x : QCmd) (e : List Word) : Prop where
  open' : Processing s
  cmd : Tbl.find? s.host.taken q.toNat = some x
  entry : Tbl.find? s.host.queues q.toNat = some e
  words : e.length = 16
  head : qHead e = x.pos

/-- The queue's entry in t is `e` but for HEAD, STATE and the error fields. -/
def QueueAt (t : State) (q : BitVec 13) (e : List Word) (head : BitVec 32) (state : Nat) : Prop :=
  ∃ f, Tbl.find? t.host.queues q.toNat = some f ∧ qHead f = head ∧ qState f = state ∧ qTail f = qTail e ∧
    ew f 0 = ew e 0 ∧ ew f 1 = ew e 1

/-- The command has completed: HEAD is past it, a WAITING queue runs on, nothing of it is held, and its completion fence
is signalled where it names one (R345). -/
def Completed (s t : State) (q : BitVec 13) (x : QCmd) (e : List Word) : Prop :=
  Tbl.find? t.host.taken q.toNat = none ∧
  QueueAt t q e (x.pos + (if cmdKind x.words = 1 then 2 else 1)) (if qState e = 2 then 1 else qState e) ∧
  t.host.inbox = s.host.inbox ++ (if cmdCfen x.words = true then
    [⟨cmdCfence x.words, ew x.words 1, false, .command⟩] else [])

/-- The command has been refused with a code: CMD_ERR, ERRCODE and ERRPOS show it, and the queue stops at it or goes on
after it (R344). -/
def Refused (t : State) (q : BitVec 13) (x : QCmd) (e : List Word) (code : Nat) (stop : Bool) : Prop :=
  Tbl.find? t.host.taken q.toNat = none ∧ t.host.cmdErr = true ∧
  QueueAt t q e (if stop = true then x.pos else x.pos + 1) (if stop = true then 0 else if qState e = 2 then 1 else qState e) ∧
  ∃ f, Tbl.find? t.host.queues q.toNat = some f ∧ nfld (ew f 3) 56 8 = code ∧ (ew f 3 >>> 24).truncate 32 = x.pos

/-- The command stands at another stage and nothing else of the host objects changes. -/
def Staged (s : State) (q : BitVec 13) (x : QCmd) (g : CmdStage) : State :=
  { s with host := { s.host with taken := Tbl.put s.host.taken q.toNat { x with stage := g } } }

end Sys2Proof.Claims

/-- R341-R345: a doorbell within the ring moves TAIL, one beyond it stops the queue with DB_OVERFLOW; a queue that may take
a command takes the one at HEAD, or refuses it, with RING_XLATE where a slot of it cannot be read; a NOP or a SIGNAL completes at once, and a WAIT when its fence has
reached its value, refused where it carries an error.
Where the rules leave a point open it rests on the choices of log entry 23. -/
def Obligations.HostQueues : Prop :=
  (∀ (q : BitVec 13) (tail : BitVec 32) (s : State) (e : List Word), s.sup.power = .running → s.mem.haltStage < 2 →
    s.cur.deepIdle = false → s.glob.meshRun = true → Tbl.find? s.host.queues q.toNat = some e → e.length = 16 →
    qValid e = true → Answers (.doorbellWrite q tail) s fun t =>
      (∀ n : Nat, n ≠ q.toNat → Tbl.find? t.host.queues n = Tbl.find? s.host.queues n) ∧ Only [.host] s t ∧
      ((tail - qHead e).toNat ≤ 2 ^ qRlog e → ∃ f, Tbl.find? t.host.queues q.toNat = some f ∧ qTail f = tail ∧
        qHead f = qHead e ∧ qState f = qState e ∧ t.host.cmdErr = s.host.cmdErr) ∧
      (2 ^ qRlog e < (tail - qHead e).toNat → t.host.cmdErr = true ∧ ∃ f, Tbl.find? t.host.queues q.toNat = some f ∧
        qState f = 0 ∧ nfld (ew f 3) 56 8 = 5 ∧ ew f 2 = ew e 2)) ∧
  (∀ (q : BitVec 13) (s s' : State) (e ws : List Word), Processing s → Tbl.find? s.host.queues q.toNat = some e →
    qValid e = true → qState e = 1 → qHead e ≠ qTail e → Tbl.find? s.host.taken q.toNat = none →
    s.readCmd e = (s', .bad ws) → Tbl.find? s'.host.taken q.toNat = none →
    Tbl.find? s'.host.queues q.toNat = some e → e.length = 16 →
    Answers (.queueTakeCommand q) s fun t =>
      Refused t q ⟨ws, qHead e, .fresh⟩ e 4 true ∧ (cmdCfen ws = false → t.host.inbox = s'.host.inbox) ∧
      Only [.mem, .host] s' t) ∧
  (∀ (q : BitVec 13) (s s' s'' : State) (e ws : List Word), Processing s → Tbl.find? s.host.queues q.toNat = some e →
    qValid e = true → qState e = 1 → qHead e ≠ qTail e → Tbl.find? s.host.taken q.toNat = none →
    s.readCmd e = (s', .words ws) →
    (s'.cmdRefusal (qCtx e) ws = (s'', none) → Tbl.find? s''.host.taken q.toNat = none → cmdFences ws = [] →
      exec (.queueTakeCommand q) s = .next (Staged s'' q ⟨ws, qHead e, .fresh⟩ .fresh)) ∧
    (∀ code : Nat, s'.cmdRefusal (qCtx e) ws = (s'', some code) → code = 1 ∨ code = 2 ∨ code = 3 →
      Tbl.find? s''.host.taken q.toNat = none → Tbl.find? s''.host.queues q.toNat = some e → e.length = 16 →
      Answers (.queueTakeCommand q) s fun t =>
        Refused t q ⟨ws, qHead e, .fresh⟩ e code true ∧ Only [.mem, .host] s'' t)) ∧
  (∀ c ∈ [(Instr.cmdNop, 0), (Instr.signal, 3)], ∀ (q : BitVec 13) (x : QCmd) (e : List Word) (s : State),
    Taken s q x e → x.stage = .fresh → cmdKind x.words = c.2 →
    Answers (c.1 q) s fun t => Completed s t q x e ∧ Only [.mem, .host] s t) ∧
  (∀ c ∈ [(Instr.wait, CmdStage.fresh), (Instr.queueWaitSatisfied, CmdStage.waiting)],
    ∀ (q : BitVec 13) (x : QCmd) (e fe : List Word) (s : State), Taken s q x e → x.stage = c.2 → cmdKind x.words = 4 →
    Tbl.find? s.host.fences (cmdWfence x.words).toNat = some fe → Met (ew x.words 2) fe →
    (fError fe = false → Answers (c.1 q) s fun t => Completed s t q x e ∧ Only [.mem, .host] s t) ∧
    (fError fe = true → Answers (c.1 q) s fun t => Refused t q x e 8 true ∧ Only [.mem, .host] s t)) ∧
  (∀ (q : BitVec 13) (x : QCmd) (e fe : List Word) (s : State), Taken s q x e → x.stage = .fresh → cmdKind x.words = 4 →
    Tbl.find? s.host.fences (cmdWfence x.words).toNat = some fe → ¬ Met (ew x.words 2) fe →
    Answers (.wait q) s fun t =>
      QueueAt t q e x.pos 2 ∧ Tbl.find? t.host.taken q.toNat = some { x with stage := .waiting } ∧ Only [.host] s t)

/-- R35, R199-R201, R343, R345, R347, R359: LAUNCH waits; a COPY or QUERY whose core is GATED waits for it, and so does a COPY whose
core serves another context; a COPY whose core serves its context enters
channel 4; RESUME continues a TRAPPED stream at STOPPC or at the PC given, with its registers; ABORT makes a running one
drain; both are refused for a stream in another state; QUERY waits for its core and completes when its record is
written.
Where the rules leave a point open it rests on the choices of log entry 23. -/
def Obligations.HostCommands : Prop :=
  (∀ (q : BitVec 13) (x : QCmd) (e : List Word) (s : State), Taken s q x e →
    (x.stage = .fresh → cmdKind x.words = 1 → exec (.launch q) s = .next (Staged s q x .waiting)) ∧
    (∀ c : Fin 96, x.stage = .fresh ∨ x.stage = .waiting → qCore e = c.val → (s.cores[c]).mode = .gated →
      (cmdKind x.words = 2 → exec (.copy q) s = .next (Staged s q x .waiting)) ∧
      (cmdKind x.words = 7 → exec (.query q) s = .next (Staged s q x .waiting))) ∧
    (∀ (c : Fin 96) (y : BitVec 9), x.stage = .fresh ∨ x.stage = .waiting → qCore e = c.val → cmdKind x.words = 2 →
      (s.cores[c]).ctx = some y → y ≠ qCtx e → exec (.copy q) s = .next (Staged s q x .waiting))) ∧
  (∀ (q : BitVec 13) (x : QCmd) (e : List Word) (c : Fin 96) (s : State), Taken s q x e →
    x.stage = .fresh ∨ x.stage = .waiting → cmdKind x.words = 2 → qCore e = c.val → coreRuns s c →
    (s.cores[c]).ctx = some (qCtx e) →
    Answers (.copy q) s fun t =>
      (∃ d, (t.cores[c]).dmaQ = (s.cores[c]).dmaQ ++ [d] ∧ d.channel = 4 ∧ d.queue = q ∧
        d.op = .copy ((ew x.words 3).truncate 48) ((ew x.words 2).truncate 48) 1 (ew x.words 4).toNat 0 0 false) ∧
      (t.cores[c]).streams = (s.cores[c]).streams ∧ (t.cores[c]).dmaHalted.getLsbD 4 = false ∧
      t.host = (Staged s q x .running).host ∧ OnlyCore c s t ∧ Only [.cores, .host] s t) ∧
  (∀ (q : BitVec 13) (x : QCmd) (e : List Word) (c : Fin 96) (u : Fin 4) (s : State), Taken s q x e → x.stage = .fresh →
    cmdCore x.words = c.val → cmdStream x.words = u → coreRuns s c → (s.cores[c]).ctx = some (qCtx e) →
    (cmdKind x.words = 5 → ((s.cores[c]).streams[u]).mode = .trapped → ∀ y, ((s.cores[c]).streams[u]).trap = some y →
      Answers (.resume q) s fun t =>
        (t.cores[c]).streams[u] = { ((s.cores[c]).streams[u]) with
          mode := .run, wait := .none, trap := none, ended := false
          pc := if (ew x.words 0).getLsbD 30 then (ew x.words 2).truncate 48 else y.stoppc } ∧
        (∀ v, v ≠ u → (t.cores[c]).streams[v] = (s.cores[c]).streams[v]) ∧ Completed s t q x e ∧ OnlyCore c s t ∧
        Only [.cores, .mem, .host] s t) ∧
    (cmdKind x.words = 5 → ((s.cores[c]).streams[u]).mode ≠ .trapped →
      Answers (.resume q) s fun t => Refused t q x e 6 false ∧ Only [.mem, .host] s t) ∧
    (cmdKind x.words = 6 → ((s.cores[c]).streams[u]).mode = .run →
      Answers (.abort q) s fun t =>
        ((t.cores[c]).streams[u]).mode = .drain ∧ ((t.cores[c]).streams[u]).aborting = true ∧
        ((t.cores[c]).streams[u]).held = [] ∧ ((t.cores[c]).streams[u]).regs = ((s.cores[c]).streams[u]).regs ∧
        (∀ v, v ≠ u → (t.cores[c]).streams[v] = (s.cores[c]).streams[v]) ∧ t.host = (Staged s q x .running).host ∧
        OnlyCore c s t ∧ Only [.cores, .host] s t) ∧
    (cmdKind x.words = 6 → ((s.cores[c]).streams[u]).mode = .idle →
      Answers (.abort q) s fun t => Refused t q x e 6 false ∧ Only [.mem, .host] s t)) ∧
  (∀ (q : BitVec 13) (x : QCmd) (e ws : List Word) (c : Fin 96) (s s' s'' : State), Taken s q x e →
    x.stage = .fresh ∨ x.stage = .waiting → cmdKind x.words = 7 → qCore e = c.val → coreRuns s c →
    s.queryRecord (qCtx e) x = (s', ws) →
    s'.blockWrite .engine (qCtx e) (ew x.words 2).toNat (wordBytes ws) = (s'', .ok ()) → Taken s'' q x e →
    (ew ws 0).getLsbD 63 = true ∧ ew ws 1 = s.glob.tick ∧
      Answers (.query q) s fun t => Completed s'' t q x e ∧ Only [.mem, .host] s'' t)

/-- R335-R340, R344, R348, R350-R352, R356, R357, R362: MAP writes a leaf that was invalid, clearing the page's written map first
where CLEAR is 1; UNMAP makes a valid one zero and REMAP replaces it, and both
drop its translations; each is refused with MAP_FAULT on another leaf. A sync completes with its entries in step, or is
refused before it changes one; an evicted entry leaves the chip; the curator locks the catalogues; the fence unit performs
the oldest signal, forward in serial order, and records one that would go back. CONTEXT_DESTROY of a LIVE context other than
0 makes its streams drain or stop and runs on; when everything of the context is quiescent its LIVE fences take their terminal
value with the error flag and leave LIVE, at once under ABORT and with their last reference under REFCOUNT, its CONSENT is clear,
it is DEAD and its cores unbound.
Where the rules leave a point open it rests on the choices of log entries 20 and 23. -/
def Obligations.HostTables : Prop :=
  (∀ (q : BitVec 13) (x : QCmd) (e : List Word) (place : Nat) (old : Word) (s s1 s2 : State), Taken s q x e →
    x.stage = .fresh → s.leafPlace (cmdContext x.words) (ew x.words 2).toNat = (s1, some place) →
    s1.readTable place = (s2, some old) → s2.isFinal (cmdContext x.words) = false → Taken s2 q x e →
    (cmdKind x.words = 0x10 → old.getLsbD 0 = false → leafForm (ew x.words 3) = true →
      let s3 := if (ew x.words 0).getLsbD 30 then
        withMem s2 ((List.finRange 16).foldl (fun m k => m.mapClear k (nfld (ew x.words 3) 21 27)) s2.mem) else s2
      Answers (.map q) s fun t =>
        Completed s2 t q x e ∧ t.cores = s2.cores ∧ Only [.mem, .host] s2 t ∧
        (cmdCfen x.words = false → t.mem = (s3.writeLeaf place (ew x.words 3)).mem)) ∧
    (cmdKind x.words = 0x10 → old.getLsbD 0 = true →
      Answers (.map q) s fun t => Refused t q x e 9 false ∧ Only [.mem, .host] s2 t) ∧
    (cmdKind x.words = 0x12 → old.getLsbD 0 = true → leafForm (ew x.words 3) = true →
      Answers (.remap q) s fun t => Completed s2 t q x e ∧ Only [.cores, .mem, .host] s2 t ∧
        (cmdCfen x.words = false → t.mem = ((s2.writeLeaf place (ew x.words 3)).invalidatePage (cmdContext x.words)
          (ew x.words 2).toNat (nfld old 21 27)).mem) ∧
        ∀ n : Fin 96, (s2.cores[n]).ctx = some (cmdContext x.words) →
          (t.cores[n]).tlbFind (ew x.words 2).toNat = none) ∧
    (cmdKind x.words = 0x11 → old.getLsbD 0 = true →
      Answers (.unmap q) s fun t => Completed s2 t q x e ∧ Only [.cores, .mem, .host] s2 t ∧
        (cmdCfen x.words = false → t.mem = ((s2.writeLeaf place 0).invalidatePage (cmdContext x.words)
          (ew x.words 2).toNat (nfld old 21 27)).mem) ∧
        (∀ n : Fin 96, (s2.cores[n]).ctx = some (cmdContext x.words) →
          (t.cores[n]).tlbFind (ew x.words 2).toNat = none) ∧
        ∀ n : Fin 96, (s2.cores[n]).ctx ≠ some (cmdContext x.words) → t.cores[n] = s2.cores[n]) ∧
    (∀ c ∈ [(Instr.unmap, 0x11), (Instr.remap, 0x12)], cmdKind x.words = c.2 → old.getLsbD 0 = false →
      Answers (c.1 q) s fun t => Refused t q x e 9 false ∧ Only [.mem, .host] s2 t)) ∧
  (∀ (q : BitVec 13) (x : QCmd) (e : List Word) (s s1 : State), Taken s q x e → x.stage = .fresh →
    cmdKind x.words = 0x13 →
    let cat := nfld (ew x.words 0) 38 2
    let is := syncRange x.words
    (s.syncRefusal cat is = (s1, none) → Taken (is.foldl (fun s i => s.syncOne cat i) s1) q x e →
      Answers (.catalogueSync q) s fun t =>
        Completed (is.foldl (fun s i => s.syncOne cat i) s1) t q x e ∧
        Only [.mem, .host] (is.foldl (fun s i => s.syncOne cat i) s1) t) ∧
    (s.syncRefusal cat is = (s1, some 0x0A) → Taken s1 q x e →
      Answers (.catalogueSync q) s fun t => Refused t q x e 0x0A false ∧ Only [.mem, .host] s1 t)) ∧
  (∀ (i : BitVec 14) (e : List Word) (s : State), s.sup.power = .running → s.mem.haltStage < 2 → s.glob.meshRun = true →
    (Tbl.find? s.host.ctxs i.toNat = some e → Answers (.catalogueEntryEvict 0 i) s fun t =>
      Tbl.find? t.host.ctxs i.toNat = none ∧ t.host.queues = s.host.queues ∧ t.host.fences = s.host.fences ∧
      (∀ n : Nat, n ≠ i.toNat → Tbl.find? t.host.ctxs n = Tbl.find? s.host.ctxs n) ∧ Only [.mem, .host] s t) ∧
    (Tbl.find? s.host.queues i.toNat = some e → Answers (.catalogueEntryEvict 1 i) s fun t =>
      Tbl.find? t.host.queues i.toNat = none ∧ t.host.ctxs = s.host.ctxs ∧ t.host.fences = s.host.fences ∧
      (∀ n : Nat, n ≠ i.toNat → Tbl.find? t.host.queues n = Tbl.find? s.host.queues n) ∧ Only [.mem, .host] s t) ∧
    (Tbl.find? s.host.fences i.toNat = some e → Answers (.catalogueEntryEvict 2 i) s fun t =>
      Tbl.find? t.host.fences i.toNat = none ∧ t.host.ctxs = s.host.ctxs ∧ t.host.queues = s.host.queues ∧
      (∀ n : Nat, n ≠ i.toNat → Tbl.find? t.host.fences n = Tbl.find? s.host.fences n) ∧ Only [.mem, .host] s t)) ∧
  (∀ s : State, (pathOpen s .curator → exec (.catalogueLock .curator) s =
      .next { s with host := { s.host with lock := true } }) ∧
    (pathOpen s .host → exec (.catalogueLock .host) s = .next (holed s))) ∧
  (∀ (x : FenceSig) (rest : List FenceSig) (fe : List Word) (s : State), s.sup.power = .running → s.mem.haltStage < 2 →
    s.glob.meshRun = true → s.host.inbox = x :: rest → Tbl.find? s.host.fences x.fence.toNat = some fe → fe.length = 4 →
    (fLive fe = false → exec .fenceSignal s = .next { s with host := { s.host with inbox := rest } }) ∧
    (fLive fe = true → (x.value - fValue fe).toNat ≤ 2 ^ 63 →
      Answers .fenceSignal s fun t =>
        (∃ f, Tbl.find? t.host.fences x.fence.toNat = some f ∧ fValue f = x.value ∧
          fError f = (fError fe || x.err) ∧ fLive f = true) ∧
        (∀ n : Nat, n ≠ x.fence.toNat → Tbl.find? t.host.fences n = Tbl.find? s.host.fences n) ∧
        t.host.inbox = rest ∧ (fMirror fe = true → x.fence ∈ t.host.mirrors) ∧ t.host.regress = s.host.regress ∧
        Only [.host] s t) ∧
    (fLive fe = true → 2 ^ 63 < (x.value - fValue fe).toNat →
      Answers .fenceSignal s fun t =>
        (∃ f, Tbl.find? t.host.fences x.fence.toNat = some f ∧ fValue f = fValue fe ∧
          fError f = (fError fe || x.err)) ∧ t.host.inbox = rest ∧
        (t.host.regress[(fOwner fe).toNat / 64]!).getLsbD ((fOwner fe).toNat % 64) = true ∧ Only [.mem, .host] s t)) ∧
  (∀ (q : BitVec 13) (x : QCmd) (e ce : List Word) (s : State), Taken s q x e → x.stage = .fresh →
    cmdKind x.words = 0x14 → Tbl.find? s.host.ctxs (cmdContext x.words).toNat = some ce →
    (cmdContext x.words ≠ 0 → ctxState ce = 1 →
      Answers (.contextDestroy q) s fun t =>
        Tbl.find? t.host.taken q.toNat = some { x with stage := .running } ∧
        (∀ n : Fin 96, (s.cores[n]).ctx = some (cmdContext x.words) → ∀ u : Fin 4,
          ((t.cores[n]).streams[u]).mode = .idle ∨ ((t.cores[n]).streams[u]).mode = .drain) ∧
        (∀ n : Fin 96, (s.cores[n]).ctx ≠ some (cmdContext x.words) → t.cores[n] = s.cores[n]) ∧
        (∀ r ∈ t.fab.reqs, r.ctx ≠ cmdContext x.words) ∧ Only [.cores, .mem, .host, .fab, .tr, .vault] s t) ∧
    ((cmdContext x.words = 0 ∨ ctxState ce ≠ 1) →
      Answers (.contextDestroy q) s fun t => Refused t q x e 0x0B false ∧ Only [.mem, .host] s t)) ∧
  (∀ (q : BitVec 13) (x : QCmd) (e ce : List Word) (s : State), Taken s q x e → x.stage = .running →
    cmdKind x.words = 0x14 → cmdContext x.words ≠ 0 → cmdCfen x.words = false → s.quiet (cmdContext x.words) = true →
    Tbl.find? s.host.ctxs (cmdContext x.words).toNat = some ce → ce.length = 32 →
    ∀ fences : List (BitVec 14 × List Word), s.host.flive.map Prod.fst = fences.map (fun f => f.1.toNat) →
    (fences.map Prod.fst).Nodup →
    (∀ f ∈ fences, Tbl.find? s.host.fences f.1.toNat = some f.2 ∧ f.2.length = 4 ∧ fLive f.2 = true ∧ fMirror f.2 = false ∧
      f.1 ∉ s.host.mirrors) →
    Answers (.destroyQuiesced q) s fun t =>
      Completed s t q x e ∧ ctxState (t.ctxE (cmdContext x.words)) = 3 ∧ nfld (ew (t.ctxE (cmdContext x.words)) 6) 2 3 = 0 ∧
      (∀ f ∈ fences, ∃ g, Tbl.find? t.host.fences f.1.toNat = some g ∧
        (fOwner f.2 ≠ cmdContext x.words → g = f.2) ∧
        (fOwner f.2 = cmdContext x.words → fValue g = fValue f.2 + 0x8000000000000000#64 ∧ fError g = true ∧
          (fLive g = true ↔ ctxTeardownRef ce = true ∧ fHostref f.2 + fDevref f.2 ≠ 0))) ∧
      (∀ n : Fin 96, (s.cores[n]).ctx = some (cmdContext x.words) → (t.cores[n]).ctx = none ∧ (t.cores[n]).ns = [] ∧
        (t.cores[n]).tlb = [] ∧ (t.cores[n]).icache = []) ∧
      (∀ n : Fin 96, (s.cores[n]).ctx ≠ some (cmdContext x.words) → t.cores[n] = s.cores[n]) ∧
      (∀ g ∈ t.reg.tenants, g.2.ctx ≠ cmdContext x.words) ∧ Only [.cores, .mem, .host, .reg] s t)

/-! ### Fabric ports and RoCEv2 queue pairs (R363-R374, R389) -/

namespace Sys2Proof.Claims
open Sys2Proof.Machine

/-- The fabric block works (R33, R306). -/
def FabOn (s : State) : Prop := s.sup.power = .running ∧ s.mem.haltStage < 2 ∧ s.cur.deepIdle = false

/-- The state of a path. -/
def pathIs (s : State) (n : Fin 16) : PathMode := (s.fab.paths[n]).mode

/-- n ticks have passed since an event, or it has never come. -/
def Elapsed (since : Option Word) (now : Word) (n : Nat) : Prop := ∀ t, since = some t → n ≤ (now - t).toNat

/-- A PORT instruction whose checks have passed: earlier work is complete, the fence may be signalled, and its descriptor
was read, leaving s' (R191, R192). -/
structure PortReady (m : Master) (p : Site) (o : LayP) (i : Instr) (s s' : State) (f : BitVec 14) (c : BitVec 9)
    (ws : List Word) : Prop where
  presents : Presents p i s
  alone : allDone s p
  names : Names s p o.fence o.reg o.rf f
  right : ∃ ce fe, FenceOnChip s p f c ce fe ∧ SignalRight c ce fe
  desc : ∃ bs, s.blockRead m c ((regOf s p o.rdesc).toNat % 2 ^ 48 / 64 * 64) 64 = (s', .ok bs) ∧ ws = leWords 8 bs

/-- The block refused the instruction with a code: the stream traps PORT with it (R191). -/
def portRefused (p : Site) (i : Instr) (s' : State) (code : Nat) : State :=
  s'.trapIssue p.core p.stream .port ((encode i).getD (0, 0)).1 (BitVec.ofNat 64 code) 0

/-- The fabric block with a request at the end of its list. -/
def withReq (s : State) (r : Req) : State :=
  { s with fab := { s.fab with reqs := s.fab.reqs ++ [{ r with id := s.fab.nextReq }], nextReq := s.fab.nextReq + 1 } }

/-- Packets of n bytes: one at least, each of at most 4,096 bytes. -/
def packets (n : Nat) : Nat := if n = 0 then 1 else (n + 4095) / 4096

/-- A RoCEv2 packet leaves for a queue pair's peer: to its DQPN at PEERIP, port 4791, on a path (R368, R369). -/
def sendsRoce (s t : State) (n : BitVec 12) (path : Nat) (p : RocePkt) : Prop :=
  ∃ h : FrameHdr, emits s t (.packet path h (.roce n ((ew (s.qp n).entry 0).truncate 24) p)) ∧ h.dport = 4791 ∧
    h.dst = (s.qp n).peerIp ∧ h.smac = (s.fab.ports[pathPort path]).mac ∧ h.dmac = (s.fab.ports[pathPort path]).nhmac ∧
    (h.vlan.isSome = true ↔ (s.fab.ports[pathPort path]).ctl.getLsbD 51 = true)

/-- A RoCEv2 packet arrives in order for a READY queue pair on a link, without CE, while the mesh runs. -/
structure RoceArrives (s : State) (f : RoceIn) (q : Qp) : Prop where
  on : FabOn s
  mesh : s.glob.meshRun = true
  link : pathIs s f.path ≠ .down
  qp : s.qp f.qp = q
  ready : nfld (ew q.entry 7) 0 2 = 1
  plain : f.ce = false

/-- The queue pair sends on a path that no pause holds. -/
def Replies (s : State) (q : Qp) (path : Nat) : Prop := s.fab.qpPath q = some path ∧ s.fab.held path = false

/-- Only counters of frames differ among the ports. -/
def portsCounted (s t : State) : Prop := ∀ p : Fin 8,
  (t.fab.ports[p]).ctl = (s.fab.ports[p]).ctl ∧ (t.fab.ports[p]).rxdrop = (s.fab.ports[p]).rxdrop

/-- The address of its own that a port's plane answers for: IPv6 where IPMODE says so (R367, R394). -/
def ownAddr (s : State) (p : Fin 8) : Bool × BitVec 128 :=
  if s.fab.ipmode.getLsbD (p.val / 4) then (true, if p.val < 4 then s.fab.ipa6hi ++ s.fab.ipa6lo else s.fab.ipb6hi ++ s.fab.ipb6lo)
  else (false, (if p.val < 4 then s.fab.ipa4 else s.fab.ipb4).zeroExtend 128)

/-- The completion commands of the fabric with the requests each completes (R388, R389). -/
def completions : List ((Nat → Instr) × (Req → Prop)) :=
  [ (.nputComplete, fun r => r.done = r.total ∧ ∃ i rf, r.kind = .nput i rf ∧ (rf = none ∨ r.signalAcked = true)),
    (.ngetComplete, fun r => r.done = r.total ∧ ∃ i, r.kind = .nget i),
    (.nsendComplete, fun r => r.done = r.total ∧ ∃ n, r.kind = .nsend n) ]

end Sys2Proof.Claims

/-- R363, R366, R367, R387, R394: a link comes up on an enabled port and goes down, with LINK_DROP and, for the last UP path
of a plane, FAILOVER; a bad frame is counted and dropped, one that FEC cannot correct also in fecue and FEC_UE; a pause is
kept where PFC is on and holds the port's frames until another frees them, and is dropped elsewhere; requests for the plane's
own address are answered.
Where the rules leave a point open it rests on the choices of log entries 25 and 50. -/
def Obligations.FabricPorts : Prop :=
  (∀ (p : Fin 8) (h kr : Bool) (s : State), FabOn s → (s.fab.ports[p]).ctl.getLsbD 0 = true →
    pathIs s (pathOf p h) = .down → h = false ∨ s.fab.splitNow p = true →
    Answers (.linkUp p h kr) s fun t =>
      pathIs t (pathOf p h) = .up ∧ (∀ n, n ≠ pathOf p h → t.fab.paths[n] = s.fab.paths[n]) ∧
      (t.fab.ports[p]).anDone = true ∧ (t.fab.ports[p]).kr = kr ∧
      (∀ q, q ≠ p → t.fab.ports[q] = s.fab.ports[q]) ∧ t.fab.failover = s.fab.failover ∧ Only [.fab] s t) ∧
  (∀ (p : Fin 8) (h : Bool) (s : State), s.sup.power = .running → pathIs s (pathOf p h) = .up →
    Answers (.linkDown p h) s fun t =>
      pathIs t (pathOf p h) = .down ∧ (t.fab.ports[p]).linkDrop = true ∧
      (∀ n, n ≠ pathOf p h → t.fab.paths[n] = s.fab.paths[n]) ∧
      ((∀ n : Fin 16, n ≠ pathOf p h → n.val / 8 = p.val / 4 → pathIs s n ≠ .up) → t.fab.failover = true) ∧
      (∀ q, q ≠ p → t.fab.ports[q] = s.fab.ports[q]) ∧ Only [.fab] s t) ∧
  (∀ (p : Fin 8) (w : FrameBad) (s : State), FabOn s → pathIs s (pathOf p false) ≠ .down → w ≠ .managementOther →
    (∀ good bad : Nat, w = .fec good bad → 0 < bad → exec (.frameDrop p w) s =
      .next { s with fab := { s.fab with ports := s.fab.ports.set p { (s.fab.ports[p]) with
        rxfr := (s.fab.ports[p]).rxfr + 1, rxdrop := (s.fab.ports[p]).rxdrop + 1, fecUe := true
        fecce := (s.fab.ports[p]).fecce + BitVec.ofNat 64 good, fecue := (s.fab.ports[p]).fecue + BitVec.ofNat 64 bad } } }) ∧
    (∀ good : Nat, w = .fec good 0 → exec (.frameDrop p w) s =
      .next { s with fab := { s.fab with ports := s.fab.ports.set p { (s.fab.ports[p]) with
        fecce := (s.fab.ports[p]).fecce + BitVec.ofNat 64 good } } }) ∧
    ((∀ good bad : Nat, w ≠ .fec good bad) → exec (.frameDrop p w) s =
      .next { s with fab := { s.fab with ports := s.fab.ports.set p { (s.fab.ports[p]) with
        rxfr := (s.fab.ports[p]).rxfr + 1, rxdrop := (s.fab.ports[p]).rxdrop + 1 } } })) ∧
  (∀ (p : Fin 8) (s : State), s.sup.power = .running → exec (.frameDrop p .managementOther) s = .next s) ∧
  (∀ (p : Fin 8) (m : Byte) (s : State), FabOn s → pathIs s (pathOf p false) ≠ .down →
    ((s.fab.ports[p]).ctl.getLsbD 39 = true → Answers (.pfcPauseRx p m) s fun t =>
      (t.fab.ports[p]).paused = m ∧ (t.fab.ports[p]).rxdrop = (s.fab.ports[p]).rxdrop ∧
      t.fab.heldTx = s.fab.heldTx.filter (fun x => t.fab.held x.1) ∧
      t.wire = s.wire ++ (s.fab.heldTx.filter fun x => !t.fab.held x.1).map (fun x => x.2) ∧ Only [.fab, .wire] s t) ∧
    ((s.fab.ports[p]).ctl.getLsbD 39 = false → exec (.pfcPauseRx p m) s =
      .next { s with fab := { s.fab with ports := s.fab.ports.set p { (s.fab.ports[p]) with
        rxfr := (s.fab.ports[p]).rxfr + 1, rxdrop := (s.fab.ports[p]).rxdrop + 1 } } })) ∧
  (∀ (p : Fin 8) (v6 : Bool) (a : BitVec 128) (s : State), FabOn s → pathIs s (pathOf p false) ≠ .down →
    Answers (.arpRequestRx p v6 a) s fun t =>
      Only [.fab, .wire] s t ∧ portsCounted s t ∧
      (ownAddr s p ≠ (v6, a) → t.wire = s.wire ∧ t.fab.heldTx = s.fab.heldTx) ∧
      (ownAddr s p = (v6, a) → s.fab.held (2 * p.val) = false → t.wire = s.wire ++ [.arpReply p (s.fab.ports[p]).mac]) ∧
      (ownAddr s p = (v6, a) → s.fab.held (2 * p.val) = true →
        t.wire = s.wire ∧ t.fab.heldTx = s.fab.heldTx ++ [(2 * p.val, .arpReply p (s.fab.ports[p]).mac)]))

/-- R369, R372, R373, R354, R389: QP_LOAD takes the entry's STATE and PSNs; NSEND enters the fabric block, which sends its
packets in PSN order and completes it when all are acknowledged; after TIMEOUT the queue pair goes back to the first packet,
until RETRY retries put it in ERROR, which its entry shows; the rate rises by a sixteenth of line rate 55 µs after the latest
CNP or rise, and one CNP is sent in 50 µs; a mirror write is a packet for word 1 and one for word 0, or MIRROR_DROP.
Where the rules leave a point open it rests on the choices of log entries 25 and 50. -/
def Obligations.QueuePairsSend : Prop :=
  (∀ (m : RegMaster) (n : BitVec 12) (s s' : State) (e : List Word), pathOpen s m →
    s.readEntry s.fab.qpbase 16 n.toNat = (s', e) → e.length = 16 →
    (∀ r ∈ s.fab.reqs, r.qp? = some n → r.by' ≠ .drain) →
    Answers (.qpLoad m n) s fun t =>
      nfld (ew (t.qp n).entry 7) 0 2 = (if (ew e 0).getLsbD 63 = true then 1 else 0) ∧
      (t.qp n).spsn = (ew e 1 >>> 40).truncate 24 ∧ (t.qp n).rpsn = (ew e 1 >>> 16).truncate 24 ∧
      (t.qp n).out = [] ∧ (t.qp n).rate = 1 ∧ (∀ k, k ≠ n → t.qp k = s.qp k) ∧ (∀ r ∈ t.fab.reqs, r.qp? ≠ some n) ∧
      Only [.mem, .fab] s t) ∧
  (∀ (p : Site) (o : LayP) (s s' : State) (f : BitVec 14) (c : BitVec 9) (ws : List Word),
    PortReady .fabric p o (.nsend p o) s s' f c ws → nsendFormat ws = true →
    let n : BitVec 12 := (ew ws 0 >>> 52).truncate 12
    let len := (ew ws 0).toNat % 2 ^ 40
    ((s'.qp n).ctx = c → 0 < len → len ≤ 2 ^ 31 → nfld (ew (s'.qp n).entry 7) 0 2 = 1 →
      exec (.nsend p o) s = .next (issuedAs (withReq s' { reqNone with
        kind := .nsend n, by' := .program, ctx := c, laddr := (ew ws 1).truncate 48, len := len, fence := f,
        value := regOf s p o.rv, total := packets len }) p (pcOf s p + 8) id)) ∧
    ((s'.qp n).ctx ≠ c → exec (.nsend p o) s = .next (portRefused p (.nsend p o) s' 3)) ∧
    ((s'.qp n).ctx = c → 2 ^ 31 < len → exec (.nsend p o) s = .next (portRefused p (.nsend p o) s' 0x12))) ∧
  (∀ e ∈ completions, ∀ (id : Nat) (r : Req) (s : State), FabOn s → s.fab.reqs.find? (fun x => x.id == id) = some r →
    r.by' = .program → e.2 r →
    exec (e.1 id) s = .next { s with
      fab := { s.fab with reqs := s.fab.reqs.filter fun x => x.id != id }
      host := { s.host with inbox := s.host.inbox ++ [⟨r.fence, r.value, false, .block⟩] } }) ∧
  (∀ (n : BitVec 12) (path : Nat) (r : Req) (rest : List Req) (s s' : State) (bs : List Byte), FabOn s →
    nfld (ew (s.qp n).entry 7) 0 2 = 1 → s.fab.qpPath (s.qp n) = some path → s.fab.held path = false →
    (s.qp n).out = [] → s.fab.reqs = r :: rest → r.kind = .nsend n → r.queued < r.total →
    s.reqChunk r (4096 * r.queued) (Min.min 4096 (r.len - 4096 * r.queued)) = (s', .ok bs) →
    Answers (.rocePacketSend n) s fun t =>
      sendsRoce s t n path (.request (s.qp n).spsn .send (r.queued == 0) (r.queued + 1 == r.total) r.len bs) ∧
      (t.qp n).spsn = (s.qp n).spsn + 1 ∧ (t.qp n).out.length = 1 ∧ (∀ k, k ≠ n → t.qp k = s.qp k) ∧
      Only [.mem, .host, .fab, .wire] s t) ∧
  (∀ (n : BitVec 12) (path : Nat) (x : QpReq) (rest : List QpReq) (s : State), FabOn s →
    nfld (ew (s.qp n).entry 7) 0 2 = 1 → s.fab.qpPath (s.qp n) = some path → s.fab.held path = false →
    (s.qp n).out = x :: rest → x.sent = false →
    Answers (.rocePacketSend n) s fun t =>
      sendsRoce s t n path (.request x.psn x.op x.first x.last x.total x.data) ∧ (t.qp n).spsn = (s.qp n).spsn ∧
      (t.qp n).out = { x with sent := true, at' := s.glob.tick } :: rest ∧ (∀ k, k ≠ n → t.qp k = s.qp k) ∧
      Only [.fab, .wire] s t) ∧
  (∀ (n : BitVec 12) (x : QpReq) (rest : List QpReq) (s : State), FabOn s → nfld (ew (s.qp n).entry 7) 0 2 = 1 →
    (s.qp n).out = x :: rest → x.sent = true →
    1024 * 2 ^ nfld (ew (s.qp n).entry 0) 40 4 ≤ 10 * (s.glob.tick - x.at').toNat →
    ((s.qp n).retries < nfld (ew (s.qp n).entry 0) 44 3 → Answers (.roceAckTimeout n) s fun t =>
      (t.qp n).retries = (s.qp n).retries + 1 ∧ (∀ y ∈ (t.qp n).out, y.sent = false) ∧
      (t.qp n).out.map (fun y => y.psn) = (s.qp n).out.map (fun y => y.psn) ∧ Only [.fab] s t) ∧
    (nfld (ew (s.qp n).entry 0) 44 3 ≤ (s.qp n).retries → s.fab.reqs = [] → (s.qp n).entry.length = 16 →
      Answers (.roceAckTimeout n) s fun t =>
        nfld (ew (t.qp n).entry 7) 0 2 = 2 ∧ (t.qp n).out = [] ∧
        (s.fab.err = 0 → t.fab.err.getLsbD 63 = true ∧ nfld t.fab.err 46 4 = 7) ∧ Only [.mem, .fab, .host] s t)) ∧
  (∀ (n : BitVec 12) (s : State), FabOn s → nfld (ew (s.qp n).entry 7) 0 2 = 1 → (s.qp n).rate < 1 →
    Elapsed (s.qp n).quiet s.glob.tick 1375 → Answers (.roceRateIncrease n) s fun t =>
      (t.qp n).rate = Min.min 1 ((s.qp n).rate + 1 / 16) ∧ (t.qp n).quiet = some s.glob.tick ∧
      (t.qp n).out = (s.qp n).out ∧ Only [.fab] s t) ∧
  (∀ (n : BitVec 12) (path : Nat) (s : State), FabOn s → nfld (ew (s.qp n).entry 7) 0 2 = 1 → (s.qp n).ceSeen = true →
    s.fab.qpPath (s.qp n) = some path → s.fab.held path = false → Elapsed (s.qp n).lastCnp s.glob.tick 1250 →
    Answers (.cnpSend n) s fun t =>
      sendsRoce s t n path .cnp ∧ (t.qp n).ceSeen = false ∧ (t.qp n).lastCnp = some s.glob.tick ∧ Only [.fab, .wire] s t) ∧
  (∀ (f : BitVec 14) (e : List Word) (s : State), FabOn s → f ∈ s.host.mirrors → (∀ x ∈ s.host.leaving, x.1 ≠ f) →
    Tbl.find? s.host.fences f.toNat = some e →
    (s.fab.qpPath (s.qp (fMqp e)) = none → exec (.mirrorWrite f) s = .next { s with host := { s.host with
      mirrors := s.host.mirrors.filter fun g => g ≠ f, mirrorDrop := true } }) ∧
    (∀ path, s.fab.qpPath (s.qp (fMqp e)) = some path → nfld (ew (s.qp (fMqp e)).entry 7) 0 2 = 1 →
      (s.qp (fMqp e)).out = [] → s.fab.held path = false →
      Answers (.mirrorWrite f) s fun t =>
        (∃ h h' : FrameHdr, t.wire = s.wire ++
          [.packet path h (.roce (fMqp e) ((ew (s.qp (fMqp e)).entry 0).truncate 24) (.request (s.qp (fMqp e)).spsn
             (.write ((ew e 2 &&& ~~~(15#64)) + 8) ((ew e 3 >>> 32).truncate 32)) true true 8
             (leBytes 8 ((if fError e = true then 0x8000000000000000#64 else 0) ||| (f.zeroExtend 64 <<< 49)).toNat))),
           .packet path h' (.roce (fMqp e) ((ew (s.qp (fMqp e)).entry 0).truncate 24) (.request ((s.qp (fMqp e)).spsn + 1)
             (.write (ew e 2 &&& ~~~(15#64)) ((ew e 3 >>> 32).truncate 32)) true true 8 (leBytes 8 (ew e 0).toNat)))]) ∧
        t.host.mirrors = s.host.mirrors.filter (fun g => g ≠ f) ∧ t.host.mirrorDrop = s.host.mirrorDrop ∧
        Only [.fab, .host, .wire] s t))

/-- R32, R334, R366, R368, R370-R373: a packet that arrives while the mesh stands wakes it and is received; one for a queue
pair that is not READY is dropped and counted; a SEND in order fills the next slot of its ring, signals RQFENCE to the new
RQPROD and is acknowledged, and one of more than a slot gets an invalid request error; a WRITE or READ in order acts with the
queue pair's rights, and one without them gets a remote access error; an acknowledgement takes its packets away; a CNP halves
the rate, to no less than a 64th; a response no request waits for is dropped, and an operation the module lacks is refused.
Where the rules leave a point open it rests on the choices of log entries 25, 31 and 50. -/
def Obligations.QueuePairsReceive : Prop :=
  (∀ c ∈ ([fun f => Instr.roceSendRx f [], fun f => .roceWriteRx f 0 0 [], fun f => .roceReadReqRx f 0 0 8,
      fun f => .roceReadRespRx f [], fun f => .roceAckRx f .ack, .cnpRx, .roceUnsupportedRx] : List (RoceIn → Instr)),
    ∀ (f : RoceIn) (s : State), FabOn s → pathIs s f.path ≠ .down →
    (s.glob.meshRun = false → exec (c f) s = exec (c f) (meshWoken s)) ∧
    (s.glob.meshRun = true → nfld (ew (s.qp f.qp).entry 7) 0 2 ≠ 1 →
      let p : Fin 8 := ⟨f.path.val / 2, by omega⟩
      exec (c f) s = .next { s with fab := { s.fab with ports := s.fab.ports.set p { (s.fab.ports[p]) with
        rxfr := (s.fab.ports[p]).rxfr + 1, rxdrop := (s.fab.ports[p]).rxdrop + 1 } } })) ∧
  (∀ (f : RoceIn) (q : Qp) (data : List Byte) (path : Nat) (s s' : State), RoceArrives s f q → f.psn = q.rpsn →
    Replies s q path →
    (data.length ≤ 4096 → (q.rqprod - q.rqcons).toNat < q.rqSlots → q.entry.length = 16 →
      (s.rxOn f.path.val).blockWrite .fabric q.ctx (nfld (ew q.entry 5) 12 36 * 4096 + 4096 * (q.rqprod.toNat % q.rqSlots))
        data = (s', .ok ()) →
      Answers (.roceSendRx f data) s fun t =>
        (t.qp f.qp).rpsn = q.rpsn + 1 ∧ (t.qp f.qp).rqprod = q.rqprod + 1 ∧
        t.host.inbox = s'.host.inbox ++ [⟨q.rqfence, (q.rqprod + 1).zeroExtend 64, false, .block⟩] ∧
        t.mem = (s'.writeEntryAt s.fab.qpbase 16 f.qp.toNat 56
          (leBytes 8 (putFld (ew q.entry 7) 32 32 (q.rqprod + 1).toNat).toNat)).mem ∧
        sendsRoce s t f.qp path (.answer .ack f.psn (q.msn + 1)) ∧ Only [.mem, .host, .fab, .wire] s t) ∧
    (4096 < data.length → Answers (.roceSendRx f data) s fun t =>
      t.qp f.qp = q ∧ sendsRoce s t f.qp path (.answer .nakInvalid f.psn q.msn) ∧ Only [.fab, .wire] s t)) ∧
  (∀ (f : RoceIn) (q : Qp) (va : Word) (key : BitVec 32) (data : List Byte) (path : Nat) (s s' : State),
    RoceArrives s f q → f.psn = q.rpsn → Replies s q path → va.getLsbD 63 = false →
    (key = q.mkey →
      ((s.rxOn f.path.val).rxMore f (packets data.length)).blockWrite .fabric q.ctx (va.toNat % 2 ^ 48) data = (s', .ok ()) →
      Answers (.roceWriteRx f va key data) s fun t =>
        (t.qp f.qp).rpsn = q.rpsn + BitVec.ofNat 24 (packets data.length) ∧
        sendsRoce s t f.qp path (.answer .ack (f.psn + BitVec.ofNat 24 (packets data.length - 1)) (q.msn + 1)) ∧
        t.mem = s'.mem ∧ Only [.mem, .host, .fab, .wire] s t) ∧
    (key ≠ q.mkey → Answers (.roceWriteRx f va key data) s fun t =>
      t.qp f.qp = q ∧ sendsRoce s t f.qp path (.answer .nakAccess f.psn q.msn) ∧ Only [.fab, .wire] s t)) ∧
  (∀ (f : RoceIn) (q : Qp) (va : Word) (key : BitVec 32) (n : Nat) (bs : List Byte) (path : Nat) (s s' : State),
    RoceArrives s f q → f.psn = q.rpsn → Replies s q path → va.getLsbD 63 = false → key = q.mkey → bs.length = n →
    (s.rxOn f.path.val).blockRead .fabric q.ctx (va.toNat % 2 ^ 48) n = (s', .ok bs) →
    Answers (.roceReadReqRx f va key n) s fun t =>
      (t.qp f.qp).rpsn = q.rpsn + BitVec.ofNat 24 (packets n) ∧
      (∃ h : FrameHdr, t.wire = s.wire ++ (List.range (packets n)).map fun i =>
        .packet path h (.roce f.qp ((ew q.entry 0).truncate 24) (.readResp (f.psn + BitVec.ofNat 24 i) (i == 0)
          (i + 1 == packets n) (q.msn + 1) ((bs.drop (4096 * i)).take 4096)))) ∧ t.mem = s'.mem ∧
      Only [.mem, .host, .fab, .wire] s t) ∧
  (∀ (f : RoceIn) (q : Qp) (s : State), RoceArrives s f q →
    (∀ x, q.out = [x] → x.sent = true → x.psn = f.psn → x.req = none → Answers (.roceAckRx f .ack) s fun t =>
      (t.qp f.qp).out = [] ∧ (t.qp f.qp).retries = 0 ∧ t.fab.reqs = s.fab.reqs ∧ Only [.fab] s t) ∧
    (Elapsed q.lastCut s.glob.tick 1250 → Answers (.cnpRx f) s fun t =>
      (t.qp f.qp).rate = Max.max (1 / 64) (q.rate / 2) ∧ (t.qp f.qp).lastCut = some s.glob.tick ∧ Only [.fab] s t) ∧
    (∀ w, q.lastCut = some w → (s.glob.tick - w).toNat < 1250 → Answers (.cnpRx f) s fun t =>
      (t.qp f.qp).rate = q.rate ∧ (t.qp f.qp).lastCut = q.lastCut ∧ Only [.fab] s t) ∧
    (∀ path, Replies s q path → Answers (.roceUnsupportedRx f) s fun t =>
      sendsRoce s t f.qp path (.answer .nakInvalid f.psn q.msn) ∧ t.qp f.qp = q ∧ Only [.fab, .wire] s t) ∧
    Answers (.roceReadRespRx f []) s fun t =>
      t.wire = s.wire ∧ t.qp f.qp = q ∧
      (t.fab.ports[(⟨f.path.val / 2, by omega⟩ : Fin 8)]).rxdrop =
        (s.fab.ports[(⟨f.path.val / 2, by omega⟩ : Fin 8)]).rxdrop + 1 ∧ Only [.fab] s t)

/-! ### NCT (R375-R393) -/

namespace Sys2Proof.Claims
open Sys2Proof.Machine

/-- A session that may send on a path: CONNECTING or UP, with a valid slot not used up and its key k, and a valid peer entry
whose address on the path's plane is dst (R375, R376, R380, R386). -/
structure Sends (s s' : State) (i : BitVec 10) (k : BitVec 256) (path : Fin 16) (dst : BitVec 128) : Prop where
  on : FabOn s
  state : (s.sess i).mode = .connecting ∨ (s.sess i).mode = .up
  key : (s.sess i).key (s.sess i).txSlot = some k
  fresh : (s.sess i).sentIn (s.sess i).txSlot < 2 ^ 40
  held : s.fab.held path.val = false
  addr : ∃ b, s.tableAddr .fabric s.fab.peerbase (s.sess i).peer (path.val / 8) = (s', some dst, b)

/-- The UDP source port of a packet (R386). -/
def srcPort (path : Fin 16) (psn : BitVec 48) : BitVec 16 := BitVec.ofNat 16 (0xC000 + 64 * (path.val / 2) + psn.toNat % 64)

/-- A packet leaves sealed under k, to UDPPORT at dst, with the source port of R386 (R375, R379). -/
def sendsNct (s t : State) (path : Fin 16) (dst : BitVec 128) (sport : BitVec 16) (p : NctPkt) : Prop :=
  ∃ h : FrameHdr, emits s t (.packet path.val h (.nct p)) ∧ h.dst = dst ∧ h.sport = sport ∧
    h.dport = (s.fab.nctCtl >>> 48).truncate 16 ∧ h.smac = (s.fab.ports[pathPort path.val]).mac

/-- An NCT packet for session i arrives at UDPPORT on a link while the mesh runs. -/
structure NctComes (s : State) (u : Udp) (p : NctPkt) (typ : BitVec 4) (i : BitVec 10) : Prop where
  on : FabOn s
  mesh : s.glob.meshRun = true
  link : pathIs s u.path ≠ .down
  dport : u.dport = (s.fab.nctCtl >>> 48).truncate 16
  typ : p.typ = typ
  ver : p.ver = 1
  names : p.dsess = i.zeroExtend 16
  state : (s.sess i).mode = .connecting ∨ (s.sess i).mode = .up

/-- A packet of a session arrives and passes the checks of R378: version 1, a session in CONNECTING or UP, its generation, its
tag under the key of its slot, which leaves it open as q, and a PSN that is new and below CUM + 16,384. -/
structure NctArrives (s : State) (u : Udp) (p q : NctPkt) (typ : BitVec 4) (i : BitVec 10) (x : Sess) : Prop where
  comes : NctComes s u p typ i
  sess : s.sess i = x
  gen : p.pgen = x.pgen
  opens : ∃ k, x.key p.kepoch = some k ∧ nctOpen k p = some q
  low : p.psn.toNat < x.cum.toNat + 16384
  new : x.cum.toNat ≤ p.psn.toNat ∧ p.psn ∉ x.rxSet
  clean : x.refused = []
  few : x.unacked < 15
  span : x.cum.toNat + x.rxSet.length + 1 < 2 ^ 48

/-- The PSN counts as received in t: it is below CUM or in the set above it. -/
def received (t : State) (i : BitVec 10) (psn : BitVec 48) : Prop :=
  psn.toNat < (t.sess i).cum.toNat ∨ psn ∈ (t.sess i).rxSet

/-- Every session but i is as it was. -/
def OnlySess (i : BitVec 10) (s t : State) : Prop := ∀ j, j ≠ i → t.sess j = s.sess j

/-- The state after a packet arrived, before the session acts on it: the path's and the port's counters, and the tick the
peer was heard. -/
def counted (s : State) (u : Udp) (i : BitVec 10) : State :=
  ((s.rxOn u.path).modPath u.path fun x => { x with rx := x.rx + 1, ce := x.ce + (if u.ce then 1 else 0) }).modSess i
    fun x => { x with heard := s.glob.tick }

end Sys2Proof.Claims

/-- R376, R380, R387, R388: NPUT and NGET with good descriptors on an UP session enter the fabric block and are refused with
codes otherwise; VALID written 1 makes an OFF session CONNECTING with its PSNs 0; written 0 it is OFF at once with both slots
cleared; a session silent for DEAD becomes LOST; SWITCH makes the other valid slot send; RETIRE of the sending slot only sets KEY_BUSY, and of
an idle one clears it; a path whose packets have waited 4 × RTO while another had ACKs becomes SUSPECT.
Where the rules leave a point open it rests on the choices of log entries 26 and 32. -/
def Obligations.Sessions : Prop :=
  (∀ put : Bool, ∀ (p : Site) (o : LayP) (s s' : State) (f : BitVec 14) (c : BitVec 9) (ws : List Word),
    let ins : Instr := if put = true then .nput p o else .nget p o
    PortReady .fabric p o ins s s' f c ws → nctFormat put ws = true → (put = false → ew ws 5 = 0) →
    let i : BitVec 10 := (ew ws 0 >>> 54).truncate 10
    let len := (ew ws 0).toNat % 2 ^ 40
    let rf := if (ew ws 3).getLsbD 63 = true then some ((ew ws 3).truncate 14, ew ws 4) else none
    let dst : Word := if put = true then ew ws 2 else ew ws 1
    ((s'.sess i).ctx = c → (s'.sess i).mode = .up → 0 < len → Answers ins s fun t =>
      (∃ r : Req, t.fab.reqs = s'.fab.reqs ++ [r] ∧ r.kind = (if put = true then .nput i rf else .nget i) ∧
        r.by' = .program ∧ r.ctx = c ∧ r.laddr = (ew ws 1).truncate 48 ∧ r.raddr = ew ws 2 ∧ r.len = len ∧ r.fence = f ∧
        r.value = regOf s p o.rv ∧ r.msgid = (s'.sess i).txMsg ∧
        r.total = (dst.toNat % 4096 + len + 4095) / 4096 ∧ r.queued = 0 ∧ r.done = 0) ∧
      (t.sess i).txMsg = (s'.sess i).txMsg + 1 ∧ OnlySess i s' t ∧ OnlySite p id s t ∧
      Only [.cores, .mem, .host, .fab] s t) ∧
    ((s'.sess i).ctx ≠ c → exec ins s = .next (portRefused p ins s' 3)) ∧
    ((s'.sess i).ctx = c → (s'.sess i).mode ≠ .up → exec ins s = .next (portRefused p ins s' 0x11))) ∧
  (∀ (m : RegMaster) (i : BitVec 10) (v : Word) (s : State), pathOpen s m →
    (v.getLsbD 63 = true → (s.sess i).mode = .off → Answers (.sessionEnable m i v) s fun t =>
      (t.sess i).mode = .connecting ∧ (t.sess i).txPsn = 0 ∧ (t.sess i).cum = 0 ∧ (t.sess i).out = [] ∧
      (t.sess i).key0 = (s.sess i).key0 ∧ (t.sess i).key1 = (s.sess i).key1 ∧ (t.sess i).ctx = (v >>> 51).truncate 9 ∧
      (t.sess i).pgen = (v >>> 35).truncate 16 ∧ OnlySess i s t ∧ Only [.fab] s t) ∧
    (v.getLsbD 63 = true → (s.sess i).mode ≠ .off → Answers (.sessionEnable m i v) s fun t =>
      (∀ j, t.sess j = s.sess j) ∧ Only [.fab] s t) ∧
    (v.getLsbD 63 = false → s.fab.reqs = [] → Answers (.sessionDisable m i v) s fun t =>
      (t.sess i).mode = .off ∧ (t.sess i).key0 = none ∧ (t.sess i).key1 = none ∧ OnlySess i s t ∧ Only [.fab] s t) ∧
    (((s.sess i).key (!(s.sess i).txSlot)).isSome = true → Answers (.keySwitch m i) s fun t =>
      t.sess i = { (s.sess i) with txSlot := !(s.sess i).txSlot } ∧ OnlySess i s t ∧ Only [.fab] s t) ∧
    (Answers (.keyRetire m i (s.sess i).txSlot) s fun t =>
      t.sess i = { (s.sess i) with keyBusy := true } ∧ OnlySess i s t ∧ Only [.fab] s t) ∧
    ((∀ y ∈ (s.sess i).out, y.p.kepoch = (s.sess i).txSlot) → Answers (.keyRetire m i (!(s.sess i).txSlot)) s fun t =>
      (t.sess i).key (!(s.sess i).txSlot) = none ∧ (t.sess i).key (s.sess i).txSlot = (s.sess i).key (s.sess i).txSlot ∧
      OnlySess i s t ∧ Only [.fab] s t)) ∧
  (∀ (i : BitVec 10) (s : State), FabOn s → (s.sess i).mode = .connecting ∨ (s.sess i).mode = .up → s.fab.reqs = [] →
    25000 * nfld s.fab.nctCtl 16 16 ≤ (s.glob.tick - (s.sess i).heard).toNat →
    Answers (.sessionLost i) s fun t =>
      (t.sess i).mode = .lost ∧ t.fab.sessLost = true ∧ (t.sess i).out = [] ∧ OnlySess i s t ∧ Only [.fab] s t) ∧
  (∀ (n k : Fin 16) (w a : Word) (s : State), FabOn s → pathIs s n = .up → (s.fab.paths[n]).since = some w →
    4 * s.fab.rto ≤ (s.glob.tick - w).toNat → k ≠ n → (s.fab.paths[k]).ackAt = some a →
    (s.glob.tick - a).toNat ≤ 4 * s.fab.rto → Answers (.pathSuspect n) s fun t =>
      pathIs t n = .suspect ∧ (∀ j, j ≠ n → t.fab.paths[j] = s.fab.paths[j]) ∧ Only [.fab] s t)

/-- R375-R378, R381, R384-R386: a session sends the next packet of its oldest request, a PROBE, an ACK or a lost packet
again, each under its sending slot to the peer's address on the path's plane, and a reliable one takes the next PSN and is
kept; a PROBE of a CONNECTING session takes the next path of the round.
Where the rules leave a point open it rests on the choices of log entries 26 and 50. -/
def Obligations.SessionsSend : Prop :=
  (∀ (i : BitVec 10) (k : BitVec 256) (path : Fin 16) (dst : BitVec 128) (s s' s'' s3 : State) (r : Req)
    (rest : List Req) (rf : Option (BitVec 14 × Word)) (bs : List Byte) (b : Bool), Sends s s' i k path dst →
    s.fab.nextPath none = some path.val → (s.sess i).mode = .up → (s.sess i).out = [] → (s.sess i).refused = [] →
    512 ≤ (s.sess i).w → s.fab.reqs = r :: rest → r.kind = .nput i rf → r.queued < r.total →
    s.reqChunk r (nctPart r.raddr.toNat r.len r.queued).1 (nctPart r.raddr.toNat r.len r.queued).2 = (s'', .ok bs) →
    s''.tableAddr .fabric s.fab.peerbase (s.sess i).peer (path.val / 8) = (s3, some dst, b) →
    Answers (.nctPacketSend i) s fun t =>
      (∃ p : NctPkt, sendsNct s t path dst (srcPort path (s.sess i).txPsn) (nctSeal k p) ∧ p.typ = 0 ∧
        p.psn = (s.sess i).txPsn ∧ p.payload = bs ∧ p.msgid = r.msgid ∧ p.mpkts = BitVec.ofNat 32 r.total ∧
        p.addr = (r.raddr + BitVec.ofNat 64 (nctPart r.raddr.toNat r.len r.queued).1).truncate 48 ∧
        p.kepoch = (s.sess i).txSlot ∧ p.pgen = (s.sess i).pgen) ∧
      (t.sess i).txPsn = (s.sess i).txPsn + 1 ∧ (t.sess i).out.length = 1 ∧ OnlySess i s t ∧
      Only [.mem, .host, .fab, .wire] s t) ∧
  (∀ (i : BitVec 10) (k : BitVec 256) (path : Fin 16) (dst : BitVec 128) (s s' : State), Sends s s' i k path dst →
    (s.sess i).inFlight + 1 < (s.sess i).w / 256 →
    ((s.sess i).mode = .connecting ∧ s.fab.nextPath none = some path.val ∧ Elapsed (s.sess i).probeAt s.glob.tick s.fab.rto) ∨
      (pathIs s path = .suspect ∧ Elapsed (s.fab.paths[path]).probeAt s.glob.tick s.fab.rto) →
    Answers (.nctProbeSend i path) s fun t =>
      (∃ p : NctPkt, sendsNct s t path dst (srcPort path (s.sess i).txPsn) (nctSeal k p) ∧ p.typ = 4 ∧
        p.psn = (s.sess i).txPsn ∧ p.payload = []) ∧
      (t.sess i).txPsn = (s.sess i).txPsn + 1 ∧ (t.sess i).mode = (s.sess i).mode ∧
      (∃ y : Sent, (t.sess i).out = (s.sess i).out ++ [y] ∧ y.path = path.val ∧ y.lost = false) ∧ OnlySess i s t ∧
      Only [.mem, .fab, .wire] s t) ∧
  (∀ (i : BitVec 10) (k : BitVec 256) (path : Fin 16) (dst : BitVec 128) (s s' : State), Sends s s' i k path dst →
    s.fab.nextPath none = some path.val → 0 < (s.sess i).unacked →
    50 ≤ (s.glob.tick - (s.sess i).ackSince).toNat → Answers (.nctAckTimer i) s fun t =>
      (∃ p : NctPkt, sendsNct s t path dst (srcPort path (s.sess i).txAck) (nctSeal k p) ∧ p.typ = 1 ∧
        p.cum = (s.sess i).cum ∧ p.newc = BitVec.ofNat 16 (s.sess i).newRx ∧ p.ce = BitVec.ofNat 16 (s.sess i).ceRx) ∧
      (t.sess i).unacked = 0 ∧ (t.sess i).newRx = 0 ∧ (t.sess i).txPsn = (s.sess i).txPsn ∧
      (t.sess i).out = (s.sess i).out ∧ OnlySess i s t ∧ Only [.mem, .fab, .wire] s t) ∧
  (∀ (i : BitVec 10) (k : BitVec 256) (path : Fin 16) (dst : BitVec 128) (y : Sent) (s s' : State),
    Sends s s' i k path dst → (s.sess i).out = [y] → y.lost = false → 512 ≤ (s.sess i).w →
    s.fab.nextPath (some (y.path / 8)) = some path.val → s.fab.rto ≤ (s.glob.tick - y.at').toNat →
    Answers (.nctRto i y.p.psn) s fun t =>
      (t.sess i).out = [{ y with lost := false, retx := true, path := path.val, at' := s.glob.tick, higher := 0 }] ∧
      (∃ sp : BitVec 16, sendsNct s t path dst sp y.p) ∧ (t.sess i).retx = (s.sess i).retx + 1 ∧
      (t.sess i).txPsn = (s.sess i).txPsn ∧ OnlySess i s t ∧ Only [.mem, .fab, .wire] s t)

/-- R32, R376, R378, R382-R385, R387, R390: a packet that arrives while the mesh stands wakes it and is received; one of
another generation or with a bad tag is dropped and counted; DATA inside
the window is placed and marked received, outside it is refused with WINDOW; a READ is served, a SIGNAL with the right sends
its signal, a PROBE is received; an ACK takes away what it shows and brings a CONNECTING session UP; a NAK fails the message
it names.
Where the rules leave a point open it rests on the choices of log entries 26, 33 and 34. -/
def Obligations.SessionsReceive : Prop :=
  (∀ c ∈ ([(fun n p => Instr.nctDataRx n p, 0), (fun n p => .nctAckRx n p, 1), (fun n p => .nctReadRx n p, 2),
      (fun n p => .nctSignalRx n p, 3), (fun n p => .nctProbeRx n p, 4), (fun n p => .nctNakRx n p, 5)] :
        List ((Udp → NctPkt → Instr) × BitVec 4)),
    ∀ (u : Udp) (p : NctPkt) (i : BitVec 10) (s : State),
    (FabOn s → pathIs s u.path ≠ .down → p.typ = c.2 → s.glob.meshRun = false →
      exec (c.1 u p) s = exec (c.1 u p) (meshWoken s)) ∧
    (NctComes s u p c.2 i → p.pgen ≠ (s.sess i).pgen → Answers (c.1 u p) s fun t =>
      t.sess i = { (s.sess i) with stale := satAdd16 (s.sess i).stale } ∧ OnlySess i s t ∧ t.fab.reqs = s.fab.reqs ∧
      Only [.fab] s t) ∧
    (∀ k, NctComes s u p c.2 i → p.pgen = (s.sess i).pgen → (s.sess i).key p.kepoch = some k → nctOpen k p = none →
      Answers (c.1 u p) s fun t =>
        t.sess i = { (s.sess i) with authfail := satAdd16 (s.sess i).authfail } ∧ OnlySess i s t ∧
        t.fab.reqs = s.fab.reqs ∧ t.mem = s.mem ∧ Only [.fab] s t)) ∧
  (∀ (u : Udp) (p q : NctPkt) (i : BitVec 10) (x : Sess) (s s' : State), NctArrives s u p q 0 i x →
    s.fab.reqs = [] → s.tr.pull = none →
    (x.window true p.addr.toNat q.payload.length = true →
      (counted s u i).blockWrite .fabric x.ctx p.addr.toNat q.payload = (s', .ok ()) →
      Answers (.nctDataRx u p) s fun t =>
        received t i p.psn ∧ t.mem = s'.mem ∧ (t.sess i).newRx = x.newRx + 1 ∧ OnlySess i s t ∧ t.wire = s.wire ∧
        Only [.mem, .host, .fab] s t) ∧
    (x.window true p.addr.toNat q.payload.length = false → Answers (.nctDataRx u p) s fun t =>
      (t.sess i).refused = [⟨p.psn, p.msgid, 1, none⟩] ∧ ¬ received t i p.psn ∧ OnlySess i s t ∧ Only [.fab] s t)) ∧
  (∀ (u : Udp) (p q : NctPkt) (i : BitVec 10) (x : Sess) (ps : List (Nat × Nat × Leaf)) (s s' : State),
    NctArrives s u p q 2 i x → s.fab.reqs = [] →
    x.window false (leNat (q.payload.take 8)) (leNat ((q.payload.drop 8).take 8)) = true →
    q.payload.length = 24 →
    (counted s u i).blockPages x.ctx false (leNat (q.payload.take 8)) (leNat ((q.payload.drop 8).take 8)) =
      (s', .ok ps) →
    Answers (.nctReadRx u p) s fun t =>
      received t i p.psn ∧ (∃ r, t.fab.reqs = [r] ∧ r.kind = .serve i ∧ r.msgid = p.msgid ∧
        r.len = leNat ((q.payload.drop 8).take 8)) ∧ OnlySess i s t ∧ Only [.mem, .host, .fab] s t) ∧
  (∀ (u : Udp) (p q : NctPkt) (i : BitVec 10) (x : Sess) (ce fe : List Word) (s : State), NctArrives s u p q 3 i x →
    let f : BitVec 14 := BitVec.ofNat 14 (leNat (q.payload.take 8))
    Tbl.find? s.host.ctxs x.ctx.toNat = some ce → Tbl.find? s.host.fences f.toNat = some fe →
    (SignalRight x.ctx ce fe → Answers (.nctSignalRx u p) s fun t =>
      t.host.inbox = s.host.inbox ++ [⟨f, BitVec.ofNat 64 (leNat ((q.payload.drop 8).take 8)), false, .block⟩] ∧
      received t i p.psn ∧ OnlySess i s t ∧ Only [.host, .fab] s t) ∧
    (¬ SignalRight x.ctx ce fe → Answers (.nctSignalRx u p) s fun t =>
      (t.sess i).refused = [⟨p.psn, p.msgid, 2, none⟩] ∧ t.host.inbox = s.host.inbox ∧ OnlySess i s t ∧
      Only [.fab] s t)) ∧
  (∀ (u : Udp) (p q : NctPkt) (i : BitVec 10) (x : Sess) (s : State),
    (NctArrives s u p q 4 i x → Answers (.nctProbeRx u p) s fun t =>
      received t i p.psn ∧ (t.sess i).unacked = x.unacked + 1 ∧ OnlySess i s t ∧ Only [.fab] s t) ∧
    (∀ r, NctArrives s u p q 5 i x → s.fab.reqs = [r] → r.sess? = some i → r.msgid = p.msgid → r.by' = .program →
      Answers (.nctNakRx u p) s fun t =>
        t.fab.reqs = [] ∧ t.host.inbox = s.host.inbox ++ [⟨r.fence, r.value, true, .block⟩] ∧ received t i p.psn ∧
        OnlySess i s t ∧ Only [.host, .fab] s t)) ∧
  (∀ (u : Udp) (p : NctPkt) (i : BitVec 10) (x : Sess) (y : Sent) (s : State), NctComes s u p 1 i →
    s.sess i = x → x.mode = .connecting → p.pgen = x.pgen →
    (∃ k q, x.key p.kepoch = some k ∧ nctOpen k p = some q) → x.out = [y] → y.p.typ = 4 → y.req = none →
    y.p.psn.toNat < p.cum.toNat → pathIs s (Fin.ofNat 16 y.path) = .up → p.newc = 0 → s.fab.reqs = [] →
    Answers (.nctAckRx u p) s fun t =>
      (t.sess i).mode = .up ∧ (t.sess i).out = [] ∧ (t.sess i).w = x.w ∧
      (t.sess i).srtt = (if y.retx then x.srtt
        else ((x.srtt : Int) + (((s.glob.tick - y.at').toNat : Int) - (x.srtt : Int)) / 8).toNat) ∧
      OnlySess i s t ∧ Only [.fab] s t)

/-! ### Transit (R395-R426) -/

namespace Sys2Proof.Claims
open Sys2Proof.Machine

/-- A transit packet of a type arrives at TRPORT on a link while the mesh runs. -/
structure TrComes (s : State) (u : Udp) (p : TrPkt) (typ : BitVec 4) : Prop where
  on : FabOn s
  mesh : s.glob.meshRun = true
  link : pathIs s u.path ≠ .down
  dport : u.dport = (s.tr.net >>> 48).truncate 16
  typ : p.typ = typ

/-- A packet that passes checks 1 and 2 of R412, which leave it open as q. -/
structure TrArrives (s : State) (u : Udp) (p q : TrPkt) (typ : BitVec 4) : Prop where
  comes : TrComes s u p typ
  job : s.tr.cfg.getLsbD 63 = true
  header : p.ver = 1 ∧ p.job = s.tr.job ∧ p.dst = s.tr.site ∧ p.slice = s.tr.sliceNo
  opens : ∃ k, (s.tr.slot p.kslot).key = some k ∧ trOpen k p = some q

/-- The state after a transit packet has been counted as received. -/
def trCounted (s : State) (u : Udp) : State := (s.rxOn u.path.val).trCount .rx 1

/-- A packet leaves sealed under k, to TRPORT at dst with TRDSCP (R408, R409). -/
def sendsTr (s t : State) (path : Nat) (dst : BitVec 128) (p : TrPkt) : Prop :=
  ∃ (k : BitVec 256) (h : FrameHdr), (s.tr.slot p.kslot).key = some k ∧ emits s t (.packet path h (.transit (trSeal k p))) ∧
    h.dst = dst ∧ h.dport = (s.tr.net >>> 48).truncate 16 ∧ h.dscp = (s.tr.net >>> 42).truncate 6

/-- The counter of `tr.stat` with n more. -/
def statUp (s t : State) (c : TrStat) (n : Nat) : Prop := t.tr.stat[c.idx] = s.tr.stat[c.idx] + BitVec.ofNat 64 n

/-- The sending slot holds a key, and no other step with the same OSTEP[31:0] was sent under it, in this
job or from the same site and slice in an earlier one (R408). -/
def mayNumber (s : State) (k : Word) : Prop :=
  (s.tr.slot s.tr.txSlot).key.isSome = true ∧
    (∀ f ∈ (s.tr.slot s.tr.txSlot).steps, f = k ∨ f.truncate 32 ≠ (k.truncate 32 : BitVec 32)) ∧
    ∀ e ∈ (s.tr.slot s.tr.txSlot).spent, e.1 = s.tr.site → e.2.1 = s.tr.sliceNo →
      e.2.2.truncate 32 ≠ (k.truncate 32 : BitVec 32)

/-- The address of a site on the plane of the next path, which no pause holds (R395, R410). -/
def SiteAddr (s : State) (path : Nat) (d : BitVec 6) (dst : BitVec 128) : Prop :=
  s.trPath = some path ∧ s.fab.held path = false ∧ 
    (s.tableAddr .transit s.tr.sitebase d.toNat (path / 8)).2 = (some dst, false)

/-- The result record of an exchange that completed UNMERGED in state s: STATUS 1, its step, its kept blocks, the groups lost and
decoded, the fragments that came late, and the ticks since its acceptance (R420). -/
def unmergedRecord (s : State) (x : Exchange) : List Byte :=
  let r := s.rxStep x.step
  wordBytes [0x4000000000000000#64, x.step, 0, 0, BitVec.ofNat 64 ((x.keep.filter id).length * 2 ^ 32),
    BitVec.ofNat 64 (r.groups.1 * 2 ^ 32) ||| BitVec.ofNat 64 r.groups.2, BitVec.ofNat 64 (r.late % 2 ^ 32),
    s.glob.tick - x.accepted]

/-- The state in which an accepted exchange stands, before a contribution writes its beacon (R400, R412). -/
def openedFor (s : State) (x : Exchange) : State :=
  let s1 := s.reuseSlot x.step
  { s1 with tr := { s1.tr with exch := s1.tr.exch ++ [x], lastStep := some (s1.tr.job, x.step) } }

/-- The descriptor passes every check of TRANSIT.out in state s for context c (R399, R400, R422). -/
structure OutPasses (s : State) (c : BitVec 9) (ws : List Word) : Prop where
  format : outFormat ws = true
  job : s.tr.valid = true
  ctx : s.tr.ctx = c
  noSnap : (ew ws 4).getLsbD 63 = false
  params : outParams ws = true
  near : s.tr.behind (ew ws 2) = false
  order : s.tr.disorder (ew ws 1) (ew ws 2) = false
  fits : s.tr.fits ((ew ws 0 >>> 62).truncate 2) = true
  noPull : s.tr.pull = none
  rejoin : s.tr.rejoin = false
  none' : s.tr.exch = []
  clean : ∀ r ∈ s.tr.rx, r.fault = false

end Sys2Proof.Claims

/-- R399-R403, R418, R420-R423: an accepted TRANSIT.out stands as an exchange, and a contribution writes its beacon; pass 1
keeps a block where the sum of squares of delta plus residual exceeds the threshold; pass 2 makes the stream and its
fragments; an exchange without its MERGE after 2 × DEADLINE, in whatever pass it is, gives the kept blocks of a complete
contribution back, writes its result record and completes UNMERGED; a pull completes, with its error flag where the beacon moved; ending the job ends what is open.
Where the rules leave a point open it rests on the choices of log entries 27 and 36. -/
def Obligations.Exchanges : Prop :=
  (∀ (p : Site) (o : LayP) (s s' : State) (f : BitVec 14) (c : BitVec 9) (ws : List Word),
    PortReady .transit p o (.transitOut p o) s s' f c ws →
    (OutPasses s' c ws →
      let x := exchangeOf ws f (regOf s p o.rv) s'.glob.tick
      ((ew ws 0).getLsbD 61 = true → exec (.transitOut p o) s =
        .next (issuedAs (openedFor s' x) p (pcOf s p + 8) id)) ∧
      (∀ s'', (ew ws 0).getLsbD 61 = false →
        (openedFor s' x).blockWrite .transit c (s'.tr.regs[10] &&& 0x0000FFFFFFFFFFF8).toNat (leBytes 8 (ew ws 2).toNat) = (s'', .ok ()) →
        exec (.transitOut p o) s = .next (issuedAs s'' p (pcOf s p + 8) id))) ∧
    (outFormat ws = true → s'.tr.valid = false → (ew ws 4).getLsbD 63 = false →
      exec (.transitOut p o) s = .next (portRefused p (.transitOut p o) s' 0x10))) ∧
  (∀ (x : Exchange) (l b e : List W32) (s s1 s2 s3 s4 : State), FabOn s → s.tr.exch = [x] → x.phase = .pass1 →
    x.snap = none → s.tr.nblocks = 1 → s.trBlock 0 0 = (s1, some l) → s1.trBlock (baseReg x.baseacc) 0 = (s2, some b) →
    s2.trBlock 5 0 = (s3, some e) → l.length = 256 → b.length = 256 → e.length = 256 →
    let d := List.zipWith sub32 l b
    let u := List.zipWith add32 d e
    (∀ w, w ∈ d ∨ w ∈ u → finite32 w = true) → s3.tr = s.tr → s3.putBlock 6 0 d = (s4, true) → s4.tr = s.tr →
    exec .transitPass1Done s = .next { s4 with tr := { s4.tr with exch :=
      [{ x with phase := .pass2, snap := none, keep := [(f32 x.t2).lt (f32 (ssq32 u))] }] } }) ∧
  (∀ (x : Exchange) (q : List Byte) (s s' s'' : State), FabOn s → s.tr.exch = [x] → x.phase = .pass2 → x.mergeParts = 0 →
    s.pass2 x = (s', q, none) →
    (s'.reuseSlot x.step).trWrite (s'.tr.rxSlot x.step s'.tr.site) (bitmapBytes x.keep ++ q) = (s'', true) →
    s''.tr.exch = [x] →
    exec .transitPass2Done s = .next { s'' with tr := { s''.tr with exch :=
      [{ x with
           phase := .sent, contributed := true, stream := bitmapBytes x.keep ++ q,
           toSend := allFrags (bitmapBytes x.keep ++ q).length x.kdata x.mpar }] } }) ∧
  (∀ (x : Exchange) (ok : Bool) (s s' s'' : State), FabOn s → s.tr.exch = [x] → x.phase ≠ .finished → x.mergeParts = 0 →
    x.mergeAt = none → 50000 * x.deadline ≤ (s.glob.tick - x.accepted).toNat →
    s.residual x add32 (fun _ => x.contributed) = (s', none) → s'.tr.exch = [x] →
    s'.trWrite x.result.toNat (unmergedRecord s' x) = (s'', ok) → s''.tr.exch = [x] →
    Answers (.transitUnmerged x.step) s fun t =>
      t.mem = s''.mem ∧
      (∃ y : Exchange, t.tr.exch = [y] ∧ y.phase = .finished ∧ y.unmerged = true ∧ y.toSend = x.toSend) ∧
      t.host.inbox = s''.host.inbox ++ [⟨x.fence, x.value, false, .block⟩] ∧ Only [.mem, .host, .tr] s t) ∧
  (∀ (p : Site) (o : LayP) (s s' : State) (f : BitVec 14) (c : BitVec 9) (ws : List Word),
    PortReady .transit p o (.transitPull p o) s s' f c ws → pullFormat ws = true → s'.tr.valid = true → s'.tr.ctx = c →
    let i : BitVec 10 := (ew ws 0 >>> 54).truncate 10
    (s'.sess i).ctx = c → s'.tr.exch = [] → s'.tr.pull = none → (s'.sess i).mode = .up →
    Answers (.transitPull p o) s fun t =>
      (∃ y : Pull, t.tr.pull = some y ∧ y.sess = i ∧ y.result = (ew ws 1).truncate 48 ∧ y.fence = f ∧ y.stage = 0) ∧
      (∃ r : Req, t.fab.reqs = s'.fab.reqs ++ [r] ∧ r.kind = .nget i ∧ r.by' = .pull ∧ r.len = 8) ∧ OnlySite p id s t ∧
      Only [.cores, .mem, .host, .fab, .tr] s t) ∧
  (∀ (y : Pull) (s : State), FabOn s → s.tr.pull = some y → y.stage = 4 →
    Answers .transitPullComplete s fun t =>
      t.tr.pull = none ∧ t.host.inbox = s.host.inbox ++ [⟨y.fence, y.value, decide (y.second ≠ y.first), .block⟩] ∧
      (y.second ≠ y.first → s.tr.err = 0 → t.tr.err = 0x8C00000000000000#64) ∧ Only [.mem, .host, .fab, .tr] s t) ∧
  (∀ (m : RegMaster) (v : Word) (s : State), pathOpen s m → v.getLsbD 63 = false →
    Answers (.transitJobEnd m v) s fun t =>
      t.tr.valid = false ∧ (s.tr.valid = true → t.tr.exch = [] ∧ t.tr.pull = none ∧ t.tr.held = []) ∧
      (s.tr.exch = [] → ∀ y, s.tr.valid = true → s.tr.pull = some y →
        t.host.inbox = s.host.inbox ++ [⟨y.fence, y.value, true, .block⟩]) ∧ Only [.mem, .host, .fab, .tr] s t)

/-- R32, R405-R416, R419: a packet that arrives while the mesh stands wakes it and is received; a fragment goes out on the next path under the sending slot; one that arrives is kept, counted as a
copy, or counted LATE, EARLY or AUTHFAIL; acknowledgements go to the coordinator, which takes them until it decides, and its
decision takes the next accession; a MERGE comes from the coordinator only; a PROBE is answered with an ECHO, which brings
its route UP with its srtt; a dead route is not UP and keeps its PROBEs in flight; SWITCH and RETIRE act on the site-key slots as on a session's.
Where the rules leave a point open it rests on the choices of log entries 27, 32, 34, 37 and 50. -/
def Obligations.TransitTraffic : Prop :=
  (∀ (x : Exchange) (g f : Nat) (rest : List (Nat × Nat)) (r : Fin 8) (d : BitVec 6) (path : Nat) (dst : BitVec 128)
    (s : State), FabOn s → s.tr.left = [] → s.tr.exch = [x] → x.toSend = (g, f) :: rest → s.tr.routesUp = [r] → mayNumber s x.step →
    s.tr.siteList.filter (fun p => p ≠ s.tr.site) = [d] → SiteAddr s path d dst →
    Answers .transitFragmentSend s fun t =>
      (∃ p : TrPkt, sendsTr s t path dst p ∧ p.kslot = s.tr.txSlot ∧ p.payload = x.frag g f ∧
        p.typ = (if f < groupK x.stream.length x.kdata g then 0 else 1) ∧ p.group = BitVec.ofNat 24 g ∧
        p.fidx = BitVec.ofNat 8 f ∧ p.dst = d ∧ p.ostep = x.step ∧ p.acc = x.baseacc) ∧
      (∃ y : Exchange, t.tr.exch = [y] ∧ y.toSend = rest ∧ y.stream = x.stream) ∧ statUp s t .tx 1 ∧
      Only [.mem, .fab, .tr, .wire] s t) ∧
  (∀ (u : Udp) (p : TrPkt) (s : State),
    ∀ c ∈ ([(Instr.transitDataRx u p, 0), (.transitAckRx u p, 2), (.transitMergeRx u p, 3), (.transitProbeRx u p, 4),
        (.transitEchoRx u p, 5)] : List (Instr × BitVec 4)),
      (FabOn s → pathIs s u.path ≠ .down → p.typ = c.2 → s.glob.meshRun = false → exec c.1 s = exec c.1 (meshWoken s)) ∧
      (TrComes s u p c.2 → p.job ≠ s.tr.job → Answers c.1 s fun t =>
        statUp s t .rx 1 ∧ statUp s t .dup 1 ∧ t.tr = { s.tr with stat := t.tr.stat } ∧ Only [.fab, .tr] s t) ∧
      (TrComes s u p c.2 → s.tr.cfg.getLsbD 63 = true → p.ver = 1 → p.job = s.tr.job → p.dst = s.tr.site →
        p.slice = s.tr.sliceNo → (∀ k, (s.tr.slot p.kslot).key = some k → trOpen k p = none) → Answers c.1 s fun t =>
          statUp s t .rx 1 ∧ statUp s t .authfail 1 ∧ t.tr = { s.tr with stat := t.tr.stat } ∧ Only [.fab, .tr] s t)) ∧
  (∀ (x : Exchange) (u : Udp) (p q : TrPkt) (s s' : State), TrArrives s u p q 0 → s.tr.exch = [x] → s.tr.rx = [] →
    s.tr.acks = [] →
    (x.step = p.ostep → s.glob.tick.toNat < x.accepted.toNat + 25000 * x.deadline → p.fidx.toNat < p.k.toNat →
      2 ≤ p.k.toNat →
      let n := fragIndex p.len.toNat p.ngroups.toNat p.k.toNat p.group.toNat p.fidx.toNat
      (trCounted s u).trWrite (s.tr.rxSlot p.ostep p.src + 8192 * n) (q.payload.take (p.len.toNat - 8192 * n)) = (s', true) →
      Answers (.transitDataRx u p) s fun t => t.mem = s'.mem ∧
        (∃ r : RxSite, t.tr.rx = [⟨p.ostep, [r], 0, false, false⟩] ∧ r.site = p.src ∧ r.got = [256 * p.group.toNat + p.fidx.toNat] ∧
          r.decoded = [] ∧ r.nsteps = p.nsteps ∧ r.baseacc = p.acc) ∧ statUp s t .rx 1 ∧ Only [.mem, .host, .fab, .tr] s t) ∧
    (x.step.toNat + 1 < p.ostep.toNat → Answers (.transitDataRx u p) s fun t =>
      statUp s t .early 1 ∧ t.tr.rx = [] ∧ Only [.fab, .tr] s t) ∧
    (x.step = p.ostep → x.accepted.toNat + 25000 * x.deadline ≤ s.glob.tick.toNat →
      Answers (.transitDataRx u p) s fun t =>
        statUp s t .late 1 ∧ t.tr.rx = [⟨p.ostep, [], 1, false, false⟩] ∧ Only [.fab, .tr] s t)) ∧
  (∀ (x : Exchange) (u : Udp) (p q : TrPkt) (s : State), TrArrives s u p q 2 → s.tr.exch = [x] → x.step = p.ostep →
    s.tr.acks = [] → s.tr.rx = [] →
    (s.tr.coord = s.tr.site → s.tr.decided = [] → s.glob.tick.toNat < x.accepted.toNat + 25000 * x.deadline →
      Answers (.transitAckRx u p) s fun t =>
      t.tr.acks = [{
          step := p.ostep, src := p.src, sender := (p.group >>> 18).truncate 6, listen := p.listen,
          known := p.known, kept := p.len.toNat, nparts := p.ngroups.toNat,
          parts := [(p.group.toNat % 2 ^ 18, q.payload)] }] ∧ t.tr.exch = s.tr.exch ∧ Only [.fab, .tr] s t) ∧
    (s.tr.coord = s.tr.site → x.accepted.toNat + 25000 * x.deadline ≤ s.glob.tick.toNat →
      Answers (.transitAckRx u p) s fun t => statUp s t .late 1 ∧ t.tr.acks = [] ∧ Only [.fab, .tr] s t) ∧
    (s.tr.coord ≠ s.tr.site → Answers (.transitAckRx u p) s fun t =>
      statUp s t .dup 1 ∧ t.tr.acks = [] ∧ Only [.fab, .tr] s t)) ∧
  (∀ (x : Exchange) (u : Udp) (p q : TrPkt) (s : State), TrArrives s u p q 3 → s.tr.exch = [x] → x.step = p.ostep → x.phase = .pass1 →
    x.merged = false → x.merge = [] →
    (p.src = s.tr.coord → Answers (.transitMergeRx u p) s fun t =>
      t.tr.exch = [{ x with
        mergeParts := p.ngroups.toNat, mergeLen := p.len.toNat, merge := [(p.group.toNat, q.payload)]
        mergeAt := if p.ngroups.toNat = 1 then some s.glob.tick else none }] ∧
      Only [.fab, .tr] s t) ∧
    (p.src ≠ s.tr.coord → Answers (.transitMergeRx u p) s fun t =>
      t.tr.exch = [x] ∧ statUp s t .dup 1 ∧ Only [.fab, .tr] s t)) ∧
  (∀ (u : Udp) (p q : TrPkt) (path : Nat) (dst : BitVec 128) (s : State), TrArrives s u p q 4 →
    SiteAddr s path p.src dst → Answers (.transitProbeRx u p) s fun t =>
      (∃ y : TrPkt, sendsTr s t path dst y ∧ y.typ = 5 ∧ y.ostep = p.ostep ∧ y.len = p.len ∧ y.dst = p.src ∧
        y.kslot = p.kslot) ∧ Only [.mem, .fab, .tr, .wire] s t) ∧
  (∀ (u : Udp) (p q : TrPkt) (r : Fin 8) (s : State), TrArrives s u p q 5 →
    s.tr.probes = [(p.kslot, p.ostep, r)] → s.tr.held = [] → Answers (.transitEchoRx u p) s fun t =>
      (t.tr.routes[r]).up = true ∧ t.tr.probes = [] ∧
      (t.tr.routes[r]).srtt = BitVec.ofNat 32 (((s.tr.routes[r]).srtt.toNat : Int) +
        (((s.glob.tick - p.len).toNat / 25 : Int) - ((s.tr.routes[r]).srtt.toNat : Int)) / 8).toNat ∧
      (∀ j, j ≠ r → t.tr.routes[j] = s.tr.routes[j]) ∧ Only [.fab, .tr] s t) ∧
  (∀ (r : Fin 8) (d : BitVec 6) (path : Nat) (dst : BitVec 128) (s : State), FabOn s → s.tr.cfg.getLsbD 63 = true →
    (s.tr.routes[r]).cfg.getLsbD 63 = true → (s.tr.slot s.tr.txSlot).key.isSome = true →
    (s.tr.slot s.tr.txSlot).probes < 2 ^ 32 → d ≠ s.tr.site → s.tr.sites.getLsbD d.toNat = true →
    Elapsed (Tbl.get none s.tr.probed (64 * r.val + d.toNat)) s.glob.tick (25000 * nfld s.tr.net 16 16) →
    SiteAddr s path d dst → Answers (.transitProbeSend r d) s fun t =>
      (∃ q : TrPkt, sendsTr s t path dst q ∧ q.kslot = s.tr.txSlot ∧ q.typ = 4 ∧ q.dst = d ∧ q.len = s.glob.tick ∧
        q.ostep = BitVec.ofNat 64 (s.tr.slot s.tr.txSlot).probes) ∧
      (t.tr.slot s.tr.txSlot).probes = (s.tr.slot s.tr.txSlot).probes + 1 ∧ t.tr.txSlot = s.tr.txSlot ∧
      Only [.mem, .fab, .tr, .wire] s t) ∧
  (∀ (r : Fin 8) (s : State), FabOn s → (s.tr.routes[r]).up = true →
    100000 * nfld s.tr.net 16 16 ≤ (s.glob.tick - (s.tr.routes[r]).echoAt).toNat → Answers (.routeDead r) s fun t =>
    (t.tr.routes[r]).up = false ∧ t.tr.probes = s.tr.probes ∧ (∀ q, q ≠ r → t.tr.routes[q] = s.tr.routes[q]) ∧ Only [.tr] s t) ∧
  (∀ (x : Exchange) (s : State), FabOn s → s.tr.exch = [x] → x.failed = false →
    (x.acked = true → s.allDecoded x.step = false → s.tr.rx = [] →
      25000 * x.deadline ≤ (s.glob.tick - x.accepted).toNat → Answers (.transitDeadline x.step) s fun t =>
      (∃ r : RxStep, t.tr.rx = [r] ∧ r.step = x.step ∧ r.closed = true) ∧ t.tr.exch = [x] ∧ Only [.tr] s t) ∧
    (∀ (s' : State) (ps : List TrPkt), x.acked = false → s.allDecoded x.step = true → x.contributed = true ∨ x.listen = true →
      s.tr.coord ≠ s.tr.site →
      s.tr.routesUp = [] → s.tr.siteList ≠ [] →
      ({ s with tr := { s.tr with exch := [{ x with acked := true }] } } : State).ackPackets x = (s', .ok ps) →
      Answers (.transitDeadline x.step) s fun t =>
        t.tr.exch = [{ x with acked := true }] ∧ t.wire = s.wire ∧ t.tr.held = s.tr.held ++ ps ∧ ps ≠ [] ∧
        (∀ p ∈ ps, p.typ = 2 ∧ p.dst = s.tr.coord ∧ p.ostep = x.step) ∧ Only [.mem, .host, .tr] s t) ∧
    (s.tr.valid = true → s.tr.coord = s.tr.site → s.tr.decided = [] → accJob s.tr.seen ≠ s.tr.job →
      (s.tr.ackedBy x.step).length = s.tr.siteList.length ∨
        31250 * x.deadline ≤ (s.glob.tick - x.accepted).toNat →
      Answers (.coordDecide x.step) s fun t =>
        t.tr.decided = [x.step] ∧ t.tr.seen = s.tr.accession (x.step.toNat + 1) ∧
        Only [.mem, .host, .fab, .tr, .wire] s t)) ∧
  (∀ (m : RegMaster) (s : State), pathOpen s m → s.tr.held = [] →
    (((s.tr.slot (!s.tr.txSlot)).key).isSome = true → exec (.transitKeySwitch m) s =
      .next { s with tr := { s.tr with txSlot := !s.tr.txSlot } }) ∧
    ((s.tr.slot (!s.tr.txSlot)).key = none → exec (.transitKeySwitch m) s =
      .next { s with tr := { s.tr with keyBusy := true } }) ∧
    exec (.transitKeyRetire m s.tr.txSlot) s = .next { s with tr := { s.tr with keyBusy := true } } ∧
    (s.tr.exch = [] → Answers (.transitKeyRetire m (!s.tr.txSlot)) s fun t =>
      (t.tr.slot (!s.tr.txSlot)).key = none ∧ t.tr.slot s.tr.txSlot = s.tr.slot s.tr.txSlot ∧ Only [.tr] s t))

/-! ### The vault (R427-R449) -/

namespace Sys2Proof.Claims
open Sys2Proof.Machine

/-- A record of `vault.err`: CODE, OP and INDEX under VALID. -/
def vaultRec (code op i : Nat) : Word := BitVec.ofNat 64 (2 ^ 63 + code * 2 ^ 58 + op * 2 ^ 56 + i)

/-- The state with the vault's plain fields replaced. -/
def withVault (s : State) (v : Vault) : State := { s with vault := v }

/-- A fence signal of a block, queued for the fence unit. -/
def signalled (s t : State) (f : BitVec 14) (v : Word) (err : Bool) : Prop :=
  t.host.inbox = s.host.inbox ++ [⟨f, v, err, .block⟩]

/-- The VAULT instructions, a restore with its staged images, and their descriptors' formats. -/
def vaultOps (im : List StagedImage) : List ((Site → LayP → Instr) × (List Word → Bool)) :=
  [(.vaultSave, saveFormat), (.vaultCommit, commitFormat), (.vaultDrain, drainFormat),
   (fun p o => .vaultRestore p o im, restoreFormat)]

/-- The shard an accepted save adds to a generation (R434, R436). -/
def savedShard (ws : List Word) (x : Gener) : Shard :=
  { words := ws.take 6, npages := touched (shSrc ws) (shLen ws), vpage0 := x.used + 1, pages := [] }

end Sys2Proof.Claims

/-- R428, R430, R434, R435, R441-R443: while EN is 0 a VAULT instruction is refused with VAULT_OFF, and from another
context with NO_RIGHT; a save of the open generation's accession takes its pages and joins the work, one that finds no open
generation opens the target and clears its first page; a commit names the open generation's accession and saves, or is
refused with ORDER; a restore without a commit is refused with NOCOMMIT, and one beside a restore or commit that runs, or of
the vault's own sets beside a save, with BUSY, as a drain is beside the first two; a drain seals the image chunk by chunk under the
key slot and hands the chunks to the fabric; START 0 stops it. EN 0 to 1 empties the region; EN 1 to 0 ends the work.
Where the rules leave a point open it rests on the choices of log entries 28, 36 and 40. -/
def Obligations.VaultRequests : Prop :=
  (∀ im, ∀ e ∈ vaultOps im, ∀ (p : Site) (o : LayP) (s s' : State) (f : BitVec 14) (c : BitVec 9) (ws : List Word),
    PortReady .vault p o (e.1 p o) s s' f c ws → e.2 ws = true →
    (s'.mem.vaultEn = false → exec (e.1 p o) s = .next (portRefused p (e.1 p o) s' 0x10)) ∧
    (s'.mem.vaultEn = true → s'.vault.vctx ≠ c → exec (e.1 p o) s = .next (portRefused p (e.1 p o) s' 3))) ∧
  (∀ (p : Site) (o : LayP) (s s' s'' : State) (f : BitVec 14) (c : BitVec 9) (ws : List Word),
    PortReady .vault p o (.vaultSave p o) s s' f c ws → saveFormat ws = true → s'.mem.vaultEn = true → s'.vault.vctx = c →
    shardRanges ws = true → s'.anySealed (shSrc ws) (shLen ws) = (s'', false) → s''.vault = s'.vault →
    s'.vault.busy = false →
    (∀ (g : Fin 2), s'.vault.openGen = some (g == 1) → (s'.vault.gens[g]).acc = ew ws 6 →
      (s'.vault.gens[g]).used + touched (shSrc ws) (shLen ws) + 1 ≤ s'.mem.vaultPages.toNat / 2 →
      (s'.vault.gens[g]).shards.length < 4096 →
      exec (.vaultSave p o) s = .next (issuedAs (withVault s'' { s'.vault with
        gens := s'.vault.gens.set g { (s'.vault.gens[g]) with
          used := (s'.vault.gens[g]).used + touched (shSrc ws) (shLen ws)
          shards := (s'.vault.gens[g]).shards ++ [savedShard ws (s'.vault.gens[g])] }
        jobs := s'.vault.jobs ++ [.save f (regOf s p o.rv) (g == 1) (s'.vault.gens[g]).shards.length] })
        p (pcOf s p + 8) id)) ∧
    (∀ (g : Fin 2), s'.vault.openGen = none → s'.vault.jobs = [] → s'.vault.drain = none →
      touched (shSrc ws) (shLen ws) + 1 ≤ s'.mem.vaultPages.toNat / 2 →
      g = (if (s'.vault.gens[0]).committed || (s'.vault.gens[1]).committed then (if s'.vault.newest then 0 else 1) else 0) →
      Answers (.vaultSave p o) s fun t =>
        t.vault = { s'.vault with
          gens := s'.vault.gens.set g { Gener.empty with
            isOpen := true, acc := ew ws 6, used := touched (shSrc ws) (shLen ws)
            shards := [savedShard ws Gener.empty] }
          jobs := [.save f (regOf s p o.rv) (g == 1) 0] } ∧
        t.mem = s''.mem.clearPage (s''.mem.genPage (g == 1)) ∧ OnlySite p id s t ∧ Only [.cores, .mem, .vault] s'' t)) ∧
  (∀ (p : Site) (o : LayP) (s s' : State) (f : BitVec 14) (c : BitVec 9) (ws : List Word),
    PortReady .vault p o (.vaultCommit p o) s s' f c ws → commitFormat ws = true → s'.mem.vaultEn = true →
    s'.vault.vctx = c →
    (∀ (g : Fin 2), s'.vault.openGen = some (g == 1) → s'.vault.busy = false → (s'.vault.gens[g]).acc = ew ws 1 →
      (s'.vault.gens[g]).shards.length = (ew ws 0).toNat % 2 ^ 32 →
      exec (.vaultCommit p o) s = .next (issuedAs (withVault s' { s'.vault with
        jobs := s'.vault.jobs ++ [.commit f (regOf s p o.rv) (g == 1) ws] }) p (pcOf s p + 8) id)) ∧
    (∀ (g : Fin 2), s'.vault.openGen = some (g == 1) → ((s'.vault.gens[g]).acc ≠ ew ws 1 ∨
      (s'.vault.gens[g]).shards.length ≠ (ew ws 0).toNat % 2 ^ 32) →
      exec (.vaultCommit p o) s = .next (portRefused p (.vaultCommit p o) s' 0x14)) ∧
    (s'.vault.openGen = none → exec (.vaultCommit p o) s = .next (portRefused p (.vaultCommit p o) s' 0x14))) ∧
  (∀ (p : Site) (o : LayP) (im : List StagedImage) (s s' : State) (f : BitVec 14) (c : BitVec 9) (ws : List Word),
    PortReady .vault p o (.vaultRestore p o im) s s' f c ws → restoreFormat ws = true → s'.mem.vaultEn = true →
    s'.vault.vctx = c → s'.vault.busy = false → (∀ j ∈ s'.vault.jobs, j.isSave = false) →
    ((ew ws 0 >>> 62 = 3 ∨ (ew ws 0 >>> 62 = 0 ∧ s'.vault.anyCommit = true)) →
      exec (.vaultRestore p o im) s = .next (issuedAs (withVault s' { s'.vault with
        jobs := s'.vault.jobs ++ [.restore f (regOf s p o.rv) ws im s'.glob.tick] }) p (pcOf s p + 8) id)) ∧
    (ew ws 0 >>> 62 = 0 → s'.vault.anyCommit = false →
      exec (.vaultRestore p o im) s = .next (portRefused p (.vaultRestore p o im) s' 0x16))) ∧
  (∀ (p : Site) (o : LayP) (im : List StagedImage) (s s' : State) (f : BitVec 14) (c : BitVec 9) (ws : List Word),
    PortReady .vault p o (.vaultRestore p o im) s s' f c ws → restoreFormat ws = true → s'.mem.vaultEn = true →
    s'.vault.vctx = c → (s'.vault.busy = true ∨ ew ws 0 >>> 62 ≠ 3 ∧ ∃ j ∈ s'.vault.jobs, j.isSave = true) →
      exec (.vaultRestore p o im) s = .next (portRefused p (.vaultRestore p o im) s' 0x15)) ∧
  (∀ (p : Site) (o : LayP) (s s' : State) (f : BitVec 14) (c : BitVec 9) (ws : List Word),
    PortReady .vault p o (.vaultDrain p o) s s' f c ws → drainFormat ws = true → s'.mem.vaultEn = true →
    s'.vault.vctx = c →
    (∀ d, (ew ws 0).getLsbD 63 = false → s'.vault.drain = some d → Answers (.vaultDrain p o) s fun t =>
      t.vault.drain = none ∧ (∀ r ∈ t.fab.reqs, r.by' ≠ .drain) ∧
      t.host.inbox = s'.host.inbox ++ [⟨d.fence, d.value, true, .block⟩, ⟨f, regOf s p o.rv, false, .block⟩] ∧
      OnlySite p id s t ∧ Only [.cores, .host, .fab, .vault] s' t) ∧
    (∀ (key : BitVec 256) (x : VImage) (got : VGot) (s'' : State), (ew ws 0).getLsbD 63 = true → s'.drainMine ws = true →
      s'.vault.key s'.vault.txSlot = some key → s'.vault.drain = none → s'.vault.anyCommit = true →
      s'.vault.busy = false →
      s'.drainImage s'.vault.newest = (s'', x, got) → got.held = false → got.poison = false → s''.drainUp ws = true →
      s''.vault = s'.vault →
      let n := (got.bytes.length + 65535) / 65536
      Answers (.vaultDrain p o) s fun t =>
        t.vault = { s'.vault with
          drain := some ⟨f, regOf s p o.rv, s'.vault.newest, s'.vault.txSlot, ew ws 1, got.bytes.length⟩
          drainBytes := 0 } ∧
        t.fab.reqs.length = s''.fab.reqs.length + n ∧
        (∀ k : Nat, k < n → ∃ r, t.fab.reqs[s''.fab.reqs.length + k]? = some r ∧ r.by' = .drain ∧
          r.raddr = ew ws 1 + BitVec.ofNat 64 (65552 * k) ∧
          r.bytes = some (sealChunk key x.acc x.modidx k ((got.bytes.drop (65536 * k)).take 65536))) ∧
        OnlySite p id s t ∧ Only [.cores, .fab, .vault] s'' t) ∧
    (∀ key : BitVec 256, (ew ws 0).getLsbD 63 = true → s'.drainMine ws = true → s'.vault.key s'.vault.txSlot = some key →
      s'.vault.busy = true → exec (.vaultDrain p o) s = .next (portRefused p (.vaultDrain p o) s' 0x15))) ∧
  (∀ (m : RegMaster) (v : Word) (s : State), pathOpen s m →
    (v.getLsbD 63 = true → s.mem.vaultEn = false → ((v >>> 32).truncate 18 : BitVec 18).toNat % 2 = 0 →
      2 ≤ ((v >>> 32).truncate 18 : BitVec 18).toNat → ((v >>> 32).truncate 18 : BitVec 18).toNat ≤ 196608 →
      Answers (.vaultEnable m v) s fun t =>
        t.mem.vaultEn = true ∧ t.mem.vaultPages = (v >>> 32).truncate 18 ∧ t.vault.vctx = (v >>> 54).truncate 9 ∧
        (∀ g : Fin 2, t.vault.gens[g] = Gener.empty) ∧ t.vault.newest = false ∧ t.vault.since = s.glob.tick ∧
        (∀ l, l < memLines → memPages - t.mem.vaultPages.toNat ≤ linePage l →
          t.mem.sliceFind l = none ∧ t.mem.side1 l = LineMeta.fresh ∧ t.mem.dramLine l = zeroLine) ∧
        (∀ l, linePage l < memPages - t.mem.vaultPages.toNat →
          t.mem.sliceFind l = s.mem.sliceFind l ∧ t.mem.side1 l = s.mem.side1 l ∧ t.mem.dramLine l = s.mem.dramLine l) ∧
        Only [.mem, .vault] s t) ∧
    (v.getLsbD 63 = false → s.mem.vaultEn = true → Answers (.vaultEnable m v) s fun t =>
      t.mem = { s.mem with vaultEn := false } ∧ t.vault.jobs = [] ∧ t.vault.drain = none ∧ t.vault.gens = s.vault.gens ∧
      (∀ f w g i, s.vault.jobs = [.save f w g i] → s.vault.drain = none → signalled s t f w true) ∧
      Only [.mem, .host, .fab, .vault] s t) ∧
    (v.getLsbD 63 = true → s.mem.vaultEn = true → exec (.vaultEnable m v) s = .next s))

/-- R430, R436, R441, R442, R444-R447: a save completes with its pages copied, or fails with its generation; a commit
writes the shard and accession records, the page list, the signed manifest and last the commit record, makes its generation
the newest and signals its fence, and fails where a save failed or a line is poisoned; a drain completes when every chunk
is acknowledged; a restore places the chosen set, or writes nothing and fails with NOSET, or with LOCAL_FAULT where an entry
names a reserved format (the code is the model's choice, log entry 28); the timer trigger raises DUE. -/
def Obligations.VaultCompletes : Prop :=
  (∀ (s s' : State) (f : BitVec 14) (v : Word) (g : Fin 2) (i : Nat) (x : Shard) (rest : List VaultJob), FabOn s →
    s.glob.stackRun = true → s.vault.jobs = .save f v (g == 1) i :: rest → (s.vault.gens[g]).shards[i]? = some x →
    s'.vault = s.vault →
    (∀ ps, s.saveCopy (g == 1) x = (s', some ps) → Answers .vaultSaveComplete s fun t =>
      t.vault = { s.vault with
        gens := s.vault.gens.set g { (s.vault.gens[g]) with
          shards := (s.vault.gens[g]).shards.set i { x with pages := ps } }
        jobs := rest } ∧
      signalled s' t f v false ∧ Only [.host, .vault] s' t) ∧
    (s.saveCopy (g == 1) x = (s', none) → s.vault.err = 0 → i < 4096 → Answers .vaultSaveComplete s fun t =>
      t.vault = { s.vault with
        gens := s.vault.gens.set g { (s.vault.gens[g]) with broken := true }
        jobs := rest, err := vaultRec 1 0 i } ∧ signalled s' t f v true ∧ Only [.host, .vault] s' t)) ∧
  (∀ (s s' : State) (f : BitVec 14) (v : Word) (g : Fin 2) (ws : List Word) (rest : List VaultJob), FabOn s →
    s.glob.stackRun = true → s.vault.jobs = .commit f v (g == 1) ws :: rest →
    ((s.vault.gens[g]).broken = true → s.vault.err = 0 → Answers .vaultCommitComplete s fun t =>
      t.vault = { s.vault with jobs := rest, err := vaultRec 1 1 0 } ∧ signalled s t f v true ∧ Only [.host, .vault] s t) ∧
    (∀ ds, (s.vault.gens[g]).broken = false → s.digests (g == 1) = (s', ds, none) → s'.vault = s.vault →
      s'.reg.idReady = true →
      let x := s.vault.gens[g]
      let body := accRecord s' x ws ++ (List.zipWith shardRecord x.shards ds).flatten
      let manifest := body ++ slhSig body
      let pages := (x.shards.flatMap fun y => y.pages).flatMap fun p => leBytes 4 p
      Answers .vaultCommitComplete s fun t =>
        t.vault = { s.vault with
          gens := s.vault.gens.set g { x with committed := true, isOpen := false }
          newest := (g == 1), since := s'.glob.tick, fired := false, jobs := rest } ∧
        t.mem = (((((s'.vaultPut (g == 1) 0x1000 body).vaultPut (g == 1) 0x100000 pages).vaultPut (g == 1) 0x1000
          manifest)).vaultPut (g == 1) 0 (commitRecord (g == 1) x manifest)).mem ∧
        signalled s' t f v false ∧ Only [.mem, .host, .vault] s' t) ∧
    (∀ ds i, (s.vault.gens[g]).broken = false → s.digests (g == 1) = (s', ds, some (i, false)) → s'.vault = s.vault →
      s.vault.err = 0 → i < 4096 → Answers .vaultCommitComplete s fun t =>
        t.vault = { s.vault with jobs := rest, err := vaultRec 2 1 i } ∧ signalled s' t f v true ∧
        Only [.host, .vault] s' t)) ∧
  (∀ (s : State) (d : DrainJob), FabOn s → s.vault.drain = some d →
    let finished := s.fab.reqs.filter fun (r : Req) => r.by' == .drain && r.done == r.total
    finished.length = (d.size + 65535) / 65536 →
    Answers .drainComplete s fun t =>
      t.vault = { s.vault with
        drain := none
        drainBytes := BitVec.ofNat 64 (finished.map fun r =>
          Min.min 65536 (d.size - 65536 * ((r.raddr - d.base).toNat / 65552))).sum } ∧
      (∀ r, r ∈ t.fab.reqs ↔ r ∈ s.fab.reqs ∧ r.by' ≠ .drain) ∧ signalled s t d.fence d.value false ∧
      Only [.host, .fab, .vault] s t) ∧
  (∀ (s s1 s2 s3 : State) (f : BitVec 14) (v a : Word) (ws : List Word) (im : List StagedImage) (rest : List VaultJob)
    (es : List (List Word)) (keys : List (BitVec 256)) (cs : List Candidate) (c0 c : Choice), FabOn s →
    s.glob.stackRun = true → s.vault.jobs = .restore f v ws im a :: rest → s.readPlan ws = (s1, .ok (es, keys)) →
    (∀ e ∈ es, (shFmt e).isSome = true) → s1.candidates ws im = (s2, .ok (cs, c0)) → s2.choose keys es cs c0 = (s3, c) →
    (∀ (s4 : State) r, c.set = none →
      s3.blockWrite .vault s3.vault.vctx ((ew ws 5).toNat % 2 ^ 48) (wordBytes [0x4000000000000000, 0, 0,
        BitVec.ofNat 64 c.bad, BitVec.ofNat 64 (c.first.getD 0), 0, s3.glob.tick - a, 0]) = (s4, r) →
      s4.vault = s.vault → Answers .restoreComplete s fun t =>
        t.vault.jobs = rest ∧ t.vault.gens = s.vault.gens ∧ t.mem = s4.mem ∧ signalled s4 t f v true ∧
        Only [.host, .vault] s4 t) ∧
    (∀ x ls s4 s5 r, c.set = some (x, ls) → s3.placeSet ls es = (s4, true) →
      let src := match (x.images.head?).bind VImage.gen with
        | some g => if g then 1 else 0
        | none => 2
      let acc := ((x.images.head?).map VImage.acc).getD 0
      let n := (ls.filter fun y => es.any fun e => matches' y.modidx y.words e && !(coverRuns y e).isEmpty).length
      let bare := (es.map fun e => uncovered (ls.filter fun y => matches' y.modidx y.words e) e).sum
      s4.blockWrite .vault s4.vault.vctx ((ew ws 5).toNat % 2 ^ 48) (wordBytes [BitVec.ofNat 64 (src * 2 ^ 60), acc,
        BitVec.ofNat 64 n, BitVec.ofNat 64 c.bad, BitVec.ofNat 64 (c.first.getD 0), BitVec.ofNat 64 bare,
        s4.glob.tick - a, 0]) = (s5, r) → s5.vault = s.vault →
      Answers .restoreComplete s fun t =>
        t.vault = { s.vault with jobs := rest } ∧ signalled s5 t f v false ∧ Only [.host, .vault] s5 t)) ∧
  (∀ (s s1 s2 : State) (f : BitVec 14) (v a : Word) (ws : List Word) (im : List StagedImage) (rest : List VaultJob)
    (es : List (List Word)) (keys : List (BitVec 256)) (r : Except BlockErr Unit), FabOn s →
    s.glob.stackRun = true → s.vault.jobs = .restore f v ws im a :: rest → s.readPlan ws = (s1, .ok (es, keys)) →
    (∃ e ∈ es, shFmt e = none) → s.vault.err = 0 →
    s1.blockWrite .vault s1.vault.vctx ((ew ws 5).toNat % 2 ^ 48) (wordBytes [0xC000000000000000, 0, 0, 0, 0, 0,
      s1.glob.tick - a, 0]) = (s2, r) → s2.vault = s.vault →
    Answers .restoreComplete s fun t =>
      t.vault = { s.vault with jobs := rest, err := vaultRec 1 2 0 } ∧ signalled s2 t f v true ∧
      Only [.host, .vault] s2 t) ∧
  (∀ (s : State), FabOn s → s.mem.vaultEn = true → s.vault.fired = false → s.vault.period ≠ 0 →
    s.vault.period.toNat * 25000000 ≤ (s.glob.tick - s.vault.since).toNat →
    (s.vault.dueaddr = 0 → exec .vaultTimerDue s =
      .next (withVault s { s.vault with fired := true, due := true, dueCount := s.vault.dueCount + 1 })) ∧
    (∀ s' r, s.vault.dueaddr ≠ 0 →
      (withVault s { s.vault with fired := true, due := true, dueCount := s.vault.dueCount + 1 }).blockWrite .vault
        s.vault.vctx s.vault.dueaddr.toNat
        (leBytes 8 ((s.vault.dueCount + 1).toNat * 2 ^ 32 + 1)) = (s', r) → exec .vaultTimerDue s = .next s'))

/-! ### The registrar (R468-R500) -/

namespace Sys2Proof.Claims
open Sys2Proof.Machine

/-- The state with the mesh clock running for an access that came while it stood (R32). -/
def awake (s : State) : State := if s.glob.meshRun = true then s else meshWoken s

/-- The mailbox works and holds a request; its slot reads as ws, leaving s'; its fence is a LIVE one of context 0 (R474). -/
structure Boxed (s s' : State) (ws : List Word) : Prop where
  on : FabOn s
  en : s.reg.mbox.getLsbD 0 = true
  waits : s.reg.head ≠ s.reg.tail
  slot : ∃ bs, (awake s).mboxRead (64 * (s.reg.head.toNat % 64)) 64 = (s', bs) ∧ ws = leWords 8 bs
  fence : ∃ fe, Tbl.find? s.host.fences ((ew ws 0).toNat % 2 ^ 14) = some fe ∧ fLive fe = true ∧ fOwner fe = 0

/-- A request of a kind stands at the head; `bad` says whether its fields are refused (R475-R477). -/
structure AtHead (s s' : State) (kind : Nat) (bad : Bool) (ws : List Word) : Prop extends Boxed s s' ws where
  closed : s.reg.opened = none
  kind : (ew ws 0 >>> 56).toNat = kind
  bad : badRequest ws = bad

/-- The request at the head ends in state u: its output stands at OUTOFF, word 7 of its slot holds STATUS and OUTLEN, HEAD
advances and the fence is signalled (R474, R475). -/
def ended (u : State) (ws : List Word) (status : Nat) (out : List Byte) : State :=
  let base := u.reg.mbox.toNat / 2 ^ 21 % 2 ^ 27 * 0x200000
  let m := if out = [] then u.mem
    else u.mem.writeBytes .curator 0 (base + (ew ws 3).toNat % 2 ^ 21) out u.glob.tick
  { u with
    mem := m.writeBytes .curator 0 (base + (64 * (u.reg.head.toNat % 64) + 56))
      (wordBytes [BitVec.ofNat 64 (status * 2 ^ 56) ||| BitVec.ofNat 64 out.length]) u.glob.tick
    reg := { u.reg with head := u.reg.head + 1, opened := none }
    host := { u.host with inbox := u.host.inbox ++ [⟨(ew ws 0).truncate 14, ew ws 1, false, .block⟩] } }

/-- The request's context, on chip with an entry. -/
def ReqCtx (s : State) (ws : List Word) (c : BitVec 9) (ce : List Word) : Prop :=
  c = (ew ws 0 >>> 42).truncate 9 ∧ Tbl.find? s.host.ctxs c.toNat = some ce

/-- The registrar's state of a context. -/
def withSec (s : State) (c : BitVec 9) (x : CtxSec) : State :=
  { s with reg := { s.reg with ctxs := Tbl.set CtxSec.none s.reg.ctxs c.toNat x } }

/-- The state with session n holding t. -/
def withTenant (s : State) (n : Nat) (t : Tenant) : State :=
  { s with reg := { s.reg with tenants := Tbl.put s.reg.tenants n t } }

/-- The sealed reply of an operation: OP and RESULT under the next counter (R482, R483). -/
def reply (u : State) (n : Nat) (t : Tenant) (op result : Nat) : List Byte :=
  let k := u.tenantKey n t 1
  let nonce := List.replicate 4 0 ++ beBytes 8 t.tx
  let ct := gcmCrypt k nonce (wordBytes [BitVec.ofNat 64 (op * 2 ^ 56) ||| BitVec.ofNat 64 (result * 2 ^ 48), 0])
  ct ++ gcmTag k nonce [] ct

/-- An operation has ended in state u with a result: its reply is sealed and its request ends OK. -/
def replied (u : State) (ws : List Word) (n : Nat) (t : Tenant) (op result : Nat) : State :=
  ended (withTenant u n { t with tx := t.tx + 1 }) ws 0 (reply u n t op result)

/-- MSG has opened a message o of session n. -/
structure OpenedMsg (s s' : State) (ws : List Word) (n : Nat) (o : TenantMsg) (t : Tenant) : Prop
    extends Boxed s s' ws where
  msg : s.reg.opened = some (n, o)
  tenant : Tbl.find? s.reg.tenants n = some t

/-- The plaintext of a message: OP, ARG and KEY (R483). -/
def plainMsg (p : List Byte) : TenantMsg :=
  let w := BitVec.ofNat 64 (leNat (p.take 8))
  { op := (w >>> 56).truncate 8, arg := w.truncate 56, key := keyOf (p.drop 8) }

/-- An opened message takes its counter: it waits for its operation, and one of a reserved OP is answered with an open RESULT. -/
def took (u : State) (ws : List Word) (n : Nat) (t : Tenant) (o : TenantMsg) : State :=
  let v := withTenant u n { t with rx := t.rx + 1 }
  if 1 ≤ o.op.toNat ∧ o.op.toNat ≤ 5 then { v with reg := { v.reg with opened := some (n, o) } }
  else replied { v with glob := { v.glob with free := v.glob.free + 1 } } ws n { t with rx := t.rx + 1 } o.op.toNat
    ((Config.free32 (2 * v.glob.free + 1)).toNat % 7)

/-- The input of a request, n bytes: those beyond INLEN are zero, the choice of log entry 43. -/
def InputIs (s s' : State) (ws : List Word) (n : Nat) (bs : List Byte) : Prop :=
  ∃ xs, s.mboxRead ((ew ws 2).toNat % 2 ^ 21) (Min.min n ((ew ws 2 >>> 32).toNat % 2 ^ 21)) = (s', xs) ∧
    bs = (xs ++ List.replicate n 0).take n

/-- The operations of a message and their OP codes. -/
def msgOps : List (Instr × Nat) := [(.consent, 1), (.ownerkey, 2), (.nctkey, 3), (.sitekey, 4), (.ckptkey, 5)]

/-- A key operation that every owner class takes part in: OP, the target and slot, whether the target is the context's and
may take a key, the key there now, and the installation. -/
structure JointKey where
  cmd : Instr
  op : Nat
  target : Nat
  free : Prop
  now : Option (BitVec 256)
  install : State → State

/-- The joint key operations in a state, of context c with message o (R483, R484). -/
def jointKeys (s : State) (c : BitVec 9) (o : TenantMsg) : List JointKey :=
  let i : BitVec 10 := o.arg.truncate 10
  let hi := o.arg.getLsbD 10
  let lo := o.arg.getLsbD 0
  [⟨.nctkey, 3, 2 * i.toNat + hi.toNat, (s.sess i).ctx = c ∧ (s.sess i).txSlot ≠ hi, (s.sess i).key hi,
     fun u => u.modSess i fun x => if hi then { x with key1 := some o.key, sent1 := 0 }
       else { x with key0 := some o.key, sent0 := 0 }⟩,
   ⟨.sitekey, 4, lo.toNat, s.tr.ctx = c, (s.tr.slot lo).key,
     fun u => State.trFlush { u with tr := { u.tr.setSlot lo { key := some o.key, probes := 0, steps := [], spent := [] } with
       probes := u.tr.probes.filter fun x => x.1 != lo } }⟩,
   ⟨.ckptkey, 5, lo.toNat, s.vault.vctx = c, s.vault.key lo,
     fun u => { u with vault := if lo then { u.vault with key1 := some o.key, txSlot := true }
       else { u.vault with key0 := some o.key, txSlot := false } }⟩]

end Sys2Proof.Claims

/-- R32, R469, R474-R482: a tail write within 64 slots moves TAIL, another sets MBOX_OVF; a request of a reserved kind or
with bad fields ends with KIND; CERT, KEMKEY and REPORT end with their bytes, or with IDENTITY, CONTEXT or SPACE; OPEN, on the
bytes of its input, binds the class's key and opens the lowest free session with the decapsulated secret where the signature
over class, key, context and KEMDIGEST holds, or ends with CONTEXT, ORDER, TRANSITIONAL, AUTH or FULL; MSG opens its 80 bytes
under the next counter or ends with AUTH; CLOSE ends the session; both end with CONTEXT where the context is not LIVE.
Where the rules leave a point open it rests on the choices of log entries 5, 29 and 43. -/
def Obligations.MailboxRequests : Prop :=
  (∀ (m : RegMaster) (t : BitVec 32) (s : State), pathOpen s m →
    ((t - s.reg.head).toNat ≤ 64 → exec (.mboxTailWrite m t) s = .next { s with reg := { s.reg with tail := t } }) ∧
    (64 < (t - s.reg.head).toNat → exec (.mboxTailWrite m t) s = .next { s with reg := { s.reg with mboxOvf := true } })) ∧
  (∀ (s s' : State) (ws : List Word),
    (∀ e ∈ ([(.cert, 1), (.kemkey, 2), (.report, 3), (.openSess, 4), (.msg, 5), (.close, 6), (.measure, 7),
        (.finalize, 8)] : List (Instr × Nat)),
      AtHead s s' e.2 true ws → exec e.1 s = .next (ended s' ws 1 [])) ∧
    (Boxed s s' ws → s.reg.opened = none → (ew ws 0 >>> 56 = 0 ∨ 8 < (ew ws 0 >>> 56).toNat) →
      exec .cert s = .next (ended s' ws 1 []))) ∧
  (∀ (s s' : State) (ws : List Word), AtHead s s' 1 false ws →
    (s.reg.idReady = true → s.reg.cert.length ≤ outSpace ws →
      exec .cert s = .next (ended s' ws 0 s.reg.cert)) ∧
    (s.reg.idReady = true → outSpace ws < s.reg.cert.length → exec .cert s = .next (ended s' ws 8 [])) ∧
    (s.reg.idReady = false → exec .cert s = .next (ended s' ws 9 []))) ∧
  (∀ (s s' : State) (ws : List Word), AtHead s s' 2 false ws →
    let ek := (kemPair (Config.kemD s.reg.kemGen) (Config.kemZ s.reg.kemGen)).ek
    exec .kemkey s = .next (if outSpace ws < ek.length then ended s' ws 8 [] else ended s' ws 0 ek)) ∧
  (∀ (s s' s'' : State) (ws : List Word) (c : BitVec 9) (ce : List Word) (nonce : List Byte), AtHead s s' 3 false ws →
    ReqCtx s ws c ce → InputIs s' s'' ws 32 nonce →
    ((c = 0 ∨ ctxState ce = 1) → s.reg.idReady = true →
      let body := s''.reportBody nonce (if c = 0 then none else some c)
      let out := body ++ slhSig body
      exec .report s = .next (if outSpace ws < out.length then ended s'' ws 8 [] else ended s'' ws 0 out)) ∧
    ((c = 0 ∨ ctxState ce = 1) → s.reg.idReady = false → exec .report s = .next (ended s'' ws 9 [])) ∧
    (c ≠ 0 → ctxState ce ≠ 1 → exec .report s = .next (ended s'' ws 2 []))) ∧
  (∀ (s s' s'' : State) (ws : List Word) (c : BitVec 9) (ce : List Word) (bs : List Byte) (n : Nat),
    AtHead s s' 4 false ws → ReqCtx s ws c ce → InputIs s' s'' ws 18216 bs →
    let x := s.sec c
    let cls := leNat ((bs.drop 1088).take 8)
    let tpk := keyOf (bs.drop 1096)
    let kem := kemPair (Config.kemD s.reg.kemGen) (Config.kemZ s.reg.kemGen)
    let signed := slhVerify slh128f tpk (bs.take 1128 ++ leBytes 2 c.toNat ++ keyBytes (sha256 kem.ek)) (bs.drop 1128)
    (1 ≤ cls → cls ≤ 15 → c ≠ 0 → ctxState ce = 1 → s.reg.staged = false → s.reg.trial = false →
      (byClass x.bound cls = some tpk ∨ (byClass x.bound cls = none ∧ x.final = false)) → n < 1024 →
      Tbl.find? s.reg.tenants n = none → (∀ k < n, (Tbl.find? s.reg.tenants k).isSome = true) →
      let t : Tenant := ⟨c, cls, keyOf (kem.decaps (bs.take 1088)), 0, 1⟩
      let out := leBytes 8 n ++ gcmTag (s.tenantKey n t 1) (List.replicate 12 0) [] []
      exec .openSess s = .next (
        if signed = false then ended s'' ws 5 []
        else if outSpace ws < out.length then ended s'' ws 8 []
        else ended (withTenant (withSec s'' c { x with
          bound := (cls, tpk) :: x.bound.filter fun e => e.1 ≠ cls }) n t) ws 0 out)) ∧
    ((cls = 0 ∨ 15 < cls) → exec .openSess s = .next (ended s'' ws 1 [])) ∧
    (1 ≤ cls → cls ≤ 15 →
      ((c = 0 ∨ ctxState ce ≠ 1) → exec .openSess s = .next (ended s'' ws 2 [])) ∧
      (c ≠ 0 → ctxState ce = 1 →
        (x.final = true → byClass x.bound cls = none → exec .openSess s = .next (ended s'' ws 3 [])) ∧
        (x.final = false → (s.reg.staged = true ∨ s.reg.trial = true) →
          exec .openSess s = .next (ended s'' ws 4 [])) ∧
        (∀ k, s.reg.staged = false → s.reg.trial = false → byClass x.bound cls = some k → k ≠ tpk →
          exec .openSess s = .next (ended s'' ws (if signed = true then 6 else 5) []))))) ∧
  (∀ (s s' s'' : State) (ws : List Word) (c : BitVec 9) (ce : List Word) (bs : List Byte), AtHead s s' 5 false ws →
    ReqCtx s ws c ce → InputIs s' s'' ws 80 bs →
    let n := (ew ws 4).toNat % 2 ^ 10
    (∀ t, c ≠ 0 → ctxState ce = 1 → Tbl.find? s.reg.tenants n = some t → t.ctx = c →
      exec .msg s = .next (
        match gcmOpen (s.tenantKey n t 0) (List.replicate 4 0 ++ beBytes 8 t.rx) [] (bs.take 64) (bs.drop 64) with
        | none => ended s'' ws 5 []
        | some p => if outSpace ws < 32 then ended s'' ws 8 [] else took s'' ws n t (plainMsg p))) ∧
    ((c = 0 ∨ ctxState ce ≠ 1 ∨ Tbl.find? s.reg.tenants n = none) → exec .msg s = .next (ended s'' ws 2 []))) ∧
  (∀ (s s' : State) (ws : List Word) (c : BitVec 9) (ce : List Word), AtHead s s' 6 false ws → ReqCtx s ws c ce →
    let n := (ew ws 4).toNat % 2 ^ 10
    (∀ t, c ≠ 0 → ctxState ce = 1 → Tbl.find? s.reg.tenants n = some t → t.ctx = c →
      exec .close s = .next (ended { s' with reg := { s'.reg with tenants := Tbl.erase s'.reg.tenants n } } ws 0 [])) ∧
    ((c = 0 ∨ ctxState ce ≠ 1 ∨ Tbl.find? s.reg.tenants n = none) → exec .close s = .next (ended s' ws 2 [])))

/-- R470-R473, R483-R485, R495, R497: an operation of a message of a context that is not FINAL answers NOTFINAL, a key
operation in a transitional state TRANSITIONAL; CONSENT and OWNERKEY replace their class's; a joint key is installed once
every owner class has sent it, and answers DONE where it stands, PENDING while a class is missing, MISMATCH where another key
waits, NOTBOUND or BUSY otherwise; MEASURE extends CPV and counts the pages measured; FINALIZE fixes the owners, or ends with
RANGE where an executable leaf is not measured, a writable leaf maps a measured page, or no class is bound; `reg.extend` extends PR2 to PR15; CONFIRM blows the fuses and
makes the trial image the active one.
Where the rules leave a point open it rests on the choices of log entries 5, 29 and 43. -/
def Obligations.TenantOperations : Prop :=
  (∀ (s s' : State) (ws : List Word) (n : Nat) (o : TenantMsg) (t : Tenant), OpenedMsg s s' ws n o t →
    (∀ e ∈ msgOps, o.op.toNat = e.2 → (s.sec t.ctx).final = false → exec e.1 s = .next (replied s' ws n t e.2 3)) ∧
    (∀ e ∈ msgOps, 2 ≤ e.2 → o.op.toNat = e.2 → (s.sec t.ctx).final = true →
      (s.reg.staged = true ∨ s.reg.trial = true) → exec e.1 s = .next (replied s' ws n t e.2 6)) ∧
    ((s.sec t.ctx).final = true →
      let x := s.sec t.ctx
      (∀ ce, o.op = 1 → Tbl.find? s.host.ctxs t.ctx.toNat = some ce →
        let y : CtxSec := { x with consent := (t.cls, o.arg.truncate 3) :: x.consent.filter fun e => e.1 ≠ t.cls }
        exec .consent s = .next (replied { withSec s' t.ctx y with host := { s'.host with
          ctxs := Tbl.put s'.host.ctxs t.ctx.toNat (ce.set 6 (putFld (ew ce 6) 2 3 (consentOf t.ctx y).toNat)) } } ws n t 1 0)) ∧
      (s.reg.staged = false → s.reg.trial = false →
        (o.op = 2 → exec .ownerkey s = .next (replied (withSec s' t.ctx { x with
          ownerKeys := (t.cls, o.key) :: x.ownerKeys.filter fun e => e.1 ≠ t.cls }) ws n t 2 0)) ∧
        (∀ e ∈ jointKeys s t.ctx o, o.op.toNat = e.op → e.free →
          (e.now = some o.key → exec e.cmd s = .next (replied s' ws n t e.op 0)) ∧
          (e.now ≠ some o.key →
            let waiting := x.pend.filter fun y => y.1 = e.op ∧ y.2.1 = e.target
            let rest := x.pend.filter fun y => ¬(y.1 = e.op ∧ y.2.1 = e.target)
            ((∃ y ∈ waiting, y.2.2.2 ≠ o.key) →
              exec e.cmd s = .next (replied (withSec s' t.ctx { x with pend := rest }) ws n t e.op 2)) ∧
            ((∀ y ∈ waiting, y.2.2.2 = o.key) →
              ((∀ k ∈ x.owners, k = t.cls ∨ ∃ y ∈ waiting, y.2.2.1 = k) →
                exec e.cmd s = .next (replied (e.install (withSec s' t.ctx { x with pend := rest })) ws n t e.op 0)) ∧
              (∀ k ∈ x.owners, k ≠ t.cls → (∀ y ∈ waiting, y.2.2.1 ≠ k) →
                exec e.cmd s = .next (replied (withSec s' t.ctx { x with
                  pend := (e.op, e.target, t.cls, o.key) :: waiting.filter (fun y => y.2.2.1 ≠ t.cls) ++ rest })
                  ws n t e.op 1))))) ∧
        (o.op = 3 → (s.sess (o.arg.truncate 10)).ctx ≠ t.ctx → exec .nctkey s = .next (replied s' ws n t 3 5)) ∧
        (o.op = 3 → (s.sess (o.arg.truncate 10)).ctx = t.ctx → (s.sess (o.arg.truncate 10)).txSlot = o.arg.getLsbD 10 →
          exec .nctkey s = .next (replied s' ws n t 3 4)) ∧
        (o.op = 4 → s.tr.ctx ≠ t.ctx → exec .sitekey s = .next (replied s' ws n t 4 5)) ∧
        (o.op = 5 → s.vault.vctx ≠ t.ctx → exec .ckptkey s = .next (replied s' ws n t 5 5))))) ∧
  (∀ (s s' : State) (ws : List Word) (c : BitVec 9) (ce : List Word), AtHead s s' 7 false ws → ReqCtx s ws c ce → c ≠ 0 →
    ctxState ce = 1 →
    let dva := (ew ws 5).toNat % 2 ^ 48
    let len := (ew ws 6).toNat % 2 ^ 48
    ((s.sec c).final = true → exec .measure s = .next (ended s' ws 3 [])) ∧
    (∀ u, (s.sec c).final = false → s'.measuredPages c dva len = (u, none) → u.host.fences = s.host.fences →
      exec .measure s = .next (ended u ws 7 [])) ∧
    (∀ u v ps, (s.sec c).final = false → s'.measuredPages c dva len = (u, some ps) → u.measuredBytes ps = (v, none) →
      v.host.fences = s.host.fences → exec .measure s = .next (ended v ws 7 [])) ∧
    (∀ u v ps bs, (s.sec c).final = false → s'.measuredPages c dva len = (u, some ps) →
      u.measuredBytes ps = (v, some bs) → v.reg = s.reg → Answers .measure s fun t =>
        t.reg.head = s.reg.head + 1 ∧
        (t.sec c).cpv = sha256 (keyBytes (s.sec c).cpv ++ leBytes 8 dva ++ leBytes 8 len ++
          keyBytes (sha256 bs)) ∧
        (t.sec c).mcount = (s.sec c).mcount + 1 ∧
        (t.sec c).pages = (s.sec c).pages ++ (ps.map fun p => p.2.2.page.toNat).eraseDups ∧
        t.mem.measured = (ps.map fun p => p.2.2.page.toNat).eraseDups.foldl
          (fun m n => Tbl.modify 0 m n (fun k => k + 1)) v.mem.measured ∧
        signalled v t ((ew ws 0).truncate 14) (ew ws 1) false ∧ Only [.mem, .host, .reg] v t)) ∧
  (∀ (s s' u : State) (ws : List Word) (c : BitVec 9) (ce : List Word) (ls : List Leaf), AtHead s s' 8 false ws →
    ReqCtx s ws c ce → c ≠ 0 → ctxState ce = 1 → (s.sec c).final = false → s'.allLeaves c = (u, ls) → u.reg = s.reg →
    u.host.fences = s.host.fences →
    let x := s.sec c
    (x.bound ≠ [] → (∀ f ∈ ls, (f.x = true → f.page.toNat ∈ x.pages) ∧
        (f.w = true → Tbl.get 0 u.mem.measured f.page.toNat = 0)) →
      exec .finalize s = .next (ended (withSec u c { x with final := true, owners := x.bound.map Prod.fst }) ws 0 [])) ∧
    (∀ f ∈ ls, f.x = true → f.page.toNat ∉ x.pages → exec .finalize s = .next (ended u ws 7 [])) ∧
    (∀ f ∈ ls, f.w = true → 0 < Tbl.get 0 u.mem.measured f.page.toNat → exec .finalize s = .next (ended u ws 7 [])) ∧
    (x.bound = [] → exec .finalize s = .next (ended u ws 7 []))) ∧
  (∀ (v : Word) (s : State), pathOpen s .curator → v.getLsbD 4 = true →
    (∀ i : Fin 16, 2 ≤ i.val → v.toNat % 16 = i.val → exec (.prExtend .curator v) s = .next { s with reg := { s.reg with
      prov := s.reg.prov.set i (sha256 (keyBytes s.reg.prov[i] ++
        keyBytes (keyOf (wordBytes s.reg.extdig.toList)))) } }) ∧
    (v.toNat % 16 < 2 → exec (.prExtend .curator v) s = .next s)) ∧
  (∀ (s : State), pathOpen s .curator → s.reg.trial = true → Answers (.fwConfirm .curator) s fun t =>
    t.reg = { s.reg with
      fusesvn := Max.max s.reg.fusesvn s.reg.asvn.toNat, trial := false, staged := false, ssvn := 0
      stagedig := Vector.replicate 4 0 } ∧
    t.alm.active = (!s.alm.active) ∧ t.alm.trial = false ∧ t.alm.staged = false ∧ t.alm.bseq = s.alm.bseq + 1 ∧
    t.alm.imgA = s.alm.imgA ∧ t.alm.imgB = s.alm.imgB ∧ Only [.reg, .alm] s t) ∧
  (∀ (v : Bool) (s : State), pathOpen s .curator → Answers (.fwStageSet .curator v) s fun t =>
    t.reg.staged = v ∧ t.alm.staged = v ∧ t.alm.active = s.alm.active ∧ t.reg.fusesvn = s.reg.fusesvn ∧
    t.reg.prov = s.reg.prov ∧ Only [.reg, .alm] s t)

/-! ### The curator, resets and start-up (R494, R498, R501-R522, R526, R542) -/

namespace Sys2Proof.Claims
open Sys2Proof.Machine

/-- The curator's register path is open. -/
def curatorUp (s : State) : Prop := s.sup.power = .running ∧ s.cur.restarting = false

/-- Everything outside the almanac, the fuses and what holds no architectural state is as State.reset has it (R519). -/
def restarted (s t : State) (cause : BitVec 4) (power : PowerMode) : Prop :=
  t.cores = State.reset.cores ∧ t.host = State.reset.host ∧ t.fab = State.reset.fab ∧ t.tr = State.reset.tr ∧
  t.vault = State.reset.vault ∧ t.reg.resetgen = 0 ∧ t.reg.fusesvn = s.reg.fusesvn ∧ t.reg.prov = State.reset.reg.prov ∧
  t.reg.tenants = [] ∧ t.reg.ctxs = [] ∧ t.mem.slice = [] ∧ t.mem.keyValid = false ∧ t.mem.haltStage = 0 ∧
  t.mem.lock = false ∧ t.cur.cause = cause ∧ t.cur.fwrun = false ∧ t.cur.wdogExp = false ∧ t.sup.power = power ∧
  t.glob.ready = false ∧ t.glob.tick = 0 ∧ t.alm.logbook = s.alm.logbook ∧ t.alm.repair = s.alm.repair ∧
  t.alm.settings = s.alm.settings ∧ t.alm.imgA = s.alm.imgA ∧ t.alm.imgB = s.alm.imgB

/-- Memory once step 8 has locked the windows and written the translations and the entries of context 0, its first queue and
queue pair 0, whose CONTEXT is 0 (R333, R369). -/
def objectsWritten (s : State) (cb qb pb : Word) (q : BitVec 13) (c e w : List Word) (ls : List (Nat × Word)) : Mem :=
  let put (m : Mem) (a : Nat) (ws : List Word) : Mem := m.writeBytes .curator 0 a (wordBytes ws) s.glob.tick
  let m := ls.foldl (fun m l => put m l.1 [l.2]) { s.mem with lock := true }
  put (put (put m (entryDpa cb 32 0) c) (entryDpa qb 16 q.toNat) e) (entryDpa pb 16 0)
    (w.set 0 (w.headD 0 &&& 0x803FFFFFFFFFFFFF))

/-- Start-up stops: PHASE 0xF, and MOD_FAULT_N driven low (R517). -/
def stopped (t : State) : Prop := t.cur.phase = 0xF ∧ t.sup.faultLow = true ∧ t.glob.released = false ∧ t.cur.fwrun = false

end Sys2Proof.Claims

/-- R33, R498, R502-R504, R519-R522, R526, R532, R542: deep idle is entered where no context but 0
lives and every core is GATED or RETIRED, DEEPIDLE reading as written in any case, and left with
the clocks running again; a core reset takes a QUARANTINED core alone, RESETGEN advancing; a
chip reset, which the running firmware performs, keeps provenance, almanac and the tick; a
module reset, a second restart within WINDOW, MOD_RESET_N and the input's return restart
everything but the almanac and the fuses, each with its CAUSE; an expired watchdog restarts the
curator. Where the rules leave a point open it rests on the choices of log entries 30 and 45. -/
def Obligations.Resets : Prop :=
  (∀ (s : State), curatorUp s → s.mem.haltStage < 2 →
    (∀ (s' : State) (l : List Nat), s.glob.released = true → s.cur.deepIdle = false →
      ({ s with cur := { s.cur with idleReq := true } } : State).ctxScan = (s', l) → 1 ∉ l → 2 ∉ l →
      (∀ c : Fin 96, (s.cores[c]).mode = .gated ∨ (s.cores[c]).mode = .retired) → Answers .deepIdleEnter s fun t =>
        t.cur = { s'.cur with deepIdle := true } ∧
        t.glob = { s'.glob with ready := false, meshRun := false, serviceRun := false, stackRun := false } ∧
        (∀ k : Fin 16, t.mem.stk[k] = { (s'.mem.stk[k]) with selfRefresh := true }) ∧
        (∀ n, pathIs t n = .down) ∧ t.fab.heldTx = [] ∧ Only [.cur, .glob, .mem, .fab] s' t) ∧
    (∀ c : Fin 96, (s.cores[c]).mode = .active ∨ (s.cores[c]).mode = .quarantined → exec .deepIdleEnter s =
      .next { s with cur := { s.cur with idleReq := true } }) ∧
    (s.cur.deepIdle = false → exec .deepIdleLeave s = .next { s with cur := { s.cur with idleReq := false } }) ∧
    (s.cur.deepIdle = true → s.mem.halted = false → Answers .deepIdleLeave s fun t =>
      t.cur = { s.cur with deepIdle := false, idleReq := false, linkSince := s.glob.tick } ∧
      t.glob = { s.glob with meshRun := true, meshIdle := 0, serviceRun := true, stackRun := true } ∧
      (∀ k : Fin 16, t.mem.stk[k] = { (s.mem.stk[k]) with selfRefresh := false }) ∧ Only [.cur, .glob, .mem] s t)) ∧
  (∀ (c : Fin 96) (s : State), pathOpen s .curator → s.mem.haltStage < 2 →
    ((s.cores[c]).mode = .quarantined → s.reg.resetgen + 1 ≠ s.alm.resv → Answers (.coreReset .curator (num7 c)) s fun t =>
      t.cores[c] = Core.reset c ∧ OnlyCore c s t ∧ t.reg = { s.reg with resetgen := s.reg.resetgen + 1 } ∧
      ((s.cores[c]).ctx = none → t.mem = s.mem) ∧ Only [.cores, .mem, .host, .reg] s t) ∧
    ((s.cores[c]).mode ≠ .quarantined → exec (.coreReset .curator (num7 c)) s = .next (rejected s))) ∧
  (∀ (s : State), pathOpen s .curator → s.cur.fwrun = false → exec (.chipReset .curator) s = .next s) ∧
  (∀ (s : State), pathOpen s .curator → s.cur.fwrun = true → s.reg.resetgen + 1 ≠ s.alm.resv →
    Answers (.chipReset .curator) s fun t =>
    t.cores = State.reset.cores ∧ t.vault = State.reset.vault ∧ t.tr = State.reset.tr ∧ t.fab = State.reset.fab ∧
    t.reg.prov = s.reg.prov ∧ t.reg.resetgen = s.reg.resetgen + 1 ∧ t.reg.actdig = s.reg.actdig ∧
    t.reg.fusesvn = s.reg.fusesvn ∧ t.reg.tenants = [] ∧ t.reg.ctxs = [] ∧ t.mem.slice = [] ∧ t.mem.keyValid = false ∧
    t.mem.haltStage = 0 ∧ t.cur.phase = 5 ∧ t.cur.chipStart = true ∧ t.cur.cause = s.cur.cause ∧ t.glob.ready = false ∧
    t.glob.released = false ∧ t.glob.tick = s.glob.tick ∧ Only [.cores, .mem, .host, .fab, .tr, .vault, .reg, .cur, .glob] s t) ∧
  (∀ (s : State), pathOpen s .curator → Answers (.moduleReset .curator) s fun t =>
    restarted s t 4 .running ∧ t.cur.phase = 2) ∧
  (∀ (s : State), s.sup.resetN = true →
    (s.sup.power = .running → Answers .modResetNAssert s fun t => restarted s t 1 .held ∧ t.sup.resetN = false) ∧
    (s.sup.power = .ramping → exec .modResetNAssert s = .next { s with sup := { s.sup with resetN := false } })) ∧
  (∀ (s : State), s.sup.resetN = false →
    (s.sup.power = .held → Answers .modResetNRelease s fun t =>
      restarted s t 1 .running ∧ t.sup.resetN = true ∧ t.cur.phase = 2) ∧
    (s.sup.power = .ramping → Answers .modResetNRelease s fun t =>
      restarted s t 1 .ramping ∧ t.sup.resetN = true ∧ t.sup.supRst = false ∧ t.sup.supplyWarn = false ∧
      t.sup.warnings = [])) ∧
  (∀ (s : State),
    (s.sup.power = .off → Answers .inputValid s fun t => restarted s t 0 .ramping ∧ t.sup.belowRel = false) ∧
    (s.sup.power = .supplyReset → Answers .inputValid s fun t => restarted s t 2 .ramping ∧ t.sup.supRst = true) ∧
    (s.sup.power ≠ .off → exec .inputInvalid s = .next { s with
      mem := { s.mem with keyValid := false }, sup := { s.sup with power := .off, valid := false } })) ∧
  (∀ (m : RegMaster) (s : State), pathOpen s m → (m = .curator →
    exec (.watchdogKick m) s = .next { s with cur := { s.cur with lastKick := s.glob.tick } })) ∧
  (∀ (b : Bool) (s : State), curatorUp s → s.cur.fwrun = true →
    (b = true ∨ s.cur.timeout.toNat ≤ (s.glob.tick - s.cur.lastKick).toNat) →
    (s.cur.lastRestart = none → exec (.watchdogExpire b) s = .next { s with cur := { s.cur with
      wdogExp := true, restarts := (if s.cur.restarts = 255 then 255 else s.cur.restarts + 1)
      lastRestart := some s.glob.tick, restarting := true, fwrun := false, sessions := Vector.replicate 4 .closed, fwParts := [] } }) ∧
    (∀ u, s.cur.lastRestart = some u → (s.glob.tick - u).toNat ≤ s.cur.window.toNat →
      Answers (.watchdogExpire b) s fun t => restarted s t 3 .running)) ∧
  (∀ (s : State), s.sup.power = .running → s.cur.restarting = true →
    (s.cur.latched = [] → exec .curatorRestartDone s = .next { s with cur := { s.cur with
      restarting := false, fwrun := true, lastKick := s.glob.tick, lastScan := s.glob.tick, latched := [] } }) ∧
    (∀ ms, s.cur.latched = [ms] → ms < 2000 → exec .curatorRestartDone s = .next { s with
      cur := { s.cur with
        restarting := false, fwrun := true, lastKick := s.glob.tick, lastScan := s.glob.tick, latched := [] }
      sup := { s.sup with ident := !s.sup.ident } }))

/-- R39, R297, R311, R333, R369, R470, R479, R494, R505, R507, R516-R519: the ramp's end starts the boot ROM, or holds the module
while MOD_RESET_N is low; the boot ROM takes the boot state of the good record with the highest BSEQ, starts the staged image
once as a trial where it is bootable, else the active image, a trial that was not confirmed being discarded, extends PR0 and
PR1 and takes RESETGEN from the reservation, or stops; a stack that does not train stops start-up; good tests give a new key
and the fill, bad ones stop start-up with cause 3; after the fill step 8 sets the host objects up, context 0 with its first
queue and queue pair 0, and the cores are released; READY is set once every enabled port has its link.
Where the rules leave a point open it rests on the choices of log entries 7, 30, 43 and 49. -/
def Obligations.StartUp : Prop :=
  (∀ (s : State), s.sup.power = .ramping →
    (s.sup.resetN = true → exec .hotswapRampDone s = .next { s with
      sup := { s.sup with power := .running }
      cur := { s.cur with phase := 2, phaseTick := s.cur.phaseTick.set 1 s.glob.tick } }) ∧
    (s.sup.resetN = false → exec .hotswapRampDone s = .next { s with sup := { s.sup with power := .held } })) ∧
  (∀ (s : State), s.sup.power = .running → s.cur.phase = 2 → s.alm.usable = true →
    s.cur.fwrun = false → s.glob.released = false →
    let a := s.alm.read
    let trial : Bool := a.staged && !a.trial && bootable s.reg.fusesvn a.otherImg
    let img := if trial then a.otherImg else a.activeImg
    Answers .bootImageSelect s fun t =>
      (bootable s.reg.fusesvn img = true →
        t.cur.phase = 5 ∧ t.cur.fwrun = true ∧ t.cur.lastKick = s.glob.tick ∧ t.reg.trial = trial ∧
        t.reg.staged = (a.staged && !a.trial) ∧ t.reg.actdig = digestWords (imgDigest img) ∧ t.reg.asvn = imgSvn img ∧
        t.reg.prov[0] = sha256 (keyBytes s.reg.prov[0] ++ keyBytes Config.bootRomDigest) ∧
        t.reg.prov[1] = sha256 (keyBytes s.reg.prov[1] ++ keyBytes (imgDigest img)) ∧
        t.alm.trial = trial ∧ t.alm.staged = (a.staged && !a.trial) ∧
        t.sup.railsGood = true ∧ t.glob.stackRun = true) ∧
      (bootable s.reg.fusesvn img = false → stopped t) ∧
      t.reg.resetgen = a.resv ∧ t.alm.resv = a.resv + 256 ∧ t.alm.active = a.active ∧
      t.alm.imgA = s.alm.imgA ∧ t.alm.imgB = s.alm.imgB ∧ t.glob.tick = s.glob.tick ∧
      Only [.reg, .cur, .alm, .sup, .glob] s t) ∧
  (∀ (a : Almanac),
    (∀ x ∈ a.ring, x.2.good = true → (∀ y ∈ a.ring, y.2.good = true → y ≠ x → y.2.bseq.toNat < x.2.bseq.toNat) →
      a.read.active = x.2.active ∧ a.read.staged = x.2.staged ∧ a.read.trial = x.2.trial ∧ a.read.resv = x.2.resv ∧
      a.read.bseq = x.2.bseq) ∧
    ((∀ x ∈ a.ring, x.2.good = false) →
      a.read.active = false ∧ a.read.staged = false ∧ a.read.trial = false ∧ a.read.resv = 0)) ∧
  (∀ (s : State), s.sup.power = .running → s.cur.phase = 2 → s.alm.usable = false → s.cur.fwrun = false →
    s.glob.released = false → Answers .bootImageSelect s fun t =>
      stopped t ∧ t.cur.almBad = true ∧ t.alm = s.alm ∧ Only [.cur, .sup] s t) ∧
  (∀ (w : BitVec 16) (a b : Bool) (s : State), s.sup.power = .running → s.cur.phase = 5 → s.cur.fwrun = true →
    w ≠ BitVec.allOnes 16 → Answers (.stackTrainingDone w a b) s fun t =>
      t.cur.phase = 0xF ∧ t.sup.faultLow = true ∧ t.mem.keyValid = s.mem.keyValid ∧
      (∀ k : Fin 16, (t.mem.stk[k]).trained = ((s.mem.stk[k]).trained || w.getLsbD k.val)) ∧
      Only [.cur, .mem, .sup, .alm] s t) ∧
  (∀ (w : BitVec 16) (a b : Bool) (s : State), s.sup.power = .running → s.cur.phase = 5 → s.cur.fwrun = true →
    s.alm.repair = [] → w = BitVec.allOnes 16 →
    (a = true → b = true → Answers (.stackTrainingDone w a b) s fun t =>
      t.cur.phase = 7 ∧ t.mem.keyValid = true ∧ t.mem.keyGen = s.mem.keyGen + 1 ∧
      (∀ k : Fin 16, t.mem.stk[k] = { (s.mem.stk[k]) with trained := true, filling := true }) ∧
      t.mem.dram = s.mem.dram ∧ t.mem.side = s.mem.side ∧ Only [.cur, .mem] s t) ∧
    ((a = false ∨ b = false) → Answers (.stackTrainingDone w a b) s fun t =>
      t.cur.phase = 0xF ∧ t.sup.faultLow = true ∧ t.mem.haltCause = 3 ∧ t.mem.katOk = a ∧
      t.mem.keyValid = s.mem.keyValid ∧ Only [.cur, .mem, .sup, .alm] s t)) ∧
  (∀ (s : State), s.sup.power = .running → s.mem.haltStage < 2 → s.cur.phase = 7 → s.cur.fwrun = true →
    (∀ k : Fin 16, (s.mem.stk[k]).filling = false) →
    (s.cur.inForce = [] → Answers .coresRelease s fun t =>
      t.cur.phase = 9 ∧ t.cur.linkSince = s.glob.tick ∧ t.glob = { s.glob with released := true } ∧
      t.mem.lock = true ∧ t.host = { s.host with lock := true } ∧ t.reg.kemGen = s.reg.kemGen + 1 ∧
      t.reg.kemReady = true ∧ t.reg.idReady = false ∧ Only [.cur, .glob, .mem, .host, .reg] s t) ∧
    (∀ r w0 w1 w2 w3 mb, s.cur.inForce = [r] → r.body = .curwin w0 w1 w2 w3 mb → Answers .coresRelease s fun t =>
      t.glob.released = true ∧ t.mem.lock = true ∧
      (s.mem.lock = false → t.mem.curwin = (#v[w0, w1, w2, w3]).map (fun w => w &&& curwinMask)) ∧
      (s.mem.lock = true → t.mem.curwin = s.mem.curwin ∧ t.glob.dpaHole = true) ∧ t.reg.mbox.getLsbD 0 = true ∧
      (s.cur.chipStart = false → t.reg.prov[5] = sha256 (keyBytes s.reg.prov[5] ++
        keyBytes (sha256 (wordBytes (t.mem.curwin.toList ++ [t.reg.mbox, 0, 0, 0]))))) ∧
      (s.cur.chipStart = true → t.reg.prov = s.reg.prov) ∧ Only [.cur, .glob, .mem, .host, .reg] s t) ∧
    (∀ (r : SettingRec) (cb qb fb : Word) (c : List Word) (q : BitVec 13) (e : List Word) (ls : List (Nat × Word))
      (pb : Word) (w : List Word) (f : BitVec 14) (v : State) (x : List Word), s.cur.inForce = [r] →
      r.body = .hostobj cb qb fb c q e ls pb w f →
      let c' := (takeWords 32 c).set 6 1
      let e' := ((takeWords 16 e).set 2 0).set 3 1
      ({ s with mem := objectsWritten s cb qb pb q c' e' (takeWords 16 w) ls } : State).readEntry (pb &&& pageMask) 16 0 =
        (v, x) →
      let on := (ew x 0).getLsbD 63
      Answers .coresRelease s fun t =>
        t.glob.released = true ∧ t.host.lock = true ∧ t.host.ctxbase = cb &&& pageMask ∧
        t.host.qbase = qb &&& pageMask ∧ t.host.fbase = fb &&& pageMask ∧ t.host.svcFence = f ∧
        Tbl.find? t.host.ctxs 0 = some c' ∧ Tbl.find? t.host.queues q.toNat = some e' ∧
        t.fab.qpbase = pb &&& pageMask ∧ (t.qp 0).entry = setEw x 7 (if on = true then 1 else 0) ∧
        (t.qp 0).spsn = (ew x 1 >>> 40).truncate 24 ∧ (t.qp 0).rpsn = (ew x 1 >>> 16).truncate 24 ∧
        t.mem = (v.writeEntryAt (pb &&& pageMask) 16 0 56 (leBytes 8 (if on = true then 1 else 0))).mem ∧
        Only [.cur, .glob, .mem, .host, .fab, .reg] s t)) ∧
  (∀ (s : State), FabOn s → s.cur.fwrun = true → s.glob.released = true → s.glob.ready = false → s.cur.phase = 9 →
    (∀ p : Fin 8, s.fab.waiting p = false) → exec .readySet s = .next { s with
      glob := { s.glob with ready := true }
      cur := { s.cur with phase := 10, phaseTick := s.cur.phaseTick.set 9 s.glob.tick } })

/-! ### Management, supply and pins (R464, R491, R504, R513-R515, R522, R528-R547) -/

namespace Sys2Proof.Claims
open Sys2Proof.Machine

/-- The firmware runs. -/
def fwRuns (s : State) : Prop := s.sup.power = .running ∧ s.cur.fwrun = true ∧ s.cur.restarting = false

/-- Something has left the module, and nothing else changed. -/
def sent (s : State) (e : WireEvent) : State := { s with wire := s.wire ++ [e] }

/-- A message with its length in front (R513). -/
def framed (m : List Byte) : List Byte := beBytes 4 m.length ++ m

/-- An established session: rights, the operator's INSTANCE, whether it may only ENROLL, keys and counters (R513, R514). -/
structure Asker where
  rights : Word
  inst : BitVec 16
  only : Bool
  link : MgmtLink

/-- The session after so many messages each way. -/
def Asker.mode (x : Asker) (rx tx : Nat) : MgmtMode :=
  .established x.rights x.inst x.only { x.link with rx := x.link.rx + rx, tx := x.link.tx + tx }

/-- The state with session i as given. -/
def inSession (s : State) (i : Fin 4) (m : MgmtMode) : State :=
  { s with cur := { s.cur with sessions := s.cur.sessions.set i m } }

/-- A frame of session i opens, under the session's next counter, as the request q (R513, R515). -/
structure Asks (s : State) (i : Fin 4) (frame : List Byte) (x : Asker) (q : MgmtReq) : Prop where
  runs : fwRuns s
  session : s.cur.sessions[i] = x.mode 0 0
  opens : x.link.unseal frame = some q

/-- The request's counter is taken. -/
def heard (s : State) (i : Fin 4) (x : Asker) : State := inSession s i (x.mode 1 0)

/-- The frame of a reply: OP, REQID, STATUS and LEN, then the data, sealed under the next counter (R513, R515). -/
def replyFrame (x : Asker) (q : MgmtReq) (status : Nat) (data : List Byte) : List Byte :=
  let nonce := List.replicate 4 0 ++ beBytes 8 x.link.tx
  let ct := gcmCrypt x.link.keyOut nonce (wordBytes [(q.op.zeroExtend 64 <<< 56) ||| (q.reqid.zeroExtend 64 <<< 32) |||
    BitVec.ofNat 64 (status * 2 ^ 24) ||| BitVec.ofNat 64 data.length] ++ data)
  framed (ct ++ gcmTag x.link.keyOut nonce [] ct)

/-- The request is answered in state u. -/
def answered (u : State) (i : Fin 4) (x : Asker) (q : MgmtReq) (status : Nat) (data : List Byte) : State :=
  sent (inSession u i (x.mode 1 1)) (.mgmt i.val (replyFrame x q status data))

/-- The operator of the session holds a right, and the arguments are of the length the request gives. -/
def Asker.holds (x : Asker) (right : Nat) : Prop := if x.only = true then right = 6 else x.rights.getLsbD right = true

/-- The request has OP `op` and n bytes of arguments. -/
def OfLen (q : MgmtReq) (op n : Nat) : Prop := q.op.toNat = op ∧ q.len = n ∧ q.args.length = n

/-- The request is logged: class 0x0A, the operator's INSTANCE, and the request's word 0 (R515). -/
def noted (u : State) (x : Asker) (q : MgmtReq) : State := u.logAdd 0x0A x.inst.toNat 0 q.word0

/-- The record at the logbook's write position in s is, in t, the request's (R515). -/
def loggedBy (s t : State) (x : Asker) (q : MgmtReq) : Prop :=
  ∃ r : LogRec, Tbl.find? t.alm.logbook s.alm.logPos = some r ∧ r.tick = s.glob.tick ∧ r.cls = 0x0A ∧
    r.unit = x.inst.truncate 8 ∧ r.src = 0 ∧
    r.value = (q.op.zeroExtend 64 <<< 56) ||| (q.reqid.zeroExtend 64 <<< 32) ||| BitVec.ofNat 64 q.len

/-- The 32 bytes of a logbook slot: its record, or ones (R465, R511). -/
def slotBytes (a : Almanac) (n : Nat) : List Byte :=
  match Tbl.find? a.logbook n with
  | some r => wordBytes [r.tick, (r.resetgen.zeroExtend 64 <<< 32) ||| (r.cls.zeroExtend 64 <<< 24) |||
      (r.unit.zeroExtend 64 <<< 16) ||| r.index.zeroExtend 64, r.src.zeroExtend 64, r.value]
  | none => List.replicate 32 0xFF

/-- A settings record joins the live bank. -/
def withRecord (s : State) (r : SettingRec) : State :=
  { s with alm := if s.alm.liveBank = true then { s.alm with bank1 := s.alm.bank1 ++ [r] }
    else { s.alm with bank0 := s.alm.bank0 ++ [r] } }

/-- The record holds, has a TYPE that R509 lists, deletes nothing, and the live bank has room for it. -/
def Appends (s : State) (r : SettingRec) : Prop :=
  r.good = true ∧ 1 ≤ r.typ.toNat ∧ r.typ.toNat ≤ 8 ∧ r.deleted = false ∧
    recordBytes s.alm.settings + r.size ≤ bankBytes

/-- The supply monitor works. -/
def monitored (s : State) : Prop := s.sup.power = .running ∨ s.sup.power = .tripped ∨ s.sup.power = .ramping

end Sys2Proof.Claims

/-- R464, R491, R495, R496, R508, R509, R513-R515, R519, R522, R523: a HELLO at the curator's address is answered with a fresh
nonce and key, signed with the identity key; its FINISH, where the operator's signature holds, opens a session of the operator,
or of a fresh module whose button is held; a failed one closes and counts. A frame that does not open has no effect. A request
without its right answers RIGHT, as every one but ENROLL does in a session that may only ENROLL; one whose arguments do not
fit, and one of a reserved OP, ARG. Reads answer registers, the logbook and records; writes take effect, are logged and
answered; FWSTAGE collects an image and stages it where its checks pass; RESET, SERVICE and POWER act as `cur.reset`, the
button and `cur.power` do; DEBUGMEM needs the context's consent; ENROLL keeps an operator who can enroll. The scan, once in
SCANTICKS, logs a register once for each value it takes and records a RETIRED core.
Where the rules leave a point open it rests on the choices of log entries 3 (CUR_CE after a scan), 39, 42 and 43. -/
def Obligations.Management : Prop :=
  (∀ e ∈ ([(.regread, 1, fun _ => 0), (.regwrite, 2, fun _ => 1), (.logread, 3, fun _ => 0), (.setread, 4, fun _ => 0),
        (.setwrite, 5, fun q => if (readSetting q.args).typ = 2 then 6 else 1), (.fwstage, 6, fun _ => 2),
        (.fwunstage, 7, fun _ => 2), (.reset, 8, fun _ => 3), (.service, 9, fun _ => 4), (.power, 0xA, fun _ => 3),
        (.debugmem, 0xB, fun _ => 5), (.repairclear, 0xC, fun _ => 4), (.enroll, 0xD, fun _ => 6)] :
          List ((Fin 4 → List Byte → Instr) × Nat × (MgmtReq → Nat))),
    ∀ (i : Fin 4) (frame : List Byte) (x : Asker) (s : State), fwRuns s →
    s.cur.sessions[i] = x.mode 0 0 →
    (x.link.unseal frame = none → exec (e.1 i frame) s = .next s) ∧
    (∀ q, x.link.unseal frame = some q → q.op.toNat = e.2.1 →
      (¬ x.holds (e.2.2 q) → exec (e.1 i frame) s = .next (answered (heard s i x) i x q 1 [])) ∧
      (x.holds (e.2.2 q) → q.args.length ≠ q.len →
        exec (e.1 i frame) s = .next (answered (heard s i x) i x q 2 [])))) ∧
  (∀ (i : Fin 4) (frame : List Byte) (x : Asker) (q : MgmtReq) (s : State), Asks s i frame x q →
    (q.op = 0 ∨ 13 < q.op.toNat) → exec (.regread i frame) s = .next (answered (heard s i x) i x q 2 [])) ∧
  (∀ (v6 : Bool) (a gw : BitVec 128) (pfx : BitVec 8) (port : BitVec 16) (mac : BitVec 48) (r : SettingRec)
    (m : List Byte) (s : State), fwRuns s → s.cur.inForce = [r] → r.body = .mgmtnet v6 a pfx gw port mac →
    (∀ w b n, (w, b, n) ≠ (v6, a, port) → exec (.mgmtHello w b n (framed m)) s = .next s) ∧
    (s.cur.sessions[(0 : Fin 4)] = .closed →
      (m.length = 64 → m.length < 2 ^ 32 → m.take 32 = 1 :: List.replicate 31 0 → s.mem.haltStage < 2 →
        s.reg.idReady = true → s.cur.lockout = false → Answers (.mgmtHello v6 a port (framed m)) s fun t =>
        ∃ nonce d z : BitVec 256,
          let hello := keyBytes nonce ++ (kemPair d z).ek ++ s.reg.cert
          let h1 := sha256 (m ++ hello)
          t.cur = { s.cur with sessions := s.cur.sessions.set 0 (.hello s.sup.button d z h1 s.glob.tick) } ∧
          emits s t (.mgmt 0 (framed (hello ++ slhSig (keyBytes h1)))) ∧ Only [.cur, .glob, .wire] s t) ∧
      (m.length ≠ 64 → m.length < 2 ^ 32 → s.mem.haltStage < 2 → s.reg.idReady = true → s.cur.lockout = false →
        s.cur.failures = [] → exec (.mgmtHello v6 a port (framed m)) s =
          .next (sent { s with cur := { s.cur with failures := [s.glob.tick] } } .mgmtRefused)) ∧
      ((s.cur.lockout = true ∨ 2 ≤ s.mem.haltStage ∨ s.reg.idReady = false) →
        exec (.mgmtHello v6 a port (framed m)) s = .next (sent s .mgmtRefused))) ∧
    ((∀ i : Fin 4, ∃ y : Asker, s.cur.sessions[i] = y.mode 0 0) →
      exec (.mgmtHello v6 a port (framed m)) s = .next (sent s .mgmtRefused))) ∧
  (∀ (i : Fin 4) (m : List Byte) (b : Bool) (d z h1 : BitVec 256) (u : Word) (s : State), fwRuns s →
    s.cur.sessions[i] = .hello b d z h1 u → m.length = 18208 →
    let put (y : MgmtMode) : Curator := { s.cur with sessions := s.cur.sessions.set i y }
    let key := keyOf (m.drop 1088)
    let h2 := keyBytes (sha256 (keyBytes h1 ++ m.take 1120))
    let signed := slhVerify slh128f key h2 (m.drop 1120)
    let ks := hkdf ((kemPair d z).decaps (m.take 1088)) h2 [1, 0, 0, 0, 0, 0, 0, 0] 2
    let link : MgmtLink := { keyIn := keyOf (ks.getD 0 []), keyOut := keyOf (ks.getD 1 []), rx := 0, tx := 0 }
    let failed : State := sent { s with cur := { put .closed with failures := [s.glob.tick] } } .mgmtRefused
    ((s.glob.tick - u).toNat ≤ 50000000 → s.cur.failures = [] →
      (∀ (r : SettingRec) (k : BitVec 256) (rights : Word), s.cur.inForce = [r] → r.body = .operator k rights →
        exec (.mgmtFinish i (framed m)) s = .next (
          if signed = true ∧ key = k then { s with cur := put (.established rights r.inst false link) } else failed)) ∧
      (s.cur.inForce = [] → exec (.mgmtFinish i (framed m)) s = .next (
        if signed = true ∧ b = true then { s with cur := put (.established 0 0 true link) } else failed))) ∧
    (50000000 < (s.glob.tick - u).toNat → s.cur.failures = List.replicate 7 s.glob.tick →
      exec (.mgmtFinish i (framed m)) s = .next (sent { s with cur := { put .closed with
        failures := [], lockout := true, lockoutSince := s.glob.tick, sessRefused := true } } .mgmtRefused))) ∧
  (∀ (s : State), fwRuns s → s.cur.lockout = true → 1500000000 ≤ (s.glob.tick - s.cur.lockoutSince).toNat →
    exec .mgmtLockoutEnd s = .next { s with cur := { s.cur with lockout := false } }) ∧
  (∀ (i : Fin 4) (frame : List Byte) (x : Asker) (q : MgmtReq) (s : State), Asks s i frame x q →
    let h := heard s i x
    let a := (q.word 0).toNat % 2 ^ 48
    let done (u : State) (status : Nat) (data : List Byte) : State := answered u i x q status data
    (x.holds 0 → OfLen q 1 8 →
      (∀ (s' : State) (v : Word), locate a ≠ .memory → h.busRead .curator a 8 = (s', v) →
        exec (.regread i frame) s = .next (done s' 0 (leBytes 8 v.toNat))) ∧
      (locate a = .memory → exec (.regread i frame) s = .next (done h 2 []))) ∧
    (x.holds 1 → OfLen q 2 16 →
      (∀ s' : State, locate a ≠ .memory → (h.logAdd 0x0A x.inst.toNat a (q.word 1)).busWrite .curator a 8 (q.word 1) = s' →
        s'.cur.sessions[i] = x.mode 1 0 → exec (.regwrite i frame) s = .next (done s' 0 [])) ∧
      (locate a = .memory → exec (.regwrite i frame) s = .next (done h 2 []))) ∧
    (x.holds 0 → OfLen q 3 16 → 32 * (q.word 1).toNat < 2 ^ 24 → (q.word 0).toNat + (q.word 1).toNat ≤ 589824 →
      exec (.logread i frame) s = .next (done h 0
        ((List.range (q.word 1).toNat).flatMap fun k => slotBytes s.alm ((q.word 0).toNat + k)))) ∧
    (x.holds 0 → OfLen q 4 8 →
      (∀ r : SettingRec, s.cur.inForce = [r] → r.typ = (q.word 0 >>> 48).truncate 16 →
        r.inst = (q.word 0 >>> 32).truncate 16 → exec (.setread i frame) s = .next (done h 0 r.bytes)) ∧
      (s.cur.inForce = [] → exec (.setread i frame) s = .next (done h 2 []))) ∧
    (∀ r, r = readSetting q.args → q.args.length = q.len → 64 ≤ q.len →
      (q.op = 5 → r.typ ≠ 2 → x.holds 1 → Appends s r →
        exec (.setwrite i frame) s = .next (done (noted (withRecord h r) x q) 0 [])) ∧
      (q.op = 0xD → r.typ = 2 → x.holds 6 → Appends s r →
        exec (.enroll i frame) s = .next (done (noted (withRecord h r) x q) 0 [])) ∧
      (q.op = 0xD → r.typ ≠ 2 → x.holds 6 → exec (.enroll i frame) s = .next (done h 2 [])) ∧
      (q.op = 0xD → r.typ = 2 → x.holds 6 → r.good = true → r.deleted = true →
        (∀ y ∈ settingsInForce (s.alm.settings ++ [r]), ∀ key rights, y.body = .operator key rights →
          rights.getLsbD 6 = false) → exec (.enroll i frame) s = .next (done h 3 []))) ∧
    (x.holds 2 → q.op = 6 → q.args.length = q.len → 8 < q.len →
      let n := (q.word 0).toNat
      let part := q.args.drop 8
      let img := (if n = 0 then [] else s.cur.fwParts) ++ part
      ((s.reg.trial = true ∨ s.cur.deepIdle = true) → exec (.fwstage i frame) s = .next (done h 3 [])) ∧
      (s.reg.trial = false → s.cur.deepIdle = false → part.length ≤ 65536 → img.length = 65536 * n + part.length →
        img.length ≤ 2 ^ 24 →
        ((img.length < 64 ∨ img.length < imgLen img) → exec (.fwstage i frame) s =
          .next (done { h with cur := { h.cur with fwParts := img } } 0 [])) ∧
        (64 ≤ img.length → imgLen img ≤ img.length → s.reg.staged = false → Answers (.fwstage i frame) s fun t =>
          t.cur.fwParts = [] ∧ Only [.alm, .reg, .cur, .wire] s t ∧
          (if img.length = imgLen img ∧ imgGood img = true ∧ s.reg.fusesvn ≤ (imgSvn img).toNat then
            t.reg.staged = true ∧ t.alm.staged = true ∧ t.alm.otherImg = img ∧ t.alm.activeImg = s.alm.activeImg ∧
            t.reg.stagedig = digestWords (imgDigest img) ∧ t.reg.ssvn = imgSvn img ∧ loggedBy s t x q ∧
            emits s t (.mgmt i.val (replyFrame x q 0 []))
          else
            t.alm = s.alm ∧ t.reg = s.reg ∧ emits s t (.mgmt i.val (replyFrame x q 2 [])))))) ∧
    (x.holds 2 → OfLen q 7 0 →
      (s.cur.deepIdle = true → exec (.fwunstage i frame) s = .next (done h 3 [])) ∧
      (s.cur.deepIdle = false → Answers (.fwunstage i frame) s fun t =>
        t.reg.staged = false ∧ t.alm.staged = false ∧ t.alm.activeImg = s.alm.activeImg ∧ loggedBy s t x q ∧
        emits s t (.mgmt i.val (replyFrame x q 0 [])) ∧ Only [.alm, .reg, .cur, .wire] s t)) ∧
    (x.holds 3 → OfLen q 8 8 →
      let core : BitVec 7 := (q.word 0 >>> 8).truncate 7
      let told := done (noted h x q) 0 []
      ((q.word 0).toNat % 4 = 0 → exec (.reset i frame) s = .next (done h 2 [])) ∧
      ((q.word 0).toNat % 4 = 1 →
        (∀ c : Fin 96, core = num7 c → (s.cores[c]).mode = .quarantined → s.mem.haltStage < 2 →
          exec (.reset i frame) s = exec (.coreReset .curator core) told) ∧
        (∀ c : Fin 96, core = num7 c → (s.cores[c]).mode ≠ .quarantined → s.mem.haltStage < 2 →
          exec (.reset i frame) s = .next (done (rejected h) 3 []))) ∧
      ((q.word 0).toNat % 4 = 2 → exec (.reset i frame) s = exec (.chipReset .curator) told) ∧
      ((q.word 0).toNat % 4 = 3 → exec (.reset i frame) s = exec (.moduleReset .curator) told)) ∧
    (x.holds 3 → OfLen q 0xA 8 →
      ((q.word 0).getLsbD 0 = true →
        (∀ u : State, (h.mayIdle = true ∨ s.cur.deepIdle = true) → exec .deepIdleEnter h = .next u →
          exec (.power i frame) s = .next (done (noted u x q) 0 [])) ∧
        (∀ c : Fin 96, s.cur.deepIdle = false → (s.cores[c]).mode = .active ∨ (s.cores[c]).mode = .quarantined →
          exec (.power i frame) s = .next (done h 3 []))) ∧
      ((q.word 0).getLsbD 0 = false →
        (∀ u : State, s.cur.deepIdle = true → exec .deepIdleLeave h = .next u →
          exec (.power i frame) s = .next (done (noted u x q) 0 [])) ∧
        (s.cur.deepIdle = false → exec (.power i frame) s = .next (done h 3 [])))) ∧
    (x.holds 4 → OfLen q 9 8 →
      ((q.word 0).getLsbD 0 = false → s.host.svcReq = false → Answers (.service i frame) s fun t =>
        t.host.svcReq = true ∧ t.host.svcSafe = false ∧ t.host.svcCause = 2 ∧ t.host.svcSeq = s.host.svcSeq + 1 ∧
        signalled s t s.host.svcFence ((s.host.svcSeq + 1).zeroExtend 64) false ∧
        emits s t (.mgmt i.val (replyFrame x q 0 [])) ∧ Only [.host, .alm, .cur, .wire] s t) ∧
      ((q.word 0).getLsbD 0 = true → s.host.svcReq = true → s.host.svcSafe = true →
        exec (.service i frame) s = .next (done h 3 [])) ∧
      ((q.word 0).getLsbD 0 = true → s.host.svcReq = true → s.host.svcSafe = false → Answers (.service i frame) s fun t =>
        t.host.svcReq = false ∧ t.host.svcWithdrawn = true ∧ emits s t (.mgmt i.val (replyFrame x q 0 [])) ∧
        Only [.host, .alm, .cur, .wire] s t)) ∧
    (x.holds 4 → OfLen q 0xC 0 → exec (.repairclear i frame) s =
      .next (done (noted { h with alm := { h.alm with repair := [] } } x q) 0 [])) ∧
    (x.holds 5 → q.op = 0xB → q.args.length = q.len → 16 ≤ q.len → FabOn s →
      let c : BitVec 9 := (q.word 0 >>> 48).truncate 9
      let n := (q.word 1).toNat
      let write := (q.word 0).getLsbD 63
      let bs := q.args.drop 16
      (4096 < n → exec (.debugmem i frame) s = .next (done h 2 [])) ∧
      (n ≤ 4096 → (write = true → bs.length = n) →
        (c ≠ 0 → (s.sec c).inForce.getLsbD 2 = false → exec (.debugmem i frame) s = .next (done h 1 [])) ∧
        ((c = 0 ∨ (s.sec c).inForce.getLsbD 2 = true) → ∀ s' : State,
          ((awake h).debugPages c write a n = (s', false) → exec (.debugmem i frame) s = .next (done s' 2 [])) ∧
          (∀ (s'' : State) (ys : List Byte), write = false → (awake h).debugPages c false a n = (s', true) →
            s'.blockRead .debug c a n = (s'', .ok ys) → exec (.debugmem i frame) s = .next (done s'' 0 ys)) ∧
          (∀ s'' : State, write = true → (awake h).debugPages c true a n = (s', true) →
            s'.blockWrite .debug c a bs = (s'', .ok ()) →
            exec (.debugmem i frame) s = .next (done (noted s'' x q) 0 [])))))) ∧
  (∀ (s : State), s.cur.fwrun = true → s.cur.restarting = false →
    s.cur.scanticks.toNat ≤ (s.glob.tick - s.cur.lastScan).toNat →
    let quiet (y : Scanned) : Prop := y.due = true → Tbl.find? s.cur.logged y.dpa = some y.value
    (s.sup.power = .running → s.cur.deepIdle = false → (∀ y ∈ s.scanAll, quiet y) →
      (∀ k g : Fin 16, ((s.mem.stk[k]).groups[g]).isDegraded = false) →
      (∀ k : Fin 16, (s.mem.stk[k]).repairQ = [] ∨ (s.mem.stk[k]).repRecorded = true) →
      ((∀ c : Fin 96, (s.cores[c]).mode = .retired → c.val ∈ s.cur.retiredSeen) →
        ∃ ce, (s.cur.curCe = true → ce = true) ∧ exec .logbookScan s = .next { s with
          cur := { s.cur with lastScan := s.glob.tick, curCe := ce }
          glob := { s.glob with free := s.glob.free + 1 } }) ∧
      (∀ c : Fin 96, (s.cores[c]).mode = .retired → c.val ∉ s.cur.retiredSeen → s.alm.repair.length < 131071 →
        (∀ d : Fin 96, d ≠ c → (s.cores[d]).mode = .retired → d.val ∈ s.cur.retiredSeen) →
        ∃ ce, (s.cur.curCe = true → ce = true) ∧ exec .logbookScan s = .next { s with
          cur := { s.cur with lastScan := s.glob.tick, curCe := ce, retiredSeen := c.val :: s.cur.retiredSeen }
          glob := { s.glob with free := s.glob.free + 1 }
          alm := { s.alm with repair := s.alm.repair ++
            [RepairRec.sealed ⟨s.glob.tick, s.reg.resetgen, BitVec.ofNat 8 c.val, 3, 0, 0⟩] } })) ∧
    (∀ (y : Scanned) (l m : List Scanned), (s.sup.power = .running ∨ s.sup.power = .tripped) →
      s.scanAll = l ++ y :: m → y.due = true → Tbl.find? s.cur.logged y.dpa ≠ some y.value →
      (∀ z ∈ l ++ m, quiet z ∧ z.dpa ≠ y.dpa) → s.alm.logPos < 589824 → Answers .logbookScan s fun t =>
        (∃ r : LogRec, Tbl.find? t.alm.logbook s.alm.logPos = some r ∧ r.tick = s.glob.tick ∧
          r.cls = BitVec.ofNat 8 y.cls ∧ r.unit = BitVec.ofNat 8 y.unit ∧ r.src = BitVec.ofNat 48 y.dpa ∧
          r.value = y.value) ∧
        Tbl.find? t.cur.logged y.dpa = some y.value))

/-- R296, R430, R449, R504, R528-R533, R535, R541, R545-R547: a warning lets the clamp fall to 102 over the cycles of R528 or,
from a rise, of R531, and counts once until the clamp is back at 256; the count of R531 requests a checkpoint, in one event
with a timer that is due; the hold count runs from the crossing of the release level, and 25,000 ticks later the clamp rises
through the levels of R529; a supply reset loses power and the boot key; the governor lowers the clock one step over a limit
and raises it after ten calm milliseconds; a trip leaves the always-on domain and is logged; a button press, measured from
its ticks, toggles the identify light or asks for service; the SMBus target answers its listed commands, with PEC.
Where the rules leave a point open it rests on the choices of log entries 3, 41 and 50. -/
def Obligations.SupplyAndPins : Prop :=
  (∀ (s : State), monitored s →
    let warned (u : Supply) : Supply := { u with
      clamp := .held, clampJ := 1, clampSeq := u.clampSeq + 1, belowRel := true, holding := false }
    let recorded : Supply := { warned s.sup with
      clampFrom := 256, clampDur := 32, supplyWarn := true, dipValid := true, dipMinv := 18000, dipTicks := 0
      dipStart := s.glob.tick, dipCount := (if s.sup.dipCount = 0xFFFF then 0xFFFF else s.sup.dipCount + 1) }
    (s.sup.clamp = .held → exec .supplyWarning s =
      .next { s with sup := { s.sup with belowRel := true, holding := false } }) ∧
    (s.sup.clamp = .rising →
      let level := 102 + 154 * Min.min s.sup.clampJ 256 / 256
      exec .supplyWarning s = .next { s with sup := { warned s.sup with
        clampFrom := level, clampDur := (32 * (level - 102) + 153) / 154 } }) ∧
    (s.sup.clamp = .normal → s.sup.warnings = [] →
      (1 < s.sup.wcount.toNat → exec .supplyWarning s =
        .next { s with sup := { recorded with warnings := [s.glob.tick] } }) ∧
      (∀ n, recorded.clampAt n = if 32 ≤ n then 102 else 256 - 154 * n / 32) ∧
      (s.sup.wcount = 1 → FabOn s → s.vault.supplyEn = true →
        let asked : State := { s with sup := { recorded with warnings := [], ckptReq := true } }
        ((s.mem.vaultEn = false ∨ s.vault.fired = true) → s.vault.dueaddr = 0 → exec .supplyWarning s =
          .next (withVault asked { s.vault with due := true, dueCount := s.vault.dueCount + 1 })) ∧
        (∀ (s' : State) r, s.mem.vaultEn = true → s.vault.fired = false → s.vault.period ≠ 0 →
          s.vault.period.toNat * 25000000 ≤ (s.glob.tick - s.vault.since).toNat → s.vault.dueaddr ≠ 0 →
          (withVault asked { s.vault with due := true, dueCount := s.vault.dueCount + 1, fired := true }).blockWrite .vault
            s.vault.vctx s.vault.dueaddr.toNat
            (leBytes 8 ((s.vault.dueCount + 1).toNat * 2 ^ 32 + 3)) = (s', r) →
          exec .supplyWarning s = .next s'))) ∧
    (s.sup.clamp = .held → s.sup.holding = true → s.sup.dipValid = true →
      25000 ≤ (s.glob.tick - s.sup.holdSince).toNat →
      let risen : Supply := { s.sup with
        clamp := .rising, clampJ := 1, clampSeq := s.sup.clampSeq + 1, holding := false
        dipTicks := (s.glob.tick - s.sup.dipStart).truncate 32 }
      exec .clampRelease s = .next { s with sup := risen } ∧
      ∀ n, risen.clampAt n = if 256 ≤ n then 256 else 102 + 154 * n / 256) ∧
    (s.sup.clamp = .rising → 256 ≤ s.sup.clampJ → exec .clampRestored s =
      .next { s with sup := { s.sup with clamp := .normal, clampFrom := 256, clampDur := 32, clampJ := 0 } })) ∧
  (∀ (s : State), monitored s ∨ s.sup.power = .held →
    (∀ n, s.sup.belowRel = true → s.sup.clamp ≠ .held → exec (.supplyAboveRelease n) s =
      .next { s with sup := { s.sup with belowRel := false, holding := false, holdSince := s.glob.tick } }) ∧
    (∀ n, s.sup.belowRel = true → s.sup.clamp = .held → s.sup.dipValid = true → exec (.supplyAboveRelease n) s =
      .next { s with sup := { s.sup with
        belowRel := false, holding := true, holdSince := s.glob.tick
        dipMinv := BitVec.ofNat 15 (Min.min s.sup.dipMinv.toNat (n / 2)) } }) ∧
    (s.sup.belowRel = false → exec .supplyBelowRelease s =
      .next { s with sup := { s.sup with belowRel := true, holding := false } })) ∧
  (∀ (s : State), s.sup.power = .running →
    exec .supplyReset s = .next { s with
      mem := { s.mem with keyValid := false }
      sup := { s.sup with
        power := .supplyReset, valid := false, clamp := .normal, clampFrom := 256, clampDur := 32, clampJ := 0
        holding := false } } ∧
    (∀ b, Answers (.thermalTrip b) s fun t =>
      t.sup = { s.sup with power := .tripped, trip := true, faultLow := true } ∧
      t.mem = { s.mem with keyValid := false } ∧
      (s.alm.usable = true → 3 ≤ s.cur.phase.toNat →
        (∃ x : LogRec, Tbl.find? t.alm.logbook s.alm.logPos = some x ∧ x.tick = s.glob.tick ∧ x.cls = 7 ∧
          x.src = 0xFE0700000000 ∧ x.value.getLsbD 7 = true ∧
          Tbl.find? t.cur.logged 0xFE0700000000 = some x.value)) ∧
      (s.alm.usable = false → t.alm = s.alm) ∧ Only [.sup, .mem, .alm, .cur, .reg] s t) ∧
    exec .railFault s = .next { s with sup := { s.sup with railFault := true, faultLow := true } }) ∧
  (∀ (m : Measure) (s : State), s.sup.power = .running → 25000 ≤ (s.glob.tick - s.sup.govLast).toNat →
    (18000 < m.powerDw.toNat → 12 < s.sup.farith → Answers (.governorTick m) s fun t =>
      t.sup.farith = s.sup.farith - 1 ∧ t.sup.govPower = true ∧ t.sup.govQuiet = 0 ∧ t.sup.meas = m ∧ t.sup.front = m ∧
      Only [.sup] s t) ∧
    (m.powerDw.toNat ≤ 18000 → 50000 < m.currentMa.toNat → s.sup.farith = 12 → Answers (.governorTick m) s fun t =>
      t.sup.farith = 12 ∧ t.sup.govPower = s.sup.govPower ∧ Only [.sup] s t) ∧
    (m.powerDw.toNat < 17100 → m.currentMa.toNat < 47500 → hottest m.die < 97 → s.sup.farith < 24 →
      (s.sup.govQuiet < 9 → Answers (.governorTick m) s fun t =>
        t.sup.farith = s.sup.farith ∧ t.sup.govQuiet = s.sup.govQuiet + 1 ∧ Only [.sup] s t) ∧
      (9 ≤ s.sup.govQuiet → Answers (.governorTick m) s fun t =>
        t.sup.farith = s.sup.farith + 1 ∧ t.sup.govQuiet = 0 ∧ Only [.sup] s t))) ∧
  (∀ (s : State), s.sup.power = .running →
    500000 ≤ (s.glob.tick - s.sup.buttonAt).toNat →
    (s.sup.button = false → exec .buttonPress s =
      .next { s with sup := { s.sup with button := true, buttonAt := s.glob.tick } }) ∧
    (s.sup.button = true →
      let ms := (s.glob.tick - s.sup.buttonAt).toNat / 25000
      let u : Supply := { s.sup with
        button := false, buttonAt := s.glob.tick, pressMs := BitVec.ofNat 32 ms, presses := s.sup.presses + 1 }
      (s.cur.restarting = false → ms < 2000 →
        exec .buttonRelease s = .next { s with sup := { u with ident := !u.ident } }) ∧
      (s.cur.restarting = false → 3000 ≤ ms → ms < 10000 → s.host.svcReq = false →
        Answers .buttonRelease s fun t =>
          t.sup = u ∧ t.host.svcReq = true ∧ t.host.svcCause = 0 ∧ t.host.svcSeq = s.host.svcSeq + 1 ∧
          signalled s t s.host.svcFence ((s.host.svcSeq + 1).zeroExtend 64) false ∧ Only [.sup, .host, .alm, .cur] s t) ∧
      (s.cur.restarting = false → ((2000 ≤ ms ∧ ms < 3000) ∨ 10000 ≤ ms) →
        exec .buttonRelease s = .next { s with sup := u }) ∧
      (s.cur.restarting = true → exec .buttonRelease s =
        .next { s with sup := u, cur := { s.cur with latched := s.cur.latched ++ [ms] } }))) ∧
  (∀ (s : State), (s.sup.power = .running ∨ s.sup.power = .tripped ∨ s.sup.power = .held) →
    (∀ e ∈ ([(.smbusVersion, smbBytes 0x00 false [0x01]), (.smbusOrderCode, smbBytes 0x10 true orderCode),
        (.smbusSerial, smbBytes 0x11 true (leBytes 8 Config.serial.toNat)),
        (.smbusStatus, smbBytes 0x01 false [s.smbStatus.truncate 8]),
        (.smbusVin, smbBytes 0x20 false (leBytes 2 s.sup.front.vinMv.toNat)),
        (.smbusIin, smbBytes 0x21 false (leBytes 2 s.sup.front.currentMa.toNat)),
        (.smbusPin, smbBytes 0x22 false (leBytes 2 s.sup.front.powerDw.toNat)),
        (.smbusTboard, smbBytes 0x32 false (leBytes 2 (BitVec.ofInt 16 s.sup.front.inlet).toNat)),
        (.smbusCause, smbBytes 0x40 false [s.cur.cause.zeroExtend 8])]
          : List (Instr × List Byte)), exec e.1 s = .next (sent s (.smbus e.2))) ∧
    (s.sup.power = .running →
      exec .smbusTdie s =
        .next (sent s (.smbus (smbBytes 0x30 false (leBytes 2 (BitVec.ofInt 16 (hottest s.sup.front.die)).toNat)))) ∧
      exec .smbusTstack s =
        .next (sent s (.smbus (smbBytes 0x31 false (leBytes 2 (BitVec.ofInt 16 (hottest s.sup.front.stack)).toNat))))) ∧
    (s.sup.power ≠ .running → exec .smbusTdie s = .next (sent s (.smbus (smbBytes 0x30 false [0x00, 0x80]))) ∧
      exec .smbusTstack s = .next (sent s (.smbus (smbBytes 0x31 false [0x00, 0x80])))) ∧
    (∀ c, exec (.smbusNack true c) s = .next (sent s .smbusNack)) ∧
    (∀ c : Byte, c ∉ ([0x00, 0x01, 0x10, 0x11, 0x20, 0x21, 0x22, 0x30, 0x31, 0x32, 0x40] : List Byte) →
      exec (.smbusNack false c) s = .next (sent s .smbusNack)))

/-! ### Registers (R18, R37, R41, R43, R333, R462, R467) -/

namespace Sys2Proof.Claims
open Sys2Proof.Machine

/-- Registers that hold what is written to their fields, with the mask of those fields and the part they belong to. -/
def plainRegisters : List (Nat × Word × Part) :=
  [(0xFE0000000030, 0xFFFF, .glob), (0xFE0300000010, 0xFFFFFFFFFFFF, .fab), (0xFE0300070018, 0xFFFFFFFFFFFF, .fab),
   (0xFE0300008008, 0xFFFFFFFF, .fab), (0xFE0300008010, 0xFFFFFFFFFFFFFFFF, .fab), (0xFE0300008038, 0xFFFFFF, .fab),
   (0xFE0300080810, 0x0000FFFFFFE00000, .fab), (0xFE0400000008, 0xFFFFFFFFFFFFFFFF, .tr),
   (0xFE0400000018, 0x0000FFFFFFE00000, .tr), (0xFE0400000050, 0x0000FFFFFFFFFFFF, .tr),
   (0xFE0400000090, 0x0000FFFFFFFFFFFF, .tr), (0xFE0600000018, 0x0000FFFFFFFFFFF8, .vault)]

/-- Registers and bits that ignore writes: identity and counters among them. -/
def readOnlyRegisters : List Nat :=
  [0xFE0000000000, 0xFE0300000030, 0xFE0400000010, 0xFE0500000008, 0xFE0500010008, 0xFE0600000020, 0xFE0200000008]

end Sys2Proof.Claims

/-- R18, R37, R41, R43, R62, R333, R467, R501: an access of another size, or misaligned, sets
REG_ALIGN and is not performed, a read giving zero; one that reaches no register sets DPA_HOLE;
a register's fields read back as written, and nothing of another block changes; a read-only
register ignores a write; the curator alone writes the catalogue bases, while LOCK is 0; SAFE
reads as last written, where it is written under a request with no context but 0 LIVE. Where the
rules leave a point open (an access wider than 8 bytes, a misaligned access to an unassigned
address) it rests on the choices of log entry 45. -/
def Obligations.Registers : Prop :=
  (∀ (m : RegMaster) (a : Addr) (n : Nat) (v : Word) (s : State), pathOpen s m → 0xC000000000 ≤ a.toNat →
    ((n ≠ 8 ∨ a.toNat % 8 ≠ 0) → exec (.registerWrite m a n v) s =
      .next { s with glob := { s.glob with regAlign := true } }) ∧
    ((n ≠ 8 ∨ a.toNat % 8 ≠ 0) → s.busRead m a.toNat n = ({ s with glob := { s.glob with regAlign := true } }, 0)) ∧
    (n = 8 → a.toNat % 8 = 0 → (a.toNat / 2 ^ 32 < 0xFE00 ∨ 0xFE10 ≤ a.toNat / 2 ^ 32 ∨
        (m = .host ∧ a.toNat / 2 ^ 32 = 0xFE0F)) → exec (.registerWrite m a n v) s =
      .next { s with glob := { s.glob with dpaHole := true } })) ∧
  (∀ (i : Fin 4) (frame : List Byte) (x : Asker) (q : MgmtReq) (s : State), Asks s i frame x q → x.holds 0 → OfLen q 1 8 →
    let a := (q.word 0).toNat % 2 ^ 48
    0xC000000000 ≤ a → a % 8 ≠ 0 → exec (.regread i frame) s =
      .next (answered { heard s i x with glob := { s.glob with regAlign := true } } i x q 0 (List.replicate 8 0))) ∧
  (∀ e ∈ plainRegisters, ∀ (m : RegMaster) (v : Word) (s : State), pathOpen s m →
    Answers (.registerWrite m (BitVec.ofNat 48 e.1) 8 v) s fun t =>
      t.busRead m e.1 8 = (t, v &&& e.2.1) ∧ Only [e.2.2] s t) ∧
  (∀ (c : Fin 96) (m : RegMaster) (v : Word) (s : State), pathOpen s m →
    Answers (.registerWrite m (BitVec.ofNat 48 (0xFE0100100010 + 0x1000000 * c.val)) 8 v) s fun t =>
      t.cores[c] = { (s.cores[c]) with prio := v.truncate 8 } ∧ OnlyCore c s t ∧ Only [.cores] s t) ∧
  (∀ a ∈ readOnlyRegisters, ∀ (m : RegMaster) (v : Word) (s : State), pathOpen s m →
    exec (.registerWrite m (BitVec.ofNat 48 a) 8 v) s = .next s) ∧
  (∀ (v : Word) (s : State), pathOpen s .curator →
    (s.host.lock = false → exec (.registerWrite .curator 0xFE0000000100 8 v) s =
      .next { s with host := { s.host with ctxbase := v &&& 0x0000FFFFFFE00000 } }) ∧
    (s.host.lock = true → exec (.registerWrite .curator 0xFE0000000100 8 v) s = .next s)) ∧
  (∀ (v : Word) (s : State), pathOpen s .host → exec (.registerWrite .host 0xFE0000000100 8 v) s =
    .next { s with glob := { s.glob with dpaHole := true } }) ∧
  (∀ (m : RegMaster) (s : State), pathOpen s m →
    (s.host.svcReq = true → ∀ (s' : State) (l : List Nat), s.ctxScan = (s', l) →
      (1 ∉ l →
        (s.host.svcSafe = false → Answers (.safeWrite m) s fun t =>
          t.host = { s'.host with svcSafe := true } ∧
          (∃ x : LogRec, Tbl.find? t.alm.logbook s'.alm.logPos = some x ∧ x.cls = 0x0A ∧ x.src = 0xFE0000000200) ∧
          Only [.host, .alm, .cur] s' t) ∧
        (s.host.svcSafe = true → ∀ v : Word, v.getLsbD 62 = false → v.getLsbD 61 = false →
          Answers (.registerWrite m 0xFE0000000200 8 v) s fun t =>
            t.host = { s'.host with svcSafe := false } ∧ Only [.host, .alm, .cur] s' t)) ∧
      (1 ∈ l → s.host.svcSafe = false → exec (.safeWrite m) s = .next s')) ∧
    ((s.host.svcReq = false ∨ s.host.svcSafe = true) → exec (.safeWrite m) s = .next s))

/-! ### The whole machine -/

/-- R206: decoding what the encoder writes gives the instruction back, every operand with it; and every pair of words that
decodes to an instruction other than ILLEGAL is the encoding of that instruction. -/
def Obligations.RoundTrip : Prop :=
  (∀ (i : Instr) (p : Site) (w x : Word), i.wf = true → i.site = some p → encode i = some (w, x) →
    decodeJalner p i.upset i.images w x = some i) ∧
  (∀ (p : Site) (u : Upset) (im : List StagedImage) (w x : Word), illegalDetail w x = none →
    ∃ i, decodeJalner p u im w x = some i ∧ i.site = some p ∧ i.wf = true ∧
      encode i = some (w, if hasExt w then x else 0))

/-- R40, R288: the memory keeps its canonical form under every step: its lists stay in rising order, and none lists a byte,
line or slice equal to what an unlisted one reads as. -/
def Obligations.MemoryCanonical : Prop :=
  ∀ (s t : State), MemWf s → step s = .next t → MemWf t

/-- R170: s0 of every stream of every core holds zero after every step from a state in which it does. -/
def Obligations.ZeroRegister : Prop :=
  ∀ (s t : State), ZeroRegs s → step s = .next t → ZeroRegs t

/-- R34, R98, R170, R288, R516, R524, R549: after reset memory lists nothing, in its canonical form; s0 is zero; every core
is GATED with its streams IDLE; no context is on chip; READY, the phase and the queue are clear; `cur.wdog` TIMEOUT and
`sup.cfg` hold their reset values.
Where the rules leave a point open it rests on the choices of log entries 2, 8 and 11. -/
def Obligations.ResetState : Prop :=
  MemWf State.reset ∧ ZeroRegs State.reset ∧
  (∀ c : Fin 96, (State.reset.cores[c]).mode = .gated ∧ (State.reset.cores[c]).rampEn = true ∧
    ∀ u : Fin 4, ((State.reset.cores[c]).streams[u]).mode = .idle ∧ ((State.reset.cores[c]).streams[u]).pc = 0) ∧
  (∀ l, State.reset.mem.dramLine l = zeroLine ∧ State.reset.mem.side1 l = LineMeta.fresh ∧
    State.reset.mem.sliceFind l = none) ∧
  State.reset.host.ctxs = [] ∧ State.reset.glob.ready = false ∧ State.reset.glob.tick = 0 ∧ State.reset.cur.phase = 0 ∧
  State.reset.cur.timeout = 0x017D7840 ∧ State.reset.sup.wcount = 3 ∧ State.reset.sup.wwindow = 0x258 ∧
  State.reset.pending = []
end

