-- ==== Sys2Proof/Laws/Decode.lean ====
section
/-! SUPPORT. The opcode bits of an encoded first word. -/
namespace Sys2Proof

/-- The opcode bits of a first word. -/
theorem fld_opc (maj min : Nat) (x : BitVec 52) : fld (opc maj min x) 52 12 = BitVec.ofNat 6 maj ++ BitVec.ofNat 6 min := by
  apply BitVec.eq_of_getLsbD_eq
  intro i hi
  simp only [fld, opc, BitVec.getLsbD_extractLsb', BitVec.getLsbD_append]
  simp [hi, Nat.add_comm 52 i]

/-- Only MMQ and DCOPY2D carry an extension word (R204). -/
theorem hasExt_opc (maj min : Nat) (x : BitVec 52) :
    hasExt (opc maj min x) = (BitVec.ofNat 6 maj ++ BitVec.ofNat 6 min == 0x400#12 ||
      BitVec.ofNat 6 maj ++ BitVec.ofNat 6 min == 0x201#12) := by
  simp [hasExt, fld_opc]

end Sys2Proof
end

