-- ==== Sys2Proof/Laws/Frames.lean ====
section
/-! SUPPORT. What a packet's receiver opens is what its sender sealed (R379, R408). -/
namespace Sys2Proof.Machine
open Sys2Proof

theorem leBytes_length : ∀ (n v : Nat), (leBytes n v).length = n
  | 0, _ => rfl
  | n + 1, v => by rw [leBytes, List.length_cons, leBytes_length n]

theorem beBytes_length (n v : Nat) : (beBytes n v).length = n := by simp [beBytes, leBytes_length]

theorem blockBytes_length (b : BitVec 128) : (blockBytes b).length = 16 := by simp [blockBytes, beBytes_length]

theorem zipWith_xor_xor : ∀ (xs ks : List Byte), xs.length ≤ ks.length →
    List.zipWith (· ^^^ ·) (List.zipWith (· ^^^ ·) xs ks) ks = xs
  | [], _, _ => by simp
  | x :: xs, [], h => by simp at h
  | x :: xs, k :: ks, h => by
    have := zipWith_xor_xor xs ks (by simpa using h)
    simp [this]

theorem gcmStream_nil (key : BitVec 256) (nonce : List Byte) (n i : Nat) : gcmStream key nonce n i [] = [] := by
  cases n <;> rfl

/-- The stream keeps the length and undoes itself, given blocks enough. -/
theorem gcmStream_twice (key : BitVec 256) (nonce : List Byte) : ∀ (n i : Nat) (bs : List Byte), bs.length ≤ 16 * n →
    (gcmStream key nonce n i bs).length = bs.length ∧
      gcmStream key nonce n i (gcmStream key nonce n i bs) = bs
  | 0, _, bs, h => by
    have : bs = [] := List.length_eq_zero_iff.mp (by omega)
    simp [this, gcmStream_nil]
  | n + 1, i, bs, h => by
    by_cases he : bs = []
    · subst he
      simp [gcmStream_nil]
    have hb : bs.isEmpty = false := by simpa using he
    have hk := blockBytes_length (aes256 key (gcmCtr nonce i))
    have hr := gcmStream_twice key nonce n (i + 1) (bs.drop 16) (by simp only [List.length_drop]; omega)
    have hs : gcmStream key nonce (n + 1) i bs = List.zipWith (· ^^^ ·) (bs.take 16) (blockBytes (aes256 key (gcmCtr nonce i))) ++
        gcmStream key nonce n (i + 1) (bs.drop 16) := by
      simp only [gcmStream, hb, Bool.false_eq_true, if_false]
    have hpos : 0 < bs.length := List.length_pos_iff.mpr he
    rw [hs]
    generalize hc : List.zipWith (· ^^^ ·) (bs.take 16) (blockBytes (aes256 key (gcmCtr nonce i))) = c
    generalize hd : gcmStream key nonce n (i + 1) (bs.drop 16) = r at hr
    have hl : c.length = Min.min 16 bs.length := by rw [← hc, List.length_zipWith, List.length_take, hk]; omega
    have hrl : r.length = bs.length - 16 := by rw [hr.1, List.length_drop]
    have hz : 16 ≤ c.length ∨ r = [] := by
      by_cases h16 : 16 ≤ bs.length
      · exact .inl (by omega)
      · exact .inr (List.length_eq_zero_iff.mp (by omega))
    have ht : (c ++ r).take 16 = c ∧ (c ++ r).drop 16 = r := by
      rcases hz with hz | hz
      · have : c.length = 16 := by omega
        exact ⟨by rw [← this, List.take_left], by rw [← this, List.drop_left]⟩
      · subst hz
        rw [List.append_nil]
        exact ⟨List.take_of_length_le (by omega), List.drop_of_length_le (by omega)⟩
    refine ⟨by rw [List.length_append]; omega, ?_⟩
    have hne : (c ++ r).isEmpty = false := by
      cases c with
      | nil => simp at hl; omega
      | cons => rfl
    simp only [gcmStream, hne, Bool.false_eq_true, if_false, ht.1, ht.2, hr.2]
    rw [← hc, zipWith_xor_xor _ _ (by rw [hk, List.length_take]; omega), List.take_append_drop]

theorem gcmCrypt_length (key : BitVec 256) (nonce bs : List Byte) : (gcmCrypt key nonce bs).length = bs.length :=
  (gcmStream_twice key nonce _ 2 bs (by omega)).1

theorem gcmCrypt_twice (key : BitVec 256) (nonce bs : List Byte) : gcmCrypt key nonce (gcmCrypt key nonce bs) = bs := by
  unfold gcmCrypt
  rw [(gcmStream_twice key nonce _ 2 bs (by omega)).1]
  exact (gcmStream_twice key nonce _ 2 bs (by omega)).2

theorem nctOpen_nctSeal (k : BitVec 256) (p : NctPkt) :
    nctOpen k (nctSeal k p) = some { p with tag := (nctSeal k p).tag } := by
  have hn : nctNonce (nctSeal k p) = nctNonce p := rfl
  have hh : nctHdrBytes (nctSeal k p) = nctHdrBytes p := by
    simp [nctHdrBytes, nctSeal, gcmCrypt_length]
  unfold nctOpen gcmOpen
  rw [hn, hh]
  simp [nctSeal, gcmCrypt_twice]

theorem trOpen_trSeal (k : BitVec 256) (p : TrPkt) :
    trOpen k (trSeal k p) = some { p with tag := (trSeal k p).tag } := by
  have hn : trNonce (trSeal k p) = trNonce p := rfl
  have hh : trHdrBytes (trSeal k p) = trHdrBytes p := rfl
  unfold trOpen gcmOpen
  rw [hn, hh]
  simp [trSeal, gcmCrypt_twice]

end Sys2Proof.Machine
end

