-- ==== Sys2Proof/Laws/State.lean ====
section
/-! SUPPORT. One lemma per field per update of the state, true by unfolding, so that no later proof unfolds an update. -/
namespace Sys2Proof.Machine

/-! ### Parts -/

@[simp] theorem State.modMem_cores (s : State) (f : Mem → Mem) : (s.modMem f).cores = s.cores := rfl
@[simp] theorem State.modMem_mem (s : State) (f : Mem → Mem) : (s.modMem f).mem = f s.mem := rfl
@[simp] theorem State.modMem_host (s : State) (f : Mem → Mem) : (s.modMem f).host = s.host := rfl
@[simp] theorem State.modMem_fab (s : State) (f : Mem → Mem) : (s.modMem f).fab = s.fab := rfl
@[simp] theorem State.modMem_tr (s : State) (f : Mem → Mem) : (s.modMem f).tr = s.tr := rfl
@[simp] theorem State.modMem_vault (s : State) (f : Mem → Mem) : (s.modMem f).vault = s.vault := rfl
@[simp] theorem State.modMem_reg (s : State) (f : Mem → Mem) : (s.modMem f).reg = s.reg := rfl
@[simp] theorem State.modMem_cur (s : State) (f : Mem → Mem) : (s.modMem f).cur = s.cur := rfl
@[simp] theorem State.modMem_alm (s : State) (f : Mem → Mem) : (s.modMem f).alm = s.alm := rfl
@[simp] theorem State.modMem_sup (s : State) (f : Mem → Mem) : (s.modMem f).sup = s.sup := rfl
@[simp] theorem State.modMem_glob (s : State) (f : Mem → Mem) : (s.modMem f).glob = s.glob := rfl
@[simp] theorem State.modMem_wire (s : State) (f : Mem → Mem) : (s.modMem f).wire = s.wire := rfl
@[simp] theorem State.modMem_pending (s : State) (f : Mem → Mem) : (s.modMem f).pending = s.pending := rfl

@[simp] theorem State.modHost_cores (s : State) (f : HostObj → HostObj) : (s.modHost f).cores = s.cores := rfl
@[simp] theorem State.modHost_mem (s : State) (f : HostObj → HostObj) : (s.modHost f).mem = s.mem := rfl
@[simp] theorem State.modHost_host (s : State) (f : HostObj → HostObj) : (s.modHost f).host = f s.host := rfl
@[simp] theorem State.modHost_fab (s : State) (f : HostObj → HostObj) : (s.modHost f).fab = s.fab := rfl
@[simp] theorem State.modHost_tr (s : State) (f : HostObj → HostObj) : (s.modHost f).tr = s.tr := rfl
@[simp] theorem State.modHost_vault (s : State) (f : HostObj → HostObj) : (s.modHost f).vault = s.vault := rfl
@[simp] theorem State.modHost_reg (s : State) (f : HostObj → HostObj) : (s.modHost f).reg = s.reg := rfl
@[simp] theorem State.modHost_cur (s : State) (f : HostObj → HostObj) : (s.modHost f).cur = s.cur := rfl
@[simp] theorem State.modHost_alm (s : State) (f : HostObj → HostObj) : (s.modHost f).alm = s.alm := rfl
@[simp] theorem State.modHost_sup (s : State) (f : HostObj → HostObj) : (s.modHost f).sup = s.sup := rfl
@[simp] theorem State.modHost_glob (s : State) (f : HostObj → HostObj) : (s.modHost f).glob = s.glob := rfl
@[simp] theorem State.modHost_wire (s : State) (f : HostObj → HostObj) : (s.modHost f).wire = s.wire := rfl
@[simp] theorem State.modHost_pending (s : State) (f : HostObj → HostObj) : (s.modHost f).pending = s.pending := rfl

@[simp] theorem State.modFab_cores (s : State) (f : Fabric → Fabric) : (s.modFab f).cores = s.cores := rfl
@[simp] theorem State.modFab_mem (s : State) (f : Fabric → Fabric) : (s.modFab f).mem = s.mem := rfl
@[simp] theorem State.modFab_host (s : State) (f : Fabric → Fabric) : (s.modFab f).host = s.host := rfl
@[simp] theorem State.modFab_fab (s : State) (f : Fabric → Fabric) : (s.modFab f).fab = f s.fab := rfl
@[simp] theorem State.modFab_tr (s : State) (f : Fabric → Fabric) : (s.modFab f).tr = s.tr := rfl
@[simp] theorem State.modFab_vault (s : State) (f : Fabric → Fabric) : (s.modFab f).vault = s.vault := rfl
@[simp] theorem State.modFab_reg (s : State) (f : Fabric → Fabric) : (s.modFab f).reg = s.reg := rfl
@[simp] theorem State.modFab_cur (s : State) (f : Fabric → Fabric) : (s.modFab f).cur = s.cur := rfl
@[simp] theorem State.modFab_alm (s : State) (f : Fabric → Fabric) : (s.modFab f).alm = s.alm := rfl
@[simp] theorem State.modFab_sup (s : State) (f : Fabric → Fabric) : (s.modFab f).sup = s.sup := rfl
@[simp] theorem State.modFab_glob (s : State) (f : Fabric → Fabric) : (s.modFab f).glob = s.glob := rfl
@[simp] theorem State.modFab_wire (s : State) (f : Fabric → Fabric) : (s.modFab f).wire = s.wire := rfl
@[simp] theorem State.modFab_pending (s : State) (f : Fabric → Fabric) : (s.modFab f).pending = s.pending := rfl

@[simp] theorem State.modTr_cores (s : State) (f : Transit → Transit) : (s.modTr f).cores = s.cores := rfl
@[simp] theorem State.modTr_mem (s : State) (f : Transit → Transit) : (s.modTr f).mem = s.mem := rfl
@[simp] theorem State.modTr_host (s : State) (f : Transit → Transit) : (s.modTr f).host = s.host := rfl
@[simp] theorem State.modTr_fab (s : State) (f : Transit → Transit) : (s.modTr f).fab = s.fab := rfl
@[simp] theorem State.modTr_tr (s : State) (f : Transit → Transit) : (s.modTr f).tr = f s.tr := rfl
@[simp] theorem State.modTr_vault (s : State) (f : Transit → Transit) : (s.modTr f).vault = s.vault := rfl
@[simp] theorem State.modTr_reg (s : State) (f : Transit → Transit) : (s.modTr f).reg = s.reg := rfl
@[simp] theorem State.modTr_cur (s : State) (f : Transit → Transit) : (s.modTr f).cur = s.cur := rfl
@[simp] theorem State.modTr_alm (s : State) (f : Transit → Transit) : (s.modTr f).alm = s.alm := rfl
@[simp] theorem State.modTr_sup (s : State) (f : Transit → Transit) : (s.modTr f).sup = s.sup := rfl
@[simp] theorem State.modTr_glob (s : State) (f : Transit → Transit) : (s.modTr f).glob = s.glob := rfl
@[simp] theorem State.modTr_wire (s : State) (f : Transit → Transit) : (s.modTr f).wire = s.wire := rfl
@[simp] theorem State.modTr_pending (s : State) (f : Transit → Transit) : (s.modTr f).pending = s.pending := rfl

@[simp] theorem State.modVault_cores (s : State) (f : Vault → Vault) : (s.modVault f).cores = s.cores := rfl
@[simp] theorem State.modVault_mem (s : State) (f : Vault → Vault) : (s.modVault f).mem = s.mem := rfl
@[simp] theorem State.modVault_host (s : State) (f : Vault → Vault) : (s.modVault f).host = s.host := rfl
@[simp] theorem State.modVault_fab (s : State) (f : Vault → Vault) : (s.modVault f).fab = s.fab := rfl
@[simp] theorem State.modVault_tr (s : State) (f : Vault → Vault) : (s.modVault f).tr = s.tr := rfl
@[simp] theorem State.modVault_vault (s : State) (f : Vault → Vault) : (s.modVault f).vault = f s.vault := rfl
@[simp] theorem State.modVault_reg (s : State) (f : Vault → Vault) : (s.modVault f).reg = s.reg := rfl
@[simp] theorem State.modVault_cur (s : State) (f : Vault → Vault) : (s.modVault f).cur = s.cur := rfl
@[simp] theorem State.modVault_alm (s : State) (f : Vault → Vault) : (s.modVault f).alm = s.alm := rfl
@[simp] theorem State.modVault_sup (s : State) (f : Vault → Vault) : (s.modVault f).sup = s.sup := rfl
@[simp] theorem State.modVault_glob (s : State) (f : Vault → Vault) : (s.modVault f).glob = s.glob := rfl
@[simp] theorem State.modVault_wire (s : State) (f : Vault → Vault) : (s.modVault f).wire = s.wire := rfl
@[simp] theorem State.modVault_pending (s : State) (f : Vault → Vault) : (s.modVault f).pending = s.pending := rfl

@[simp] theorem State.modReg_cores (s : State) (f : Registrar → Registrar) : (s.modReg f).cores = s.cores := rfl
@[simp] theorem State.modReg_mem (s : State) (f : Registrar → Registrar) : (s.modReg f).mem = s.mem := rfl
@[simp] theorem State.modReg_host (s : State) (f : Registrar → Registrar) : (s.modReg f).host = s.host := rfl
@[simp] theorem State.modReg_fab (s : State) (f : Registrar → Registrar) : (s.modReg f).fab = s.fab := rfl
@[simp] theorem State.modReg_tr (s : State) (f : Registrar → Registrar) : (s.modReg f).tr = s.tr := rfl
@[simp] theorem State.modReg_vault (s : State) (f : Registrar → Registrar) : (s.modReg f).vault = s.vault := rfl
@[simp] theorem State.modReg_reg (s : State) (f : Registrar → Registrar) : (s.modReg f).reg = f s.reg := rfl
@[simp] theorem State.modReg_cur (s : State) (f : Registrar → Registrar) : (s.modReg f).cur = s.cur := rfl
@[simp] theorem State.modReg_alm (s : State) (f : Registrar → Registrar) : (s.modReg f).alm = s.alm := rfl
@[simp] theorem State.modReg_sup (s : State) (f : Registrar → Registrar) : (s.modReg f).sup = s.sup := rfl
@[simp] theorem State.modReg_glob (s : State) (f : Registrar → Registrar) : (s.modReg f).glob = s.glob := rfl
@[simp] theorem State.modReg_wire (s : State) (f : Registrar → Registrar) : (s.modReg f).wire = s.wire := rfl
@[simp] theorem State.modReg_pending (s : State) (f : Registrar → Registrar) : (s.modReg f).pending = s.pending := rfl

@[simp] theorem State.modCur_cores (s : State) (f : Curator → Curator) : (s.modCur f).cores = s.cores := rfl
@[simp] theorem State.modCur_mem (s : State) (f : Curator → Curator) : (s.modCur f).mem = s.mem := rfl
@[simp] theorem State.modCur_host (s : State) (f : Curator → Curator) : (s.modCur f).host = s.host := rfl
@[simp] theorem State.modCur_fab (s : State) (f : Curator → Curator) : (s.modCur f).fab = s.fab := rfl
@[simp] theorem State.modCur_tr (s : State) (f : Curator → Curator) : (s.modCur f).tr = s.tr := rfl
@[simp] theorem State.modCur_vault (s : State) (f : Curator → Curator) : (s.modCur f).vault = s.vault := rfl
@[simp] theorem State.modCur_reg (s : State) (f : Curator → Curator) : (s.modCur f).reg = s.reg := rfl
@[simp] theorem State.modCur_cur (s : State) (f : Curator → Curator) : (s.modCur f).cur = f s.cur := rfl
@[simp] theorem State.modCur_alm (s : State) (f : Curator → Curator) : (s.modCur f).alm = s.alm := rfl
@[simp] theorem State.modCur_sup (s : State) (f : Curator → Curator) : (s.modCur f).sup = s.sup := rfl
@[simp] theorem State.modCur_glob (s : State) (f : Curator → Curator) : (s.modCur f).glob = s.glob := rfl
@[simp] theorem State.modCur_wire (s : State) (f : Curator → Curator) : (s.modCur f).wire = s.wire := rfl
@[simp] theorem State.modCur_pending (s : State) (f : Curator → Curator) : (s.modCur f).pending = s.pending := rfl

@[simp] theorem State.modAlm_cores (s : State) (f : Almanac → Almanac) : (s.modAlm f).cores = s.cores := rfl
@[simp] theorem State.modAlm_mem (s : State) (f : Almanac → Almanac) : (s.modAlm f).mem = s.mem := rfl
@[simp] theorem State.modAlm_host (s : State) (f : Almanac → Almanac) : (s.modAlm f).host = s.host := rfl
@[simp] theorem State.modAlm_fab (s : State) (f : Almanac → Almanac) : (s.modAlm f).fab = s.fab := rfl
@[simp] theorem State.modAlm_tr (s : State) (f : Almanac → Almanac) : (s.modAlm f).tr = s.tr := rfl
@[simp] theorem State.modAlm_vault (s : State) (f : Almanac → Almanac) : (s.modAlm f).vault = s.vault := rfl
@[simp] theorem State.modAlm_reg (s : State) (f : Almanac → Almanac) : (s.modAlm f).reg = s.reg := rfl
@[simp] theorem State.modAlm_cur (s : State) (f : Almanac → Almanac) : (s.modAlm f).cur = s.cur := rfl
@[simp] theorem State.modAlm_alm (s : State) (f : Almanac → Almanac) : (s.modAlm f).alm = f s.alm := rfl
@[simp] theorem State.modAlm_sup (s : State) (f : Almanac → Almanac) : (s.modAlm f).sup = s.sup := rfl
@[simp] theorem State.modAlm_glob (s : State) (f : Almanac → Almanac) : (s.modAlm f).glob = s.glob := rfl
@[simp] theorem State.modAlm_wire (s : State) (f : Almanac → Almanac) : (s.modAlm f).wire = s.wire := rfl
@[simp] theorem State.modAlm_pending (s : State) (f : Almanac → Almanac) : (s.modAlm f).pending = s.pending := rfl

@[simp] theorem State.modSup_cores (s : State) (f : Supply → Supply) : (s.modSup f).cores = s.cores := rfl
@[simp] theorem State.modSup_mem (s : State) (f : Supply → Supply) : (s.modSup f).mem = s.mem := rfl
@[simp] theorem State.modSup_host (s : State) (f : Supply → Supply) : (s.modSup f).host = s.host := rfl
@[simp] theorem State.modSup_fab (s : State) (f : Supply → Supply) : (s.modSup f).fab = s.fab := rfl
@[simp] theorem State.modSup_tr (s : State) (f : Supply → Supply) : (s.modSup f).tr = s.tr := rfl
@[simp] theorem State.modSup_vault (s : State) (f : Supply → Supply) : (s.modSup f).vault = s.vault := rfl
@[simp] theorem State.modSup_reg (s : State) (f : Supply → Supply) : (s.modSup f).reg = s.reg := rfl
@[simp] theorem State.modSup_cur (s : State) (f : Supply → Supply) : (s.modSup f).cur = s.cur := rfl
@[simp] theorem State.modSup_alm (s : State) (f : Supply → Supply) : (s.modSup f).alm = s.alm := rfl
@[simp] theorem State.modSup_sup (s : State) (f : Supply → Supply) : (s.modSup f).sup = f s.sup := rfl
@[simp] theorem State.modSup_glob (s : State) (f : Supply → Supply) : (s.modSup f).glob = s.glob := rfl
@[simp] theorem State.modSup_wire (s : State) (f : Supply → Supply) : (s.modSup f).wire = s.wire := rfl
@[simp] theorem State.modSup_pending (s : State) (f : Supply → Supply) : (s.modSup f).pending = s.pending := rfl

@[simp] theorem State.modGlob_cores (s : State) (f : Glob → Glob) : (s.modGlob f).cores = s.cores := rfl
@[simp] theorem State.modGlob_mem (s : State) (f : Glob → Glob) : (s.modGlob f).mem = s.mem := rfl
@[simp] theorem State.modGlob_host (s : State) (f : Glob → Glob) : (s.modGlob f).host = s.host := rfl
@[simp] theorem State.modGlob_fab (s : State) (f : Glob → Glob) : (s.modGlob f).fab = s.fab := rfl
@[simp] theorem State.modGlob_tr (s : State) (f : Glob → Glob) : (s.modGlob f).tr = s.tr := rfl
@[simp] theorem State.modGlob_vault (s : State) (f : Glob → Glob) : (s.modGlob f).vault = s.vault := rfl
@[simp] theorem State.modGlob_reg (s : State) (f : Glob → Glob) : (s.modGlob f).reg = s.reg := rfl
@[simp] theorem State.modGlob_cur (s : State) (f : Glob → Glob) : (s.modGlob f).cur = s.cur := rfl
@[simp] theorem State.modGlob_alm (s : State) (f : Glob → Glob) : (s.modGlob f).alm = s.alm := rfl
@[simp] theorem State.modGlob_sup (s : State) (f : Glob → Glob) : (s.modGlob f).sup = s.sup := rfl
@[simp] theorem State.modGlob_glob (s : State) (f : Glob → Glob) : (s.modGlob f).glob = f s.glob := rfl
@[simp] theorem State.modGlob_wire (s : State) (f : Glob → Glob) : (s.modGlob f).wire = s.wire := rfl
@[simp] theorem State.modGlob_pending (s : State) (f : Glob → Glob) : (s.modGlob f).pending = s.pending := rfl

@[simp] theorem State.modCore_mem (s : State) (c : Fin 96) (f : Core → Core) : (s.modCore c f).mem = s.mem := rfl
@[simp] theorem State.modCore_host (s : State) (c : Fin 96) (f : Core → Core) : (s.modCore c f).host = s.host := rfl
@[simp] theorem State.modCore_fab (s : State) (c : Fin 96) (f : Core → Core) : (s.modCore c f).fab = s.fab := rfl
@[simp] theorem State.modCore_tr (s : State) (c : Fin 96) (f : Core → Core) : (s.modCore c f).tr = s.tr := rfl
@[simp] theorem State.modCore_vault (s : State) (c : Fin 96) (f : Core → Core) : (s.modCore c f).vault = s.vault := rfl
@[simp] theorem State.modCore_reg (s : State) (c : Fin 96) (f : Core → Core) : (s.modCore c f).reg = s.reg := rfl
@[simp] theorem State.modCore_cur (s : State) (c : Fin 96) (f : Core → Core) : (s.modCore c f).cur = s.cur := rfl
@[simp] theorem State.modCore_alm (s : State) (c : Fin 96) (f : Core → Core) : (s.modCore c f).alm = s.alm := rfl
@[simp] theorem State.modCore_sup (s : State) (c : Fin 96) (f : Core → Core) : (s.modCore c f).sup = s.sup := rfl
@[simp] theorem State.modCore_glob (s : State) (c : Fin 96) (f : Core → Core) : (s.modCore c f).glob = s.glob := rfl
@[simp] theorem State.modCore_wire (s : State) (c : Fin 96) (f : Core → Core) : (s.modCore c f).wire = s.wire := rfl
@[simp] theorem State.modCore_pending (s : State) (c : Fin 96) (f : Core → Core) : (s.modCore c f).pending = s.pending := rfl
@[simp] theorem State.modStream_mem (s : State) (c : Fin 96) (t : Fin 4) (f : Stream → Stream) :
    (s.modStream c t f).mem = s.mem := rfl
@[simp] theorem State.modStream_host (s : State) (c : Fin 96) (t : Fin 4) (f : Stream → Stream) :
    (s.modStream c t f).host = s.host := rfl
@[simp] theorem State.modStream_fab (s : State) (c : Fin 96) (t : Fin 4) (f : Stream → Stream) :
    (s.modStream c t f).fab = s.fab := rfl
@[simp] theorem State.modStream_tr (s : State) (c : Fin 96) (t : Fin 4) (f : Stream → Stream) :
    (s.modStream c t f).tr = s.tr := rfl
@[simp] theorem State.modStream_vault (s : State) (c : Fin 96) (t : Fin 4) (f : Stream → Stream) :
    (s.modStream c t f).vault = s.vault := rfl
@[simp] theorem State.modStream_reg (s : State) (c : Fin 96) (t : Fin 4) (f : Stream → Stream) :
    (s.modStream c t f).reg = s.reg := rfl
@[simp] theorem State.modStream_cur (s : State) (c : Fin 96) (t : Fin 4) (f : Stream → Stream) :
    (s.modStream c t f).cur = s.cur := rfl
@[simp] theorem State.modStream_alm (s : State) (c : Fin 96) (t : Fin 4) (f : Stream → Stream) :
    (s.modStream c t f).alm = s.alm := rfl
@[simp] theorem State.modStream_sup (s : State) (c : Fin 96) (t : Fin 4) (f : Stream → Stream) :
    (s.modStream c t f).sup = s.sup := rfl
@[simp] theorem State.modStream_glob (s : State) (c : Fin 96) (t : Fin 4) (f : Stream → Stream) :
    (s.modStream c t f).glob = s.glob := rfl
@[simp] theorem State.modStream_wire (s : State) (c : Fin 96) (t : Fin 4) (f : Stream → Stream) :
    (s.modStream c t f).wire = s.wire := rfl
@[simp] theorem State.modStream_pending (s : State) (c : Fin 96) (t : Fin 4) (f : Stream → Stream) :
    (s.modStream c t f).pending = s.pending := rfl
@[simp] theorem State.emit_cores (s : State) (e : WireEvent) : (s.emit e).cores = s.cores := rfl
@[simp] theorem State.emit_mem (s : State) (e : WireEvent) : (s.emit e).mem = s.mem := rfl
@[simp] theorem State.emit_host (s : State) (e : WireEvent) : (s.emit e).host = s.host := rfl
@[simp] theorem State.emit_fab (s : State) (e : WireEvent) : (s.emit e).fab = s.fab := rfl
@[simp] theorem State.emit_tr (s : State) (e : WireEvent) : (s.emit e).tr = s.tr := rfl
@[simp] theorem State.emit_vault (s : State) (e : WireEvent) : (s.emit e).vault = s.vault := rfl
@[simp] theorem State.emit_reg (s : State) (e : WireEvent) : (s.emit e).reg = s.reg := rfl
@[simp] theorem State.emit_cur (s : State) (e : WireEvent) : (s.emit e).cur = s.cur := rfl
@[simp] theorem State.emit_alm (s : State) (e : WireEvent) : (s.emit e).alm = s.alm := rfl
@[simp] theorem State.emit_sup (s : State) (e : WireEvent) : (s.emit e).sup = s.sup := rfl
@[simp] theorem State.emit_glob (s : State) (e : WireEvent) : (s.emit e).glob = s.glob := rfl
@[simp] theorem State.emit_wire (s : State) (e : WireEvent) : (s.emit e).wire = s.wire ++ [e] := rfl
@[simp] theorem State.emit_pending (s : State) (e : WireEvent) : (s.emit e).pending = s.pending := rfl
@[simp] theorem State.hole_cores (s : State) : s.hole.cores = s.cores := rfl
@[simp] theorem State.draw32_cores (s : State) : s.draw32.2.cores = s.cores := rfl
@[simp] theorem State.draw64_cores (s : State) : s.draw64.2.cores = s.cores := rfl
@[simp] theorem State.hole_mem (s : State) : s.hole.mem = s.mem := rfl
@[simp] theorem State.draw32_mem (s : State) : s.draw32.2.mem = s.mem := rfl
@[simp] theorem State.draw64_mem (s : State) : s.draw64.2.mem = s.mem := rfl
@[simp] theorem State.hole_host (s : State) : s.hole.host = s.host := rfl
@[simp] theorem State.draw32_host (s : State) : s.draw32.2.host = s.host := rfl
@[simp] theorem State.draw64_host (s : State) : s.draw64.2.host = s.host := rfl
@[simp] theorem State.hole_fab (s : State) : s.hole.fab = s.fab := rfl
@[simp] theorem State.draw32_fab (s : State) : s.draw32.2.fab = s.fab := rfl
@[simp] theorem State.draw64_fab (s : State) : s.draw64.2.fab = s.fab := rfl
@[simp] theorem State.hole_tr (s : State) : s.hole.tr = s.tr := rfl
@[simp] theorem State.draw32_tr (s : State) : s.draw32.2.tr = s.tr := rfl
@[simp] theorem State.draw64_tr (s : State) : s.draw64.2.tr = s.tr := rfl
@[simp] theorem State.hole_vault (s : State) : s.hole.vault = s.vault := rfl
@[simp] theorem State.draw32_vault (s : State) : s.draw32.2.vault = s.vault := rfl
@[simp] theorem State.draw64_vault (s : State) : s.draw64.2.vault = s.vault := rfl
@[simp] theorem State.hole_reg (s : State) : s.hole.reg = s.reg := rfl
@[simp] theorem State.draw32_reg (s : State) : s.draw32.2.reg = s.reg := rfl
@[simp] theorem State.draw64_reg (s : State) : s.draw64.2.reg = s.reg := rfl
@[simp] theorem State.hole_cur (s : State) : s.hole.cur = s.cur := rfl
@[simp] theorem State.draw32_cur (s : State) : s.draw32.2.cur = s.cur := rfl
@[simp] theorem State.draw64_cur (s : State) : s.draw64.2.cur = s.cur := rfl
@[simp] theorem State.hole_alm (s : State) : s.hole.alm = s.alm := rfl
@[simp] theorem State.draw32_alm (s : State) : s.draw32.2.alm = s.alm := rfl
@[simp] theorem State.draw64_alm (s : State) : s.draw64.2.alm = s.alm := rfl
@[simp] theorem State.hole_sup (s : State) : s.hole.sup = s.sup := rfl
@[simp] theorem State.draw32_sup (s : State) : s.draw32.2.sup = s.sup := rfl
@[simp] theorem State.draw64_sup (s : State) : s.draw64.2.sup = s.sup := rfl
@[simp] theorem State.hole_wire (s : State) : s.hole.wire = s.wire := rfl
@[simp] theorem State.draw32_wire (s : State) : s.draw32.2.wire = s.wire := rfl
@[simp] theorem State.draw64_wire (s : State) : s.draw64.2.wire = s.wire := rfl
@[simp] theorem State.hole_pending (s : State) : s.hole.pending = s.pending := rfl
@[simp] theorem State.draw32_pending (s : State) : s.draw32.2.pending = s.pending := rfl
@[simp] theorem State.draw64_pending (s : State) : s.draw64.2.pending = s.pending := rfl
@[simp] theorem State.send_cores (s : State) (x : FenceSig) : (s.send x).cores = s.cores := rfl
@[simp] theorem State.send_mem (s : State) (x : FenceSig) : (s.send x).mem = s.mem := rfl
@[simp] theorem State.send_fab (s : State) (x : FenceSig) : (s.send x).fab = s.fab := rfl
@[simp] theorem State.send_tr (s : State) (x : FenceSig) : (s.send x).tr = s.tr := rfl
@[simp] theorem State.send_vault (s : State) (x : FenceSig) : (s.send x).vault = s.vault := rfl
@[simp] theorem State.send_reg (s : State) (x : FenceSig) : (s.send x).reg = s.reg := rfl
@[simp] theorem State.send_cur (s : State) (x : FenceSig) : (s.send x).cur = s.cur := rfl
@[simp] theorem State.send_alm (s : State) (x : FenceSig) : (s.send x).alm = s.alm := rfl
@[simp] theorem State.send_sup (s : State) (x : FenceSig) : (s.send x).sup = s.sup := rfl
@[simp] theorem State.send_glob (s : State) (x : FenceSig) : (s.send x).glob = s.glob := rfl
@[simp] theorem State.send_wire (s : State) (x : FenceSig) : (s.send x).wire = s.wire := rfl
@[simp] theorem State.send_pending (s : State) (x : FenceSig) : (s.send x).pending = s.pending := rfl
@[simp] theorem State.setCtxE_cores (s : State) (x : BitVec 9) (e : List Word) : (s.setCtxE x e).cores = s.cores := rfl
@[simp] theorem State.setCtxE_mem (s : State) (x : BitVec 9) (e : List Word) : (s.setCtxE x e).mem = s.mem := rfl
@[simp] theorem State.setCtxE_fab (s : State) (x : BitVec 9) (e : List Word) : (s.setCtxE x e).fab = s.fab := rfl
@[simp] theorem State.setCtxE_tr (s : State) (x : BitVec 9) (e : List Word) : (s.setCtxE x e).tr = s.tr := rfl
@[simp] theorem State.setCtxE_vault (s : State) (x : BitVec 9) (e : List Word) : (s.setCtxE x e).vault = s.vault := rfl
@[simp] theorem State.setCtxE_reg (s : State) (x : BitVec 9) (e : List Word) : (s.setCtxE x e).reg = s.reg := rfl
@[simp] theorem State.setCtxE_cur (s : State) (x : BitVec 9) (e : List Word) : (s.setCtxE x e).cur = s.cur := rfl
@[simp] theorem State.setCtxE_alm (s : State) (x : BitVec 9) (e : List Word) : (s.setCtxE x e).alm = s.alm := rfl
@[simp] theorem State.setCtxE_sup (s : State) (x : BitVec 9) (e : List Word) : (s.setCtxE x e).sup = s.sup := rfl
@[simp] theorem State.setCtxE_glob (s : State) (x : BitVec 9) (e : List Word) : (s.setCtxE x e).glob = s.glob := rfl
@[simp] theorem State.setCtxE_wire (s : State) (x : BitVec 9) (e : List Word) : (s.setCtxE x e).wire = s.wire := rfl
@[simp] theorem State.setCtxE_pending (s : State) (x : BitVec 9) (e : List Word) : (s.setCtxE x e).pending = s.pending := rfl
@[simp] theorem State.setQueueE_cores (s : State) (x : BitVec 13) (e : List Word) : (s.setQueueE x e).cores = s.cores := rfl
@[simp] theorem State.setQueueE_mem (s : State) (x : BitVec 13) (e : List Word) : (s.setQueueE x e).mem = s.mem := rfl
@[simp] theorem State.setQueueE_fab (s : State) (x : BitVec 13) (e : List Word) : (s.setQueueE x e).fab = s.fab := rfl
@[simp] theorem State.setQueueE_tr (s : State) (x : BitVec 13) (e : List Word) : (s.setQueueE x e).tr = s.tr := rfl
@[simp] theorem State.setQueueE_vault (s : State) (x : BitVec 13) (e : List Word) : (s.setQueueE x e).vault = s.vault := rfl
@[simp] theorem State.setQueueE_reg (s : State) (x : BitVec 13) (e : List Word) : (s.setQueueE x e).reg = s.reg := rfl
@[simp] theorem State.setQueueE_cur (s : State) (x : BitVec 13) (e : List Word) : (s.setQueueE x e).cur = s.cur := rfl
@[simp] theorem State.setQueueE_alm (s : State) (x : BitVec 13) (e : List Word) : (s.setQueueE x e).alm = s.alm := rfl
@[simp] theorem State.setQueueE_sup (s : State) (x : BitVec 13) (e : List Word) : (s.setQueueE x e).sup = s.sup := rfl
@[simp] theorem State.setQueueE_glob (s : State) (x : BitVec 13) (e : List Word) : (s.setQueueE x e).glob = s.glob := rfl
@[simp] theorem State.setQueueE_wire (s : State) (x : BitVec 13) (e : List Word) : (s.setQueueE x e).wire = s.wire := rfl
@[simp] theorem State.setQueueE_pending (s : State) (x : BitVec 13) (e : List Word) : (s.setQueueE x e).pending = s.pending := rfl
@[simp] theorem State.setFenceE_cores (s : State) (x : BitVec 14) (e : List Word) : (s.setFenceE x e).cores = s.cores := rfl
@[simp] theorem State.setFenceE_mem (s : State) (x : BitVec 14) (e : List Word) : (s.setFenceE x e).mem = s.mem := rfl
@[simp] theorem State.setFenceE_fab (s : State) (x : BitVec 14) (e : List Word) : (s.setFenceE x e).fab = s.fab := rfl
@[simp] theorem State.setFenceE_tr (s : State) (x : BitVec 14) (e : List Word) : (s.setFenceE x e).tr = s.tr := rfl
@[simp] theorem State.setFenceE_vault (s : State) (x : BitVec 14) (e : List Word) : (s.setFenceE x e).vault = s.vault := rfl
@[simp] theorem State.setFenceE_reg (s : State) (x : BitVec 14) (e : List Word) : (s.setFenceE x e).reg = s.reg := rfl
@[simp] theorem State.setFenceE_cur (s : State) (x : BitVec 14) (e : List Word) : (s.setFenceE x e).cur = s.cur := rfl
@[simp] theorem State.setFenceE_alm (s : State) (x : BitVec 14) (e : List Word) : (s.setFenceE x e).alm = s.alm := rfl
@[simp] theorem State.setFenceE_sup (s : State) (x : BitVec 14) (e : List Word) : (s.setFenceE x e).sup = s.sup := rfl
@[simp] theorem State.setFenceE_glob (s : State) (x : BitVec 14) (e : List Word) : (s.setFenceE x e).glob = s.glob := rfl
@[simp] theorem State.setFenceE_wire (s : State) (x : BitVec 14) (e : List Word) : (s.setFenceE x e).wire = s.wire := rfl
@[simp] theorem State.setFenceE_pending (s : State) (x : BitVec 14) (e : List Word) : (s.setFenceE x e).pending = s.pending := rfl

/-! ### Cores -/

@[simp] theorem Core.modStream_mode (k : Core) (t : Fin 4) (f : Stream → Stream) : (k.modStream t f).mode = k.mode := rfl
@[simp] theorem Core.leaveSem_mode (k : Core) (t : Fin 4) : (k.leaveSem t).mode = k.mode := rfl
@[simp] theorem Core.modStream_draining (k : Core) (t : Fin 4) (f : Stream → Stream) : (k.modStream t f).draining = k.draining := rfl
@[simp] theorem Core.leaveSem_draining (k : Core) (t : Fin 4) : (k.leaveSem t).draining = k.draining := rfl
@[simp] theorem Core.modStream_ctx (k : Core) (t : Fin 4) (f : Stream → Stream) : (k.modStream t f).ctx = k.ctx := rfl
@[simp] theorem Core.leaveSem_ctx (k : Core) (t : Fin 4) : (k.leaveSem t).ctx = k.ctx := rfl
@[simp] theorem Core.modStream_idleTicks (k : Core) (t : Fin 4) (f : Stream → Stream) : (k.modStream t f).idleTicks = k.idleTicks := rfl
@[simp] theorem Core.leaveSem_idleTicks (k : Core) (t : Fin 4) : (k.leaveSem t).idleTicks = k.idleTicks := rfl
@[simp] theorem Core.modStream_lastCtx (k : Core) (t : Fin 4) (f : Stream → Stream) : (k.modStream t f).lastCtx = k.lastCtx := rfl
@[simp] theorem Core.leaveSem_lastCtx (k : Core) (t : Fin 4) : (k.leaveSem t).lastCtx = k.lastCtx := rfl
@[simp] theorem Core.modStream_trapDrop (k : Core) (t : Fin 4) (f : Stream → Stream) : (k.modStream t f).trapDrop = k.trapDrop := rfl
@[simp] theorem Core.leaveSem_trapDrop (k : Core) (t : Fin 4) : (k.leaveSem t).trapDrop = k.trapDrop := rfl
@[simp] theorem Core.modStream_semOvf (k : Core) (t : Fin 4) (f : Stream → Stream) : (k.modStream t f).semOvf = k.semOvf := rfl
@[simp] theorem Core.leaveSem_semOvf (k : Core) (t : Fin 4) : (k.leaveSem t).semOvf = k.semOvf := rfl
@[simp] theorem Core.modStream_prio (k : Core) (t : Fin 4) (f : Stream → Stream) : (k.modStream t f).prio = k.prio := rfl
@[simp] theorem Core.leaveSem_prio (k : Core) (t : Fin 4) : (k.leaveSem t).prio = k.prio := rfl
@[simp] theorem Core.modStream_waitlimit (k : Core) (t : Fin 4) (f : Stream → Stream) : (k.modStream t f).waitlimit = k.waitlimit := rfl
@[simp] theorem Core.leaveSem_waitlimit (k : Core) (t : Fin 4) : (k.leaveSem t).waitlimit = k.waitlimit := rfl
@[simp] theorem Core.modStream_rr (k : Core) (t : Fin 4) (f : Stream → Stream) : (k.modStream t f).rr = k.rr := rfl
@[simp] theorem Core.leaveSem_rr (k : Core) (t : Fin 4) : (k.leaveSem t).rr = k.rr := rfl
@[simp] theorem Core.modStream_issued (k : Core) (t : Fin 4) (f : Stream → Stream) : (k.modStream t f).issued = k.issued := rfl
@[simp] theorem Core.leaveSem_issued (k : Core) (t : Fin 4) : (k.leaveSem t).issued = k.issued := rfl
@[simp] theorem Core.modStream_dualcyc (k : Core) (t : Fin 4) (f : Stream → Stream) : (k.modStream t f).dualcyc = k.dualcyc := rfl
@[simp] theorem Core.leaveSem_dualcyc (k : Core) (t : Fin 4) : (k.leaveSem t).dualcyc = k.dualcyc := rfl
@[simp] theorem Core.modStream_sems (k : Core) (t : Fin 4) (f : Stream → Stream) : (k.modStream t f).sems = k.sems := rfl
@[simp] theorem Core.leaveSem_sems (k : Core) (t : Fin 4) : (k.leaveSem t).sems = k.sems := rfl
@[simp] theorem Core.modStream_semOrder (k : Core) (t : Fin 4) (f : Stream → Stream) : (k.modStream t f).semOrder = k.semOrder := rfl
@[simp] theorem Core.modStream_icache (k : Core) (t : Fin 4) (f : Stream → Stream) : (k.modStream t f).icache = k.icache := rfl
@[simp] theorem Core.leaveSem_icache (k : Core) (t : Fin 4) : (k.leaveSem t).icache = k.icache := rfl
@[simp] theorem Core.modStream_mxMode (k : Core) (t : Fin 4) (f : Stream → Stream) : (k.modStream t f).mxMode = k.mxMode := rfl
@[simp] theorem Core.leaveSem_mxMode (k : Core) (t : Fin 4) : (k.leaveSem t).mxMode = k.mxMode := rfl
@[simp] theorem Core.modStream_modeBusy (k : Core) (t : Fin 4) (f : Stream → Stream) : (k.modStream t f).modeBusy = k.modeBusy := rfl
@[simp] theorem Core.leaveSem_modeBusy (k : Core) (t : Fin 4) : (k.leaveSem t).modeBusy = k.modeBusy := rfl
@[simp] theorem Core.modStream_modeWait (k : Core) (t : Fin 4) (f : Stream → Stream) : (k.modStream t f).modeWait = k.modeWait := rfl
@[simp] theorem Core.leaveSem_modeWait (k : Core) (t : Fin 4) : (k.leaveSem t).modeWait = k.modeWait := rfl
@[simp] theorem Core.modStream_present (k : Core) (t : Fin 4) (f : Stream → Stream) : (k.modStream t f).present = k.present := rfl
@[simp] theorem Core.leaveSem_present (k : Core) (t : Fin 4) : (k.leaveSem t).present = k.present := rfl
@[simp] theorem Core.modStream_rampEn (k : Core) (t : Fin 4) (f : Stream → Stream) : (k.modStream t f).rampEn = k.rampEn := rfl
@[simp] theorem Core.leaveSem_rampEn (k : Core) (t : Fin 4) : (k.leaveSem t).rampEn = k.rampEn := rfl
@[simp] theorem Core.modStream_rampLen (k : Core) (t : Fin 4) (f : Stream → Stream) : (k.modStream t f).rampLen = k.rampLen := rfl
@[simp] theorem Core.leaveSem_rampLen (k : Core) (t : Fin 4) : (k.leaveSem t).rampLen = k.rampLen := rfl
@[simp] theorem Core.modStream_mxBusycyc (k : Core) (t : Fin 4) (f : Stream → Stream) : (k.modStream t f).mxBusycyc = k.mxBusycyc := rfl
@[simp] theorem Core.leaveSem_mxBusycyc (k : Core) (t : Fin 4) : (k.leaveSem t).mxBusycyc = k.mxBusycyc := rfl
@[simp] theorem Core.modStream_mxStallcyc (k : Core) (t : Fin 4) (f : Stream → Stream) : (k.modStream t f).mxStallcyc = k.mxStallcyc := rfl
@[simp] theorem Core.leaveSem_mxStallcyc (k : Core) (t : Fin 4) : (k.leaveSem t).mxStallcyc = k.mxStallcyc := rfl
@[simp] theorem Core.modStream_pfault (k : Core) (t : Fin 4) (f : Stream → Stream) : (k.modStream t f).pfault = k.pfault := rfl
@[simp] theorem Core.leaveSem_pfault (k : Core) (t : Fin 4) : (k.leaveSem t).pfault = k.pfault := rfl
@[simp] theorem Core.modStream_tileQ (k : Core) (t : Fin 4) (f : Stream → Stream) : (k.modStream t f).tileQ = k.tileQ := rfl
@[simp] theorem Core.leaveSem_tileQ (k : Core) (t : Fin 4) : (k.leaveSem t).tileQ = k.tileQ := rfl
@[simp] theorem Core.modStream_arrs (k : Core) (t : Fin 4) (f : Stream → Stream) : (k.modStream t f).arrs = k.arrs := rfl
@[simp] theorem Core.leaveSem_arrs (k : Core) (t : Fin 4) : (k.leaveSem t).arrs = k.arrs := rfl
@[simp] theorem Core.modStream_odesc (k : Core) (t : Fin 4) (f : Stream → Stream) : (k.modStream t f).odesc = k.odesc := rfl
@[simp] theorem Core.leaveSem_odesc (k : Core) (t : Fin 4) : (k.leaveSem t).odesc = k.odesc := rfl
@[simp] theorem Core.modStream_chainFlags (k : Core) (t : Fin 4) (f : Stream → Stream) : (k.modStream t f).chainFlags = k.chainFlags := rfl
@[simp] theorem Core.leaveSem_chainFlags (k : Core) (t : Fin 4) : (k.leaveSem t).chainFlags = k.chainFlags := rfl
@[simp] theorem Core.modStream_outQ (k : Core) (t : Fin 4) (f : Stream → Stream) : (k.modStream t f).outQ = k.outQ := rfl
@[simp] theorem Core.leaveSem_outQ (k : Core) (t : Fin 4) : (k.leaveSem t).outQ = k.outQ := rfl
@[simp] theorem Core.modStream_handoff (k : Core) (t : Fin 4) (f : Stream → Stream) : (k.modStream t f).handoff = k.handoff := rfl
@[simp] theorem Core.leaveSem_handoff (k : Core) (t : Fin 4) : (k.leaveSem t).handoff = k.handoff := rfl
@[simp] theorem Core.modStream_nextHandoff (k : Core) (t : Fin 4) (f : Stream → Stream) : (k.modStream t f).nextHandoff = k.nextHandoff := rfl
@[simp] theorem Core.leaveSem_nextHandoff (k : Core) (t : Fin 4) : (k.leaveSem t).nextHandoff = k.nextHandoff := rfl
@[simp] theorem Core.modStream_tflags (k : Core) (t : Fin 4) (f : Stream → Stream) : (k.modStream t f).tflags = k.tflags := rfl
@[simp] theorem Core.leaveSem_tflags (k : Core) (t : Fin 4) : (k.leaveSem t).tflags = k.tflags := rfl
@[simp] theorem Core.modStream_opFault (k : Core) (t : Fin 4) (f : Stream → Stream) : (k.modStream t f).opFault = k.opFault := rfl
@[simp] theorem Core.leaveSem_opFault (k : Core) (t : Fin 4) : (k.leaveSem t).opFault = k.opFault := rfl
@[simp] theorem Core.modStream_plates (k : Core) (t : Fin 4) (f : Stream → Stream) : (k.modStream t f).plates = k.plates := rfl
@[simp] theorem Core.leaveSem_plates (k : Core) (t : Fin 4) : (k.leaveSem t).plates = k.plates := rfl
@[simp] theorem Core.modStream_vflags (k : Core) (t : Fin 4) (f : Stream → Stream) : (k.modStream t f).vflags = k.vflags := rfl
@[simp] theorem Core.leaveSem_vflags (k : Core) (t : Fin 4) : (k.leaveSem t).vflags = k.vflags := rfl
@[simp] theorem Core.modStream_vecQ (k : Core) (t : Fin 4) (f : Stream → Stream) : (k.modStream t f).vecQ = k.vecQ := rfl
@[simp] theorem Core.leaveSem_vecQ (k : Core) (t : Fin 4) : (k.leaveSem t).vecQ = k.vecQ := rfl
@[simp] theorem Core.modStream_vxFault (k : Core) (t : Fin 4) (f : Stream → Stream) : (k.modStream t f).vxFault = k.vxFault := rfl
@[simp] theorem Core.leaveSem_vxFault (k : Core) (t : Fin 4) : (k.leaveSem t).vxFault = k.vxFault := rfl
@[simp] theorem Core.modStream_genBusy (k : Core) (t : Fin 4) (f : Stream → Stream) : (k.modStream t f).genBusy = k.genBusy := rfl
@[simp] theorem Core.leaveSem_genBusy (k : Core) (t : Fin 4) : (k.leaveSem t).genBusy = k.genBusy := rfl
@[simp] theorem Core.modStream_vxBusycyc (k : Core) (t : Fin 4) (f : Stream → Stream) : (k.modStream t f).vxBusycyc = k.vxBusycyc := rfl
@[simp] theorem Core.leaveSem_vxBusycyc (k : Core) (t : Fin 4) : (k.leaveSem t).vxBusycyc = k.vxBusycyc := rfl
@[simp] theorem Core.modStream_vxTcyc (k : Core) (t : Fin 4) (f : Stream → Stream) : (k.modStream t f).vxTcyc = k.vxTcyc := rfl
@[simp] theorem Core.leaveSem_vxTcyc (k : Core) (t : Fin 4) : (k.leaveSem t).vxTcyc = k.vxTcyc := rfl
@[simp] theorem Core.modStream_gens (k : Core) (t : Fin 4) (f : Stream → Stream) : (k.modStream t f).gens = k.gens := rfl
@[simp] theorem Core.leaveSem_gens (k : Core) (t : Fin 4) : (k.leaveSem t).gens = k.gens := rfl
@[simp] theorem Core.modStream_genHeld (k : Core) (t : Fin 4) (f : Stream → Stream) : (k.modStream t f).genHeld = k.genHeld := rfl
@[simp] theorem Core.leaveSem_genHeld (k : Core) (t : Fin 4) : (k.leaveSem t).genHeld = k.genHeld := rfl
@[simp] theorem Core.modStream_genCapture (k : Core) (t : Fin 4) (f : Stream → Stream) : (k.modStream t f).genCapture = k.genCapture := rfl
@[simp] theorem Core.leaveSem_genCapture (k : Core) (t : Fin 4) : (k.leaveSem t).genCapture = k.genCapture := rfl
@[simp] theorem Core.modStream_ns (k : Core) (t : Fin 4) (f : Stream → Stream) : (k.modStream t f).ns = k.ns := rfl
@[simp] theorem Core.leaveSem_ns (k : Core) (t : Fin 4) : (k.leaveSem t).ns = k.ns := rfl
@[simp] theorem Core.modStream_wq (k : Core) (t : Fin 4) (f : Stream → Stream) : (k.modStream t f).wq = k.wq := rfl
@[simp] theorem Core.leaveSem_wq (k : Core) (t : Fin 4) : (k.leaveSem t).wq = k.wq := rfl
@[simp] theorem Core.modStream_fills (k : Core) (t : Fin 4) (f : Stream → Stream) : (k.modStream t f).fills = k.fills := rfl
@[simp] theorem Core.leaveSem_fills (k : Core) (t : Fin 4) : (k.leaveSem t).fills = k.fills := rfl
@[simp] theorem Core.modStream_fillQ (k : Core) (t : Fin 4) (f : Stream → Stream) : (k.modStream t f).fillQ = k.fillQ := rfl
@[simp] theorem Core.leaveSem_fillQ (k : Core) (t : Fin 4) : (k.leaveSem t).fillQ = k.fillQ := rfl
@[simp] theorem Core.modStream_pfmax (k : Core) (t : Fin 4) (f : Stream → Stream) : (k.modStream t f).pfmax = k.pfmax := rfl
@[simp] theorem Core.leaveSem_pfmax (k : Core) (t : Fin 4) : (k.leaveSem t).pfmax = k.pfmax := rfl
@[simp] theorem Core.modStream_pfdist (k : Core) (t : Fin 4) (f : Stream → Stream) : (k.modStream t f).pfdist = k.pfdist := rfl
@[simp] theorem Core.leaveSem_pfdist (k : Core) (t : Fin 4) : (k.leaveSem t).pfdist = k.pfdist := rfl
@[simp] theorem Core.modStream_pfen (k : Core) (t : Fin 4) (f : Stream → Stream) : (k.modStream t f).pfen = k.pfen := rfl
@[simp] theorem Core.leaveSem_pfen (k : Core) (t : Fin 4) : (k.leaveSem t).pfen = k.pfen := rfl
@[simp] theorem Core.modStream_nsUe (k : Core) (t : Fin 4) (f : Stream → Stream) : (k.modStream t f).nsUe = k.nsUe := rfl
@[simp] theorem Core.leaveSem_nsUe (k : Core) (t : Fin 4) : (k.leaveSem t).nsUe = k.nsUe := rfl
@[simp] theorem Core.modStream_nsCe (k : Core) (t : Fin 4) (f : Stream → Stream) : (k.modStream t f).nsCe = k.nsCe := rfl
@[simp] theorem Core.leaveSem_nsCe (k : Core) (t : Fin 4) : (k.leaveSem t).nsCe = k.nsCe := rfl
@[simp] theorem Core.modStream_nsUeCount (k : Core) (t : Fin 4) (f : Stream → Stream) : (k.modStream t f).nsUeCount = k.nsUeCount := rfl
@[simp] theorem Core.leaveSem_nsUeCount (k : Core) (t : Fin 4) : (k.leaveSem t).nsUeCount = k.nsUeCount := rfl
@[simp] theorem Core.modStream_nsCeCount (k : Core) (t : Fin 4) (f : Stream → Stream) : (k.modStream t f).nsCeCount = k.nsCeCount := rfl
@[simp] theorem Core.leaveSem_nsCeCount (k : Core) (t : Fin 4) : (k.leaveSem t).nsCeCount = k.nsCeCount := rfl
@[simp] theorem Core.modStream_epochs (k : Core) (t : Fin 4) (f : Stream → Stream) : (k.modStream t f).epochs = k.epochs := rfl
@[simp] theorem Core.leaveSem_epochs (k : Core) (t : Fin 4) : (k.leaveSem t).epochs = k.epochs := rfl
@[simp] theorem Core.modStream_dhit (k : Core) (t : Fin 4) (f : Stream → Stream) : (k.modStream t f).dhit = k.dhit := rfl
@[simp] theorem Core.leaveSem_dhit (k : Core) (t : Fin 4) : (k.leaveSem t).dhit = k.dhit := rfl
@[simp] theorem Core.modStream_dmiss (k : Core) (t : Fin 4) (f : Stream → Stream) : (k.modStream t f).dmiss = k.dmiss := rfl
@[simp] theorem Core.leaveSem_dmiss (k : Core) (t : Fin 4) : (k.leaveSem t).dmiss = k.dmiss := rfl
@[simp] theorem Core.modStream_walks (k : Core) (t : Fin 4) (f : Stream → Stream) : (k.modStream t f).walks = k.walks := rfl
@[simp] theorem Core.leaveSem_walks (k : Core) (t : Fin 4) : (k.leaveSem t).walks = k.walks := rfl
@[simp] theorem Core.modStream_pf (k : Core) (t : Fin 4) (f : Stream → Stream) : (k.modStream t f).pf = k.pf := rfl
@[simp] theorem Core.leaveSem_pf (k : Core) (t : Fin 4) : (k.leaveSem t).pf = k.pf := rfl
@[simp] theorem Core.modStream_pfClock (k : Core) (t : Fin 4) (f : Stream → Stream) : (k.modStream t f).pfClock = k.pfClock := rfl
@[simp] theorem Core.leaveSem_pfClock (k : Core) (t : Fin 4) : (k.leaveSem t).pfClock = k.pfClock := rfl
@[simp] theorem Core.modStream_tlb (k : Core) (t : Fin 4) (f : Stream → Stream) : (k.modStream t f).tlb = k.tlb := rfl
@[simp] theorem Core.leaveSem_tlb (k : Core) (t : Fin 4) : (k.leaveSem t).tlb = k.tlb := rfl
@[simp] theorem Core.modStream_tlbUpper (k : Core) (t : Fin 4) (f : Stream → Stream) : (k.modStream t f).tlbUpper = k.tlbUpper := rfl
@[simp] theorem Core.leaveSem_tlbUpper (k : Core) (t : Fin 4) : (k.leaveSem t).tlbUpper = k.tlbUpper := rfl
@[simp] theorem Core.modStream_dmaQ (k : Core) (t : Fin 4) (f : Stream → Stream) : (k.modStream t f).dmaQ = k.dmaQ := rfl
@[simp] theorem Core.leaveSem_dmaQ (k : Core) (t : Fin 4) : (k.leaveSem t).dmaQ = k.dmaQ := rfl
@[simp] theorem Core.modStream_dmaHalted (k : Core) (t : Fin 4) (f : Stream → Stream) : (k.modStream t f).dmaHalted = k.dmaHalted := rfl
@[simp] theorem Core.leaveSem_dmaHalted (k : Core) (t : Fin 4) : (k.leaveSem t).dmaHalted = k.dmaHalted := rfl
@[simp] theorem Core.modStream_dmaFault (k : Core) (t : Fin 4) (f : Stream → Stream) : (k.modStream t f).dmaFault = k.dmaFault := rfl
@[simp] theorem Core.leaveSem_dmaFault (k : Core) (t : Fin 4) : (k.leaveSem t).dmaFault = k.dmaFault := rfl
@[simp] theorem Core.modStream_dmaFaddr (k : Core) (t : Fin 4) (f : Stream → Stream) : (k.modStream t f).dmaFaddr = k.dmaFaddr := rfl
@[simp] theorem Core.leaveSem_dmaFaddr (k : Core) (t : Fin 4) : (k.leaveSem t).dmaFaddr = k.dmaFaddr := rfl
@[simp] theorem Core.modStream_dmaBytes (k : Core) (t : Fin 4) (f : Stream → Stream) : (k.modStream t f).dmaBytes = k.dmaBytes := rfl
@[simp] theorem Core.leaveSem_dmaBytes (k : Core) (t : Fin 4) : (k.leaveSem t).dmaBytes = k.dmaBytes := rfl
@[simp] theorem Core.leaveSem_streams (k : Core) (t : Fin 4) : (k.leaveSem t).streams = k.streams := rfl

@[simp] theorem Core.modStream_self (k : Core) (t : Fin 4) (f : Stream → Stream) :
    (k.modStream t f).streams[t.val] = f k.streams[t.val] := by simp [Core.modStream]

theorem Core.modStream_ne (k : Core) (t u : Fin 4) (f : Stream → Stream) (h : u ≠ t) :
    (k.modStream t f).streams[u] = k.streams[u] := by
  have h' : t.val ≠ u.val := fun e => h (Fin.ext e.symm)
  simp [Core.modStream, h']

@[simp] theorem State.modCore_self (s : State) (c : Fin 96) (f : Core → Core) :
    (s.modCore c f).cores[c.val] = f s.cores[c.val] := by simp [State.modCore]

@[simp] theorem State.modStream_self (s : State) (c : Fin 96) (t : Fin 4) (f : Stream → Stream) :
    (s.modStream c t f).cores[c.val] = s.cores[c.val].modStream t f := by simp [State.modStream]

theorem State.modCore_ne (s : State) (c d : Fin 96) (f : Core → Core) (h : d ≠ c) :
    (s.modCore c f).cores[d] = s.cores[d] := by
  have h' : c.val ≠ d.val := fun e => h (Fin.ext e.symm)
  simp [State.modCore, h']

@[simp] theorem State.core_modCore (s : State) (c : Fin 96) (f : Core → Core) : (s.modCore c f).core c = f (s.core c) := by
  simp [State.core]

@[simp] theorem State.core_modStream (s : State) (c : Fin 96) (t : Fin 4) (f : Stream → Stream) :
    (s.modStream c t f).core c = (s.core c).modStream t f := by simp [State.core]

@[simp] theorem State.stream_modStream (s : State) (c : Fin 96) (t : Fin 4) (f : Stream → Stream) :
    (s.modStream c t f).stream c t = f (s.stream c t) := by simp [State.stream]

/-- Two changes of one core are one change. -/
theorem State.modCore_modCore (s : State) (c : Fin 96) (f g : Core → Core) :
    (s.modCore c f).modCore c g = s.modCore c fun k => g (f k) := by simp [State.modCore]

/-- Two changes of one stream are one change. -/
theorem Core.modStream_modStream (k : Core) (t : Fin 4) (f g : Stream → Stream) :
    (k.modStream t f).modStream t g = k.modStream t fun x => g (f x) := by simp [Core.modStream]

theorem State.modStream_modStream (s : State) (c : Fin 96) (t : Fin 4) (f g : Stream → Stream) :
    (s.modStream c t f).modStream c t g = s.modStream c t fun x => g (f x) := by
  simp [State.modStream, State.modCore_modCore, Core.modStream_modStream]

/-! ### Streams -/

@[simp] theorem Stream.setReg_mode (x : Stream) (r : BitVec 5) (v : Word) : (x.setReg r v).mode = x.mode := by
  unfold Stream.setReg; split <;> rfl
@[simp] theorem Stream.setReg_wait (x : Stream) (r : BitVec 5) (v : Word) : (x.setReg r v).wait = x.wait := by
  unfold Stream.setReg; split <;> rfl
@[simp] theorem Stream.setReg_waitSince (x : Stream) (r : BitVec 5) (v : Word) : (x.setReg r v).waitSince = x.waitSince := by
  unfold Stream.setReg; split <;> rfl
@[simp] theorem Stream.issuedAt_waitSince (x : Stream) (a : Addr) : (x.issuedAt a).waitSince = x.waitSince := rfl
@[simp] theorem Stream.issuedAt_regs (x : Stream) (a : Addr) : (x.issuedAt a).regs = x.regs := rfl
@[simp] theorem Stream.setReg_pc (x : Stream) (r : BitVec 5) (v : Word) : (x.setReg r v).pc = x.pc := by
  unfold Stream.setReg; split <;> rfl
@[simp] theorem Stream.setReg_vl (x : Stream) (r : BitVec 5) (v : Word) : (x.setReg r v).vl = x.vl := by
  unfold Stream.setReg; split <;> rfl
@[simp] theorem Stream.issuedAt_vl (x : Stream) (a : Addr) : (x.issuedAt a).vl = x.vl := rfl
@[simp] theorem Stream.setReg_plates (x : Stream) (r : BitVec 5) (v : Word) : (x.setReg r v).plates = x.plates := by
  unfold Stream.setReg; split <;> rfl
@[simp] theorem Stream.issuedAt_plates (x : Stream) (a : Addr) : (x.issuedAt a).plates = x.plates := rfl
@[simp] theorem Stream.setReg_giving (x : Stream) (r : BitVec 5) (v : Word) : (x.setReg r v).giving = x.giving := by
  unfold Stream.setReg; split <;> rfl
@[simp] theorem Stream.issuedAt_giving (x : Stream) (a : Addr) : (x.issuedAt a).giving = x.giving := rfl
@[simp] theorem Stream.setReg_launch (x : Stream) (r : BitVec 5) (v : Word) : (x.setReg r v).launch = x.launch := by
  unfold Stream.setReg; split <;> rfl
@[simp] theorem Stream.issuedAt_launch (x : Stream) (a : Addr) : (x.issuedAt a).launch = x.launch := rfl
@[simp] theorem Stream.setReg_trap (x : Stream) (r : BitVec 5) (v : Word) : (x.setReg r v).trap = x.trap := by
  unfold Stream.setReg; split <;> rfl
@[simp] theorem Stream.issuedAt_trap (x : Stream) (a : Addr) : (x.issuedAt a).trap = x.trap := rfl
@[simp] theorem Stream.setReg_aborting (x : Stream) (r : BitVec 5) (v : Word) : (x.setReg r v).aborting = x.aborting := by
  unfold Stream.setReg; split <;> rfl
@[simp] theorem Stream.issuedAt_aborting (x : Stream) (a : Addr) : (x.issuedAt a).aborting = x.aborting := rfl
@[simp] theorem Stream.setReg_silent (x : Stream) (r : BitVec 5) (v : Word) : (x.setReg r v).silent = x.silent := by
  unfold Stream.setReg; split <;> rfl
@[simp] theorem Stream.issuedAt_silent (x : Stream) (a : Addr) : (x.issuedAt a).silent = x.silent := rfl
@[simp] theorem Stream.setReg_ended (x : Stream) (r : BitVec 5) (v : Word) : (x.setReg r v).ended = x.ended := by
  unfold Stream.setReg; split <;> rfl
@[simp] theorem Stream.issuedAt_ended (x : Stream) (a : Addr) : (x.issuedAt a).ended = x.ended := rfl
@[simp] theorem Stream.setReg_seqNo (x : Stream) (r : BitVec 5) (v : Word) : (x.setReg r v).seqNo = x.seqNo := by
  unfold Stream.setReg; split <;> rfl
@[simp] theorem Stream.setReg_held (x : Stream) (r : BitVec 5) (v : Word) : (x.setReg r v).held = x.held := by
  unfold Stream.setReg; split <;> rfl
@[simp] theorem Stream.issuedAt_held (x : Stream) (a : Addr) : (x.issuedAt a).held = x.held := rfl
@[simp] theorem Stream.setReg_hscale (x : Stream) (r : BitVec 5) (v : Word) : (x.setReg r v).hscale = x.hscale := by
  unfold Stream.setReg; split <;> rfl
@[simp] theorem Stream.issuedAt_hscale (x : Stream) (a : Addr) : (x.issuedAt a).hscale = x.hscale := rfl
@[simp] theorem Stream.setReg_vtake (x : Stream) (r : BitVec 5) (v : Word) : (x.setReg r v).vtake = x.vtake := by
  unfold Stream.setReg; split <;> rfl
@[simp] theorem Stream.issuedAt_vtake (x : Stream) (a : Addr) : (x.issuedAt a).vtake = x.vtake := rfl
@[simp] theorem Stream.setReg_missWaits (x : Stream) (r : BitVec 5) (v : Word) : (x.setReg r v).missWaits = x.missWaits := by
  unfold Stream.setReg; split <;> rfl
@[simp] theorem Stream.setReg_lastQueue (x : Stream) (r : BitVec 5) (v : Word) : (x.setReg r v).lastQueue = x.lastQueue := by
  unfold Stream.setReg; split <;> rfl
@[simp] theorem Stream.issuedAt_lastQueue (x : Stream) (a : Addr) : (x.issuedAt a).lastQueue = x.lastQueue := rfl
@[simp] theorem Stream.issuedAt_pc (x : Stream) (a : Addr) : (x.issuedAt a).pc = a := rfl
@[simp] theorem Stream.issuedAt_mode (x : Stream) (a : Addr) : (x.issuedAt a).mode = .run := rfl
@[simp] theorem Stream.issuedAt_wait (x : Stream) (a : Addr) : (x.issuedAt a).wait = .none := rfl
@[simp] theorem Stream.issuedAt_missWaits (x : Stream) (a : Addr) : (x.issuedAt a).missWaits = false := rfl
@[simp] theorem Stream.issuedAt_seqNo (x : Stream) (a : Addr) : (x.issuedAt a).seqNo = x.seqNo + 1 := rfl

/-- s0 reads as zero (R170). -/
@[simp] theorem Stream.reg_zero (x : Stream) : x.reg 0#5 = 0 := by simp [Stream.reg]

/-- A write of s0 changes nothing (R170). -/
@[simp] theorem Stream.setReg_zero (x : Stream) (v : Word) : x.setReg 0#5 v = x := by simp [Stream.setReg]

/-- A register reads as it was written. -/
theorem Stream.reg_setReg_self (x : Stream) (r : BitVec 5) (v : Word) (h : r ≠ 0#5) : (x.setReg r v).reg r = v := by
  simp [Stream.reg, Stream.setReg, h]

/-- A write leaves every other register. -/
theorem Stream.reg_setReg_ne (x : Stream) (r q : BitVec 5) (v : Word) (h : q ≠ r) : (x.setReg r v).reg q = x.reg q := by
  have h' : r.toNat ≠ q.toNat := fun e => h (BitVec.eq_of_toNat_eq e.symm)
  by_cases hq : q = 0#5
  · simp [Stream.reg, hq]
  · by_cases hr : r = 0#5
    · simp [hr]
    · simp [Stream.reg, Stream.setReg, hq, hr, h']

end Sys2Proof.Machine
end

