-- ==== Sys2Proof/Laws/Issue.lean ====
section
/-! SUPPORT. What the shared operations of issue can do: `guard`, `issue` of an instruction its stream may issue, and the
five ways an issue ends. -/
namespace Sys2Proof.Machine

/-! ### Outcomes -/

theorem guard_true (w : String) (t : State) : guard true w t = .next t := rfl

/-- A guarded event steps where its condition holds, and only there. -/
theorem guard_next {c : Bool} {w : String} {t u : State} : guard c w t = .next u ↔ c = true ∧ t = u := by
  cases c <;> simp [guard]

/-- A guarded event never faults. -/
theorem guard_fault {c : Bool} {w : String} {t : State} {r : Fault} : guard c w t ≠ .fault r := by
  cases c <;> simp [guard]

theorem guard_of {c : Bool} (w : String) (t : State) (h : c = true) : guard c w t = .next t := by simp [guard, h]

/-! ### Presenting an instruction -/

/-- A presented instruction has its own effect, and a vector instruction its cycles counted. -/
theorem issue_of_presents {p : Site} {i : Instr} {s : State} (h : Presents p i s) (body : At → State → Issued)
    {w x : Word} (e : encode i = some (w, x)) :
    issue p i s body = .next (finish p (s.here p w)
      ((body (s.here p w) s).counted i (s.here p w) (s.stream p.core p.stream).vl.toNat)) := by
  have hl : illegalDetail w x = none := by simpa [Instr.encodes, e] using h.legal
  have hf : s.fetched p w = true := by simpa [e] using h.here
  simp [issue, e, hl, h.free, h.may, hf, guard]

/-- An instruction that is no vector instruction counts no cycles. -/
theorem Issued.counted_none {i : Instr} {vl : Nat} (h : vecCycles vl i = none) (x : Issued) (a : At) :
    x.counted i a vl = x := by unfold Issued.counted; rw [h]

/-- An issue never faults. -/
theorem issue_fault {p : Site} {i : Instr} {s : State} {body : At → State → Issued} {r : Fault} :
    issue p i s body ≠ .fault r := by simp [issue, guard_fault]

@[simp] theorem State.here_c (s : State) (p : Site) (w : Word) : (s.here p w).c = p.core := rfl
@[simp] theorem State.here_t (s : State) (p : Site) (w : Word) : (s.here p w).t = p.stream := rfl
@[simp] theorem State.here_pc (s : State) (p : Site) (w : Word) : (s.here p w).pc = pcOf s p := rfl
@[simp] theorem State.here_insn (s : State) (p : Site) (w : Word) : (s.here p w).insn = w := rfl
@[simp] theorem State.here_seqNo (s : State) (p : Site) (w : Word) :
    (s.here p w).seqNo = (s.stream p.core p.stream).seqNo := rfl

/-- A register of the issuing stream as the meanings read it. -/
@[simp] theorem State.rx_here (s : State) (p : Site) (w : Word) (r : BitVec 5) :
    s.rx (s.here p w) r = regOf s p r := by simp [State.rx, regOf, Stream.reg, State.stream]

/-- The two spellings of a register write. -/
theorem setReg_eq (st : Stream) (r : BitVec 5) (v : Word) : st.setReg r v = putReg r v st := by
  unfold Stream.setReg putReg; split <;> simp [*]

/-! ### The vector engine's queue -/

/-- With its plates owned, nothing in the engine and no line to wait for, an instruction has its effect at issue. -/
theorem withPlates_free {i : Instr} {n : Option Nat} {ps : List (BitVec 4)} {body : At → State → Issued} {a : At} {s : State}
    (hf : (s.core a.c).foreign a.t ps = none) (ha : (s.core a.c).awaited a.t ps = 0) (hv : (s.core a.c).vecHeld = false)
    (hb : ∀ t, body a s ≠ .stall t .full) : withPlates i n ps body a s = body a s := by
  simp only [withPlates, onPlates, hf, ha, hv]
  cases h : body a s with
  | stall t w => cases w with
    | full => exact absurd h (hb t)
    | _ => simp
  | _ => simp

/-- With a line to wait for it goes into the queue. -/
theorem withPlates_line {i : Instr} {n : Option Nat} {ps : List (BitVec 4)} {body : At → State → Issued} {a : At} {s t : State}
    (hf : (s.core a.c).foreign a.t ps = none) (ha : (s.core a.c).awaited a.t ps = 0) (hv : (s.core a.c).vecHeld = false)
    (hb : body a s = .stall t .full) : withPlates i n ps body a s = t.vecAccept i n a := by
  simp [withPlates, onPlates, hf, ha, hv, hb]

/-- With its plates owned and an engine that is held up it goes into the queue. -/
theorem withPlates_held {i : Instr} {n : Option Nat} {ps : List (BitVec 4)} {body : At → State → Issued} {a : At} {s : State}
    (hf : (s.core a.c).foreign a.t ps = none) (ha : (s.core a.c).awaited a.t ps = 0) (hv : (s.core a.c).vecHeld = true) :
    withPlates i n ps body a s = s.vecAccept i n a := by simp [withPlates, hf, ha, hv]

/-- An empty queue leaves nothing to do. -/
theorem vecResume_empty {s : State} {c : Fin 96} (h : (s.core c).vecQ = []) : s.vecResume c = s := by
  simp [State.vecResume, h]

/-- The engine stands where a VTAKE copies. -/
theorem vecDrain_copying {s : State} {c : Fin 96} {x : VecWait} {q : List VecWait} (h : (s.core c).vtakeRuns = true) :
    s.vecDrain c (x :: q) = s.modCore c fun k => { k with vecQ := x :: q } := by simp [State.vecDrain, h]

/-! ### How an issue ends -/

/-- The state after an instruction that changed its own stream by `f` and issued. -/
theorem retireTo_modStream (s : State) (p : Site) (pc : Addr) (f : Stream → Stream) :
    (s.modStream p.core p.stream f).retireTo p pc = issuedAs s p pc f := by
  simp [State.retireTo, issuedAs, State.modStream, State.modCore, Core.modStream, Stream.issuedAt, Core.dual, State.tick]

/-- The state after an instruction that changed nothing and issued. -/
theorem retireTo_eq (s : State) (p : Site) (pc : Addr) : s.retireTo p pc = issuedAs s p pc id := by
  simp [State.retireTo, issuedAs, State.modStream, State.modCore, Core.modStream, Stream.issuedAt, Core.dual, State.tick]

/-- A stream that runs, or waits for something to be presented again, enters DRAIN on a trap found at issue. -/
theorem trapIssue_eq {s : State} {p : Site} (h : s.mayIssue p = true) (code : TrapCode) (insn detail : Word) (a : Addr) :
    s.trapIssue p.core p.stream code insn detail a = trappedAs s p code.num insn detail a := by
  have hm : ((s.cores[p.core]).streams[p.stream]).mode = .run ∨ ((s.cores[p.core]).streams[p.stream]).mode = .wait := by
    simp only [State.mayIssue, State.stream, Bool.and_eq_true, Bool.or_eq_true, beq_iff_eq] at h
    rcases h.2 with h | h
    · exact .inl h
    · exact .inr h.1
  rcases hm with hm | hm <;>
    simp_all [State.trapIssue, trappedAs, State.modStream, State.modCore, Core.modStream, Core.leaveSem,
      Stream.trapWith, TrapCode.num]

/-- What an issued instruction leaves outside the cores: what its own effect left. -/
theorem retireTo_only (s : State) (p : Site) (pc : Addr) : Only [.cores] s (s.retireTo p pc) := by
  refine ⟨rfl, fun q hq => ?_⟩
  cases q <;> simp [Part.same, State.retireTo] at hq ⊢

end Sys2Proof.Machine
end

