-- ==== Sys2Proof/Laws/Manage.lean ====
section
/-! SUPPORT. What a management frame holds comes out of it again (R513, R515). -/
namespace Sys2Proof.Machine

theorem leNat_leBytes : ∀ (n v : Nat), leNat (leBytes n v) = v % 256 ^ n
  | 0, v => by simp [leBytes, leNat, Nat.mod_one]
  | n + 1, v => by
    rw [leBytes, leNat, leNat_leBytes n, Nat.pow_succ, Nat.mul_comm (256 ^ n) 256, Nat.mod_mul]
    simp [BitVec.toNat_ofNat]

theorem beNat_beBytes (n v : Nat) : beNat (beBytes n v) = v % 256 ^ n := by
  rw [← leNat_leBytes]
  unfold beNat beBytes
  rw [List.foldl_reverse]
  induction leBytes n v with
  | nil => rfl
  | cons b l ih => rw [List.foldr_cons, ih, leNat]; omega

theorem gcmTag_length (key : BitVec 256) (nonce aad ct : List Byte) : (gcmTag key nonce aad ct).length = 16 := blockBytes_length _

theorem unframe_frame (m : List Byte) (h : m.length < 2 ^ 32) : unframe (beBytes 4 m.length ++ m) = some m := by
  have hl : (beBytes 4 m.length).length = 4 := beBytes_length 4 _
  have ht : (beBytes 4 m.length ++ m).take 4 = beBytes 4 m.length := List.take_left' hl
  have hd : (beBytes 4 m.length ++ m).drop 4 = m := List.drop_left' hl
  unfold unframe
  rw [ht, hd, beNat_beBytes, List.length_append, hl, if_pos ⟨by omega, by omega⟩]

/-- The frame of a message p sealed toward the curator. -/
def MgmtLink.frame (k : MgmtLink) (p : List Byte) : List Byte :=
  let ct := gcmCrypt k.keyIn (ctrNonce k.rx) p
  let m := ct ++ gcmTag k.keyIn (ctrNonce k.rx) [] ct
  beBytes 4 m.length ++ m

theorem unseal_sealed (k : MgmtLink) (ct tag p : List Byte) (hc : 8 ≤ ct.length) (hc' : ct.length + 16 < 2 ^ 32) (ht : tag.length = 16)
    (hg : gcmOpen k.keyIn (ctrNonce k.rx) [] ct tag = some p) :
    k.unseal (beBytes 4 (ct ++ tag).length ++ (ct ++ tag)) = some (readReq p) := by
  have hm : (ct ++ tag).length = ct.length + 16 := by rw [List.length_append, ht]
  have h1 : (ct ++ tag).take ((ct ++ tag).length - 16) = ct := List.take_left' (by omega)
  have h2 : (ct ++ tag).drop ((ct ++ tag).length - 16) = tag := List.drop_left' (by omega)
  unfold MgmtLink.unseal
  rw [unframe_frame _ (by omega), Option.bind_some, if_neg (by omega), h1, h2, hg, Option.map_some]

/-- It opens as the request that p is. -/
theorem unseal_frame (k : MgmtLink) (p : List Byte) (h : 8 ≤ p.length) (h' : p.length + 16 < 2 ^ 32) :
    k.unseal (k.frame p) = some (readReq p) := by
  have hc : (gcmCrypt k.keyIn (ctrNonce k.rx) p).length = p.length := gcmCrypt_length _ _ _
  refine unseal_sealed k _ _ p (by omega) (by omega) (gcmTag_length _ _ _ _) ?_
  unfold gcmOpen
  rw [if_pos rfl, gcmCrypt_twice]

theorem leWords_one (w : Word) (l : List Byte) : (leWords 1 (wordBytes [w] ++ l)).headD 0 = w := by
  have hw : wordBytes [w] = leBytes 8 w.toNat := by simp [wordBytes]
  rw [leWords, hw, List.take_left' (leBytes_length 8 _), leNat_leBytes, List.headD_cons, Nat.mod_eq_of_lt (by exact w.isLt)]
  simp

/-- Word 0 of a request and its arguments. -/
theorem readReq_append (w : Word) (args : List Byte) :
    readReq (wordBytes [w] ++ args) = ⟨(w >>> 56).setWidth 8, (w >>> 32).setWidth 24, nfld w 0 32, args⟩ := by
  have hl : (wordBytes [w]).length = 8 := by simp [wordBytes, leBytes_length]
  unfold readReq
  rw [leWords_one, List.drop_left' hl]

end Sys2Proof.Machine
end

