-- ==== Sys2Proof/Laws/Table.lean ====
section
/-! SUPPORT. Sparse tables: reading after writing, and that writes keep the canonical form. -/
namespace Sys2Proof.Machine

variable {α : Type}

theorem Tbl.get_erase_self (d : α) (t : Tbl α) (n : Nat) : Tbl.get d (Tbl.erase t n) n = d := by
  induction t with
  | nil => rfl
  | cons e t ih => obtain ⟨k, v⟩ := e; by_cases h : n = k <;> simp [Tbl.erase, Tbl.get, h] <;> simp_all

theorem Tbl.get_erase_ne (d : α) (t : Tbl α) (n m : Nat) (h : m ≠ n) : Tbl.get d (Tbl.erase t n) m = Tbl.get d t m := by
  induction t with
  | nil => rfl
  | cons e t ih =>
    obtain ⟨k, v⟩ := e
    by_cases h' : n = k
    · subst h'; simp [Tbl.erase, Tbl.get, h, ih]
    · by_cases h'' : m = k <;> simp [Tbl.erase, Tbl.get, h', h'', ih]

theorem Tbl.get_put_self (d : α) (t : Tbl α) (n : Nat) (x : α) : Tbl.get d (Tbl.put t n x) n = x := by
  induction t with
  | nil => simp [Tbl.put, Tbl.get]
  | cons e t ih =>
    obtain ⟨k, v⟩ := e
    simp only [Tbl.put]
    split
    · simp [Tbl.get]
    · split <;> simp_all [Tbl.get]

theorem Tbl.get_put_ne (d : α) (t : Tbl α) (n m : Nat) (x : α) (h : m ≠ n) :
    Tbl.get d (Tbl.put t n x) m = Tbl.get d t m := by
  induction t with
  | nil => simp [Tbl.put, Tbl.get, h]
  | cons e t ih =>
    obtain ⟨k, v⟩ := e
    simp only [Tbl.put]
    split
    · simp [Tbl.get, h]
    · split
      · rename_i h2; subst h2; simp [Tbl.get, h]
      · simp [Tbl.get, ih]

variable [DecidableEq α]

/-- A key reads as it was written. -/
@[simp] theorem Tbl.get_set_self (d : α) (t : Tbl α) (n : Nat) (x : α) : Tbl.get d (Tbl.set d t n x) n = x := by
  unfold Tbl.set
  split
  · rename_i h; rw [Tbl.get_erase_self, h]
  · exact Tbl.get_put_self d t n x

/-- A write leaves every other key. -/
theorem Tbl.get_set_ne (d : α) (t : Tbl α) (n m : Nat) (x : α) (h : m ≠ n) : Tbl.get d (Tbl.set d t n x) m = Tbl.get d t m := by
  unfold Tbl.set
  split
  · exact Tbl.get_erase_ne d t n m h
  · exact Tbl.get_put_ne d t n m x h

/-! ### Canonical form -/

/-- Every listed key is at least n and keys rise, with no default listed. -/
def Tbl.above (d : α) (n : Nat) : Tbl α → Prop
  | [] => True
  | (k, v) :: t => n ≤ k ∧ v ≠ d ∧ Tbl.above d (k + 1) t

omit [DecidableEq α] in
theorem Tbl.above_mono {d : α} {t : Tbl α} {n m : Nat} (h : Tbl.above d n t) (le : m ≤ n) : Tbl.above d m t := by
  cases t with
  | nil => trivial
  | cons e t => exact ⟨Nat.le_trans le h.1, h.2⟩

theorem Tbl.wf_iff (d : α) (t : Tbl α) : Tbl.wf d t = true ↔ Tbl.above d 0 t := by
  have key : ∀ (t : Tbl α) (k : Nat) (v : α), Tbl.wf d ((k, v) :: t) = true ↔ v ≠ d ∧ Tbl.above d (k + 1) t := by
    intro t
    induction t with
    | nil => intro k v; simp [Tbl.wf, Tbl.above]
    | cons e t ih =>
      intro k v
      obtain ⟨k', v'⟩ := e
      simp only [Tbl.wf, Tbl.above, Bool.and_eq_true, decide_eq_true_eq, ih]
      constructor
      · rintro ⟨⟨a, b⟩, c, e⟩; exact ⟨a, b, c, e⟩
      · rintro ⟨a, b, c, e⟩; exact ⟨⟨a, b⟩, c, e⟩
  cases t with
  | nil => simp [Tbl.wf, Tbl.above]
  | cons e t => obtain ⟨k, v⟩ := e; rw [key]; simp [Tbl.above]

theorem Tbl.above_erase {d : α} {t : Tbl α} {n : Nat} (m : Nat) (h : Tbl.above d n t) : Tbl.above d n (Tbl.erase t m) := by
  induction t generalizing n with
  | nil => trivial
  | cons e t ih =>
    obtain ⟨k, v⟩ := e
    simp only [Tbl.erase]
    split
    · exact ih (Tbl.above_mono h.2.2 (Nat.le_succ_of_le h.1))
    · exact ⟨h.1, h.2.1, ih h.2.2⟩

omit [DecidableEq α] in
theorem Tbl.above_put {d : α} {t : Tbl α} {n m : Nat} {x : α} (h : Tbl.above d n t) (hm : n ≤ m) (hx : x ≠ d) :
    Tbl.above d n (Tbl.put t m x) := by
  induction t generalizing n with
  | nil => exact ⟨hm, hx, trivial⟩
  | cons e t ih =>
    obtain ⟨k, v⟩ := e
    simp only [Tbl.put]
    split
    · exact ⟨hm, hx, ‹m < k›, h.2.1, h.2.2⟩
    · split
      · rename_i e; subst e; exact ⟨h.1, hx, h.2.2⟩
      · exact ⟨h.1, h.2.1, ih h.2.2 (by omega)⟩

/-- Writing a key keeps the canonical form. -/
theorem Tbl.wf_set {d : α} {t : Tbl α} (n : Nat) (x : α) (h : Tbl.wf d t = true) : Tbl.wf d (Tbl.set d t n x) = true := by
  rw [Tbl.wf_iff] at *
  unfold Tbl.set
  split
  · exact Tbl.above_erase n h
  · exact Tbl.above_put h (Nat.zero_le n) ‹_›

theorem Tbl.above_filter {d : α} {t : Tbl α} {n : Nat} (p : Nat × α → Bool) (h : Tbl.above d n t) :
    Tbl.above d n (t.filter p) := by
  induction t generalizing n with
  | nil => trivial
  | cons e t ih =>
    obtain ⟨k, v⟩ := e
    rw [List.filter_cons]
    split
    · exact ⟨h.1, h.2.1, ih h.2.2⟩
    · exact ih (Tbl.above_mono h.2.2 (Nat.le_succ_of_le h.1))

/-- Dropping entries keeps the canonical form. -/
theorem Tbl.wf_filter {d : α} {t : Tbl α} (p : Nat × α → Bool) (h : Tbl.wf d t = true) :
    Tbl.wf d (t.filter p) = true := by
  rw [Tbl.wf_iff] at *
  exact Tbl.above_filter p h

end Sys2Proof.Machine
end

