-- ==== Sys2Proof/Laws/Memory.lean ====
section
/-! SUPPORT. The memory system: a stored line reads back, a store leaves every other line, and every operation keeps the
canonical form of Mem.wf. -/
namespace Sys2Proof.Machine

/-! ### Folds -/

/-- What each step of a fold keeps, the fold keeps. -/
theorem foldl_keeps {α β : Type} (P : α → Prop) (f : α → β → α) (h : ∀ (a : α) (b : β), P a → P (f a b)) (l : List β) (a : α)
    (ha : P a) : P (l.foldl f a) := by
  induction l generalizing a with
  | nil => exact ha
  | cons b l ih => exact ih _ (h a b ha)

/-- A fold of writes to keys that are all distinct reads back the value written at each. -/
theorem foldl_set_other (d : Byte) (key : Fin 256 → Nat) (x : Line) (n : Nat) (l : List (Fin 256)) (t : Tbl Byte)
    (h : ∀ i ∈ l, key i ≠ n) : Tbl.get d (l.foldl (fun t i => Tbl.set d t (key i) x[i]) t) n = Tbl.get d t n := by
  induction l generalizing t with
  | nil => rfl
  | cons b l ih =>
    rw [List.foldl_cons, ih _ fun i hi => h i (List.mem_cons_of_mem _ hi)]
    exact Tbl.get_set_ne d t _ n _ fun e => h b List.mem_cons_self e.symm

theorem foldl_set_self (d : Byte) (l0 : Nat) (x : Line) (i : Fin 256) (l : List (Fin 256)) (t : Tbl Byte) (h : i ∈ l) :
    Tbl.get d (l.foldl (fun t i => Tbl.set d t (256 * l0 + i.val) x[i]) t) (256 * l0 + i.val) = x[i] := by
  induction l generalizing t with
  | nil => cases h
  | cons b l ih =>
    rw [List.foldl_cons]
    by_cases m : i ∈ l
    · exact ih _ m
    · have e : i = b := by simpa [m] using h
      subst e
      rw [foldl_set_other d (fun j => 256 * l0 + j.val) x _ l _ fun j hj e => m (by
        have : j = i := Fin.ext (by omega)
        exact this ▸ hj)]
      exact Tbl.get_set_self d t _ _

/-! ### Lines -/

/-- A stored byte reads back. -/
theorem putLine_get_self (t : Tbl Byte) (l : Nat) (x : Line) (i : Fin 256) :
    Tbl.get 0 (putLine t l x) (256 * l + i.val) = x[i] :=
  foldl_set_self 0 l x i _ t (List.mem_finRange i)

/-- A byte of another line stays. -/
theorem putLine_get_ne (t : Tbl Byte) (l : Nat) (x : Line) (n : Nat) (h : n / 256 ≠ l) :
    Tbl.get 0 (putLine t l x) n = Tbl.get 0 t n :=
  foldl_set_other 0 (fun i => 256 * l + i.val) x n _ t fun i _ e => h (by omega)

/-- A stored line reads back whole. -/
@[simp] theorem Mem.dramLine_store (m : Mem) (l : Nat) (o : BitVec 4) (p : Bool) (x : Line) :
    (m.store l o p x).dramLine l = x := by
  apply Vector.ext
  intro i hi
  simp only [Mem.dramLine, Mem.store, Vector.getElem_ofFn]
  exact putLine_get_self _ l x ⟨i, hi⟩

/-- Storing a line leaves the plaintext of every other line. -/
theorem Mem.dramLine_store_ne (m : Mem) (l l' : Nat) (o : BitVec 4) (p : Bool) (x : Line) (h : l' ≠ l) :
    (m.store l o p x).dramLine l' = m.dramLine l' := by
  apply Vector.ext
  intro i hi
  simp only [Mem.dramLine, Mem.store, Mem.setMeta, Vector.getElem_ofFn]
  exact putLine_get_ne _ l x _ (by omega)

/-- Storing a line leaves the sideband of every other line. -/
theorem Mem.side1_store_ne (m : Mem) (l l' : Nat) (o : BitVec 4) (p : Bool) (x : Line) (h : l' ≠ l) :
    (m.store l o p x).side1 l' = m.side1 l' := by
  simp only [Mem.side1, Mem.store, Mem.setMeta]
  exact Tbl.get_set_ne _ _ _ _ _ h

/-- A stored line carries its owner, its poison bit, the present key and its own address (R301, R308). -/
@[simp] theorem Mem.side1_store (m : Mem) (l : Nat) (o : BitVec 4) (p : Bool) (x : Line) :
    (m.store l o p x).side1 l = ⟨true, o, p, m.keyGen, l, true⟩ := by
  simp [Mem.side1, Mem.store, Mem.setMeta]

/-- A written line stands under its own key and address value. -/
theorem Mem.sideKey_written {m : Mem} {a : Nat} (h : (m.side1 a).written = true) : m.sideKey a = m.side1 a := by
  simp [Mem.sideKey, h]

/-- A line that is not written stands under its stack's fill. -/
theorem Mem.sideKey_fresh {m : Mem} {a : Nat} (h : (m.side1 a).written = false) :
    m.sideKey a = { m.side1 a with keyGen := (m.stk[stackOfA a]).fillGen, a := a } := by
  simp [Mem.sideKey, h]

/-- A stored line's tag holds until the key changes. -/
@[simp] theorem Mem.tagOk_store (m : Mem) (l : Nat) (o : BitVec 4) (p : Bool) (x : Line) : (m.store l o p x).tagOk l = true := by
  unfold Mem.tagOk
  rw [Mem.sideKey_written (by rw [Mem.side1_store]), Mem.side1_store]
  simp [Mem.store, Mem.setMeta]

/-! ### Canonical form -/

theorem Mem.wf_def (m : Mem) : m.wf = true ↔ Tbl.wf 0 m.dram = true ∧ Tbl.wf LineMeta.fresh m.side = true := by
  simp [Mem.wf]

/-- Memory that lists the same bytes and sidebands is canonical with it. -/
theorem Mem.wf_of_eq {m m' : Mem} (hd : m'.dram = m.dram) (hs : m'.side = m.side) (h : m.wf = true) : m'.wf = true := by
  rw [Mem.wf_def] at *; rwa [hd, hs]

theorem Mem.wf_reset : Mem.reset.wf = true := rfl

theorem Mem.wf_renew {m : Mem} (h : m.wf = true) : m.renew.wf = true := by
  unfold Mem.renew; exact Mem.wf_of_eq (m := m) rfl rfl h

theorem wf_putLine {t : Tbl Byte} (l : Nat) (x : Line) (h : Tbl.wf 0 t = true) : Tbl.wf 0 (putLine t l x) = true :=
  foldl_keeps (fun t => Tbl.wf 0 t = true) _ (fun _ _ h => Tbl.wf_set _ _ h) _ _ h

theorem Mem.wf_setMeta {m : Mem} (a : Nat) (x : LineMeta) (h : m.wf = true) : (m.setMeta a x).wf = true := by
  rw [Mem.wf_def] at *; exact ⟨h.1, Tbl.wf_set _ _ h.2⟩

theorem Mem.wf_modStk {m : Mem} (k : Fin 16) (f : Stack → Stack) (h : m.wf = true) : (m.modStk k f).wf = true :=
  Mem.wf_of_eq rfl rfl h

theorem Mem.wf_store {m : Mem} (l : Nat) (o : BitVec 4) (p : Bool) (x : Line) (h : m.wf = true) :
    (m.store l o p x).wf = true := by
  have h' := Mem.wf_setMeta l ⟨true, o, p, m.keyGen, l, true⟩ h
  rw [Mem.wf_def] at h h' ⊢
  simp only [Mem.store]
  exact ⟨wf_putLine l x h.1, h'.2⟩

theorem Mem.wf_tagHalt {m : Mem} (k : Fin 16) (w : Master) (b : Bool) (a : Nat) (tick : Word) (h : m.wf = true) :
    (m.tagHalt k w b a tick).wf = true := by
  unfold Mem.tagHalt; split
  · exact Mem.wf_of_eq rfl rfl h
  · split
    · exact Mem.wf_of_eq rfl rfl h
    · exact h

theorem Mem.wf_decodeLine {m : Mem} (src : ReadSrc) (k g : Fin 16) (n : Nat) (e : BurstErr) (tick : Word) (h : m.wf = true) :
    (m.decodeLine src k g n e tick).1.wf = true := by
  unfold Mem.decodeLine; dsimp only
  generalize (if (decodeBurst _ e.first).bad.isSome = true then _ else _) = r
  have key : ∀ fix : List (Nat × Nat), (if fix.isEmpty = true then m else
      { (m.modStk k fun st => (st.logCe src g fix n tick).conserve tick) with draws := m.draws + 1 }).wf = true := by
    intro fix; split
    · exact h
    · exact Mem.wf_of_eq (m := m) rfl rfl h
  split
  · exact Mem.wf_modStk _ _ h
  · exact key _

theorem Mem.wf_poisonLine {m : Mem} (a : Nat) (e : BurstErr) (h : m.wf = true) : (m.poisonLine a e).wf = true :=
  Mem.wf_setMeta _ _ h

theorem Mem.wf_writeBack {m : Mem} (w : Option (Way SliceLine)) (h : m.wf = true) : (m.writeBack w).wf = true := by
  unfold Mem.writeBack; split
  · split
    · exact Mem.wf_store _ _ _ _ h
    · exact h
  · exact h

theorem Mem.wf_sliceFill {m : Mem} (l : Nat) (x : SliceLine) (h : m.wf = true) : (m.sliceFill l x).wf = true :=
  Mem.wf_writeBack _ (Mem.wf_of_eq rfl rfl h)

theorem Mem.wf_sliceEvict {m : Mem} (l : Nat) (h : m.wf = true) : (m.sliceEvict l).wf = true := by
  unfold Mem.sliceEvict; split
  · exact Mem.wf_writeBack _ (Mem.wf_of_eq rfl rfl h)
  · exact h

theorem Mem.wf_dramRead {m : Mem} (w : Master) (l : Nat) (req : Option (BitVec 4)) (e : BurstErr) (tick : Word)
    (h : m.wf = true) : (m.dramRead w l req e tick).1.wf = true := by
  have hd := Mem.wf_decodeLine (m := m) .demand (lineStack l) (lineGroup l) (lineK l) e tick h
  unfold Mem.dramRead; dsimp only
  split
  · exact h
  · split
    · exact Mem.wf_poisonLine _ _ hd
    · split
      · exact hd
      · split
        · exact Mem.wf_modStk _ _ hd
        · split
          · exact Mem.wf_tagHalt _ _ _ _ _ hd
          · exact Mem.wf_sliceFill _ _ hd

theorem Mem.wf_partialRead {m : Mem} (p : Partial) (e : BurstErr) (tick : Word) (h : m.wf = true) :
    (m.partialRead p e tick).1.wf = true := by
  have hd := Mem.wf_decodeLine (m := m) .demand (lineStack p.line.toNat) (lineGroup p.line.toNat) (lineK p.line.toNat) e tick h
  unfold Mem.partialRead; dsimp only
  split
  · exact Mem.wf_store _ _ _ _ h
  · dsimp only; split
    · exact Mem.wf_poisonLine _ _ hd
    · exact hd

theorem Mem.wf_partialMerge {m : Mem} (p : Partial) (d : Decoded) (tick : Word) (h : m.wf = true) :
    (m.partialMerge p d tick).wf = true := by
  unfold Mem.partialMerge; dsimp only
  split
  · exact Mem.wf_sliceFill _ _ h
  · split
    · exact Mem.wf_modStk _ _ h
    · split
      · exact Mem.wf_sliceFill _ _ h
      · split
        · exact Mem.wf_tagHalt _ _ _ _ _ h
        · exact Mem.wf_sliceFill _ _ h

theorem Mem.wf_sliceMerge {m : Mem} (l : Nat) (x : SliceLine) (bs : List (Nat × Byte)) (o : BitVec 4) (h : m.wf = true) :
    (m.sliceMerge l x bs o).wf = true := by
  unfold Mem.sliceMerge; split
  · exact Mem.wf_modStk _ _ h
  · exact Mem.wf_of_eq rfl rfl h

theorem Mem.wf_settle {m : Mem} (l : Nat) (e : BurstErr) (tick : Word) (h : m.wf = true) : (m.settle l e tick).wf = true := by
  unfold Mem.settle; dsimp only
  have h' : ({ m with parts := m.parts.filter fun p => p.line.toNat ≠ l } : Mem).wf = true := Mem.wf_of_eq rfl rfl h
  split
  · exact h'
  · refine foldl_keeps (fun m : Mem => m.wf = true) _ (fun m p h => ?_) _ _ ?_
    · split
      · exact Mem.wf_sliceMerge _ _ _ _ h
      · exact Mem.wf_partialMerge _ _ _ h
    · split
      · exact h'
      · exact Mem.wf_partialRead _ _ _ h'

theorem Mem.wf_holed {m : Mem} (h : m.wf = true) : m.holed.wf = true := Mem.wf_of_eq rfl rfl h

theorem Mem.wf_readLine {m : Mem} (w : Master) (l : Nat) (req : Option (BitVec 4)) (tick : Word) (h : m.wf = true) :
    (m.readLine w l req tick).1.wf = true := by
  have hs := Mem.wf_settle l noErr tick h
  unfold Mem.readLine; dsimp only
  split
  · exact h
  · split
    · exact Mem.wf_holed h
    · split
      · split
        · exact Mem.wf_modStk _ _ hs
        · exact Mem.wf_of_eq rfl rfl hs
      · split
        · exact Mem.wf_dramRead _ _ _ _ _ hs
        · exact hs

theorem Mem.wf_partialWrite {m : Mem} (w : Master) (l : Nat) (o : BitVec 4) (bs : List (Nat × Byte)) (h : m.wf = true) :
    (m.partialWrite w l o bs).wf = true := by
  unfold Mem.partialWrite
  split
  · exact h
  · split
    · exact Mem.wf_holed h
    · split
      · exact Mem.wf_modStk _ _ h
      · split
        · exact Mem.wf_sliceMerge _ _ _ _ h
        · exact Mem.wf_of_eq rfl rfl h

theorem Mem.wf_fullWrite {m : Mem} (w : Master) (l : Nat) (o : BitVec 4) (d : Line) (e : BurstErr) (tick : Word)
    (h : m.wf = true) : (m.fullWrite w l o d e tick).wf = true := by
  have hs := Mem.wf_settle l noErr tick h
  have hd := Mem.wf_decodeLine .demand (lineStack l) (lineGroup l) (lineK l) e tick hs
  unfold Mem.fullWrite; dsimp only
  split
  · exact h
  · split
    · exact Mem.wf_holed h
    · split
      · exact Mem.wf_modStk _ _ h
      · split
        · split
          · exact Mem.wf_modStk _ _ hs
          · exact Mem.wf_of_eq rfl rfl hs
        · split
          · exact Mem.wf_store _ _ _ _ hs
          · split
            · exact Mem.wf_store _ _ _ _ hd
            · split
              · exact Mem.wf_modStk _ _ hd
              · exact Mem.wf_store _ _ _ _ hd

theorem Mem.wf_writeNow {m : Mem} (w : Master) (l : Nat) (o : BitVec 4) (bs : List (Nat × Byte)) (tick : Word)
    (h : m.wf = true) : (m.writeNow w l o bs tick).wf = true :=
  Mem.wf_settle _ _ _ (Mem.wf_partialWrite _ _ _ _ h)

theorem Mem.wf_writeBytes {m : Mem} (w : Master) (o : BitVec 4) (dpa : Nat) (bs : List Byte) (tick : Word)
    (h : m.wf = true) : (m.writeBytes w o dpa bs tick).wf = true := by
  unfold Mem.writeBytes
  refine foldl_keeps (fun m : Mem => m.wf = true) _ (fun m p h => ?_) _ _ h
  split
  · exact Mem.wf_fullWrite _ _ _ _ _ _ h
  · exact Mem.wf_writeNow _ _ _ _ _ h

theorem Mem.wf_readBytes {m : Mem} (w : Master) (req : Option (BitVec 4)) (dpa len : Nat) (tick : Word) (h : m.wf = true) :
    (m.readBytes w req dpa len tick).1.wf = true := by
  unfold Mem.readBytes
  exact foldl_keeps (fun a : Mem × List Byte × Bool => a.1.wf = true) _ (fun a r h => Mem.wf_readLine _ _ _ _ h) _ _ h

theorem Mem.wf_mapClear {m : Mem} (k : Fin 16) (p : Nat) (h : m.wf = true) : (m.mapClear k p).wf = true := by
  rw [Mem.wf_def] at *; exact ⟨Tbl.wf_filter _ h.1, Tbl.wf_filter _ h.2⟩

theorem Mem.wf_fillStack {m : Mem} (k : Fin 16) (h : m.wf = true) : (m.fillStack k).wf = true := by
  rw [Mem.wf_def] at *; exact ⟨Tbl.wf_filter _ h.1, Tbl.wf_filter _ h.2⟩

theorem Mem.wf_flushPage {m : Mem} (p : Nat) (tick : Word) (h : m.wf = true) : (m.flushPage p tick).wf = true := by
  unfold Mem.flushPage; dsimp only
  refine foldl_keeps (fun m : Mem => m.wf = true) _ (fun m w h => ?_) _ _
    (foldl_keeps (fun m : Mem => m.wf = true) _ (fun m x h => Mem.wf_settle _ _ _ h) _ _ h)
  exact Mem.wf_of_eq rfl rfl (Mem.wf_writeBack (some w) h)

theorem Mem.wf_copyPage {m : Mem} (p q : Nat) (tick : Word) (h : m.wf = true) : (m.copyPage p q tick).wf = true := by
  have hf := Mem.wf_flushPage p tick h
  rw [Mem.wf_def] at hf ⊢
  exact ⟨foldl_keeps (fun t : Tbl Byte => Tbl.wf 0 t = true) _ (fun t e h => Tbl.wf_set _ _ h) _ _ (Tbl.wf_filter _ hf.1),
    foldl_keeps (fun t : Tbl LineMeta => Tbl.wf LineMeta.fresh t = true) _ (fun t e h => Tbl.wf_set _ _ h) _ _
      (Tbl.wf_filter _ hf.2)⟩

theorem Mem.wf_clearFrom {m : Mem} (p : Nat) (h : m.wf = true) : (m.clearFrom p).wf = true := by
  rw [Mem.wf_def] at *; exact ⟨Tbl.wf_filter _ h.1, Tbl.wf_filter _ h.2⟩

theorem Mem.wf_clearPage {m : Mem} (p : Nat) (h : m.wf = true) : (m.clearPage p).wf = true :=
  foldl_keeps (fun m : Mem => m.wf = true) _ (fun _ _ h => Mem.wf_mapClear _ _ h) _ _ h

theorem Mem.wf_vaultLine {m : Mem} (l a : Nat) (tick : Word) (h : m.wf = true) : (m.vaultLine l a tick).1.wf = true := by
  have hs := Mem.wf_settle l noErr tick h
  have hd := Mem.wf_decodeLine .demand (lineStack l) (lineGroup l) (lineK l) noErr tick hs
  unfold Mem.vaultLine; dsimp only
  split
  · exact h
  · split
    · exact hs
    · split
      · exact hs
      · split
        · exact hs
        · split
          · exact Mem.wf_poisonLine _ _ hd
          · split
            · exact hd
            · split
              · exact hd
              · exact Mem.wf_tagHalt _ _ _ _ _ hd

theorem Mem.wf_vaultRun {m : Mem} (home : Nat → Nat) (dpa n : Nat) (tick : Word) (got : VGot) (h : m.wf = true) :
    (m.vaultRun home dpa n tick got).1.wf = true := by
  unfold Mem.vaultRun
  exact foldl_keeps (fun a : Mem × VGot => a.1.wf = true) _ (fun a r h => Mem.wf_vaultLine _ _ _ h) _ _ h

theorem Mem.wf_unmeasure {m : Mem} (ps : List Nat) (h : m.wf = true) : (m.unmeasure ps).wf = true := by
  unfold Mem.unmeasure
  exact Mem.wf_of_eq rfl rfl h

end Sys2Proof.Machine
end

