-- ==== Sys2Proof/Laws/Slh.lean ====
section
/-! SUPPORT. A signature that a key pair makes verifies under its public key (R439, R481, R493, R513; FIPS 205). -/
namespace Sys2Proof.Machine
open Sys2Proof

theorem shaBytes_length (m : List Byte) : (shaBytes m).length = 32 := beBytes_length _ _

theorem SlhKey.hash_length (k : SlhKey) (a : SlhAdrs) (m : List Byte) : (k.hash a m).length = 16 := by
  simp [SlhKey.hash, shaBytes_length]

/-! ### Blocks of a signature -/

/-- The signature holds these blocks of 16 bytes from block n on. -/
def SigAt (sig : List Byte) (n : Nat) (bs : List (List Byte)) : Prop := ∀ i b, bs[i]? = some b → block16 sig (n + i) = b

theorem sigAt_flatten : ∀ (bs : List (List Byte)), (∀ b ∈ bs, b.length = 16) → SigAt bs.flatten 0 bs
  | [], _, i, b, h => by simp at h
  | x :: bs, hl, i, b, h => by
    have hx : x.length = 16 := hl x List.mem_cons_self
    cases i with
    | zero =>
      obtain rfl : x = b := by simpa using h
      simp [block16, ← hx]
    | succ i =>
      have := sigAt_flatten bs (fun b hb => hl b (List.mem_cons_of_mem _ hb)) i b (by simpa using h)
      rw [← this]
      simp only [block16, List.flatten_cons, Nat.zero_add]
      rw [show 16 * (i + 1) = x.length + 16 * i by omega, List.drop_append, Nat.add_sub_cancel_left,
        List.drop_of_length_le (by omega), List.nil_append]

theorem SigAt.split {sig : List Byte} {n : Nat} {xs ys : List (List Byte)} (h : SigAt sig n (xs ++ ys)) :
    SigAt sig n xs ∧ SigAt sig (n + xs.length) ys := by
  refine ⟨fun i b hi => h i b ?_, fun i b hi => ?_⟩
  · rw [List.getElem?_append_left]
    · exact hi
    · exact (List.getElem?_eq_some_iff.mp hi).1
  · rw [Nat.add_assoc]
    refine h _ b ?_
    rw [List.getElem?_append_right (Nat.le_add_right _ _), Nat.add_sub_cancel_left]
    exact hi

/-- Groups of c blocks, one after the other. -/
theorem SigAt.group {sig : List Byte} {c : Nat} : ∀ {gs : List (List (List Byte))} {n : Nat}, (∀ g ∈ gs, g.length = c) →
    SigAt sig n gs.flatten → ∀ i g, gs[i]? = some g → SigAt sig (n + i * c) g
  | [], _, _, _, i, g, hi => by simp at hi
  | x :: gs, n, hl, h, i, g, hi => by
    obtain ⟨h1, h2⟩ := SigAt.split (by simpa using h)
    cases i with
    | zero =>
      obtain rfl : x = g := by simpa using hi
      simpa using h1
    | succ i =>
      have := SigAt.group (fun g hg => hl g (List.mem_cons_of_mem _ hg)) h2 i g (by simpa using hi)
      rw [hl x List.mem_cons_self] at this
      rwa [show n + (i + 1) * c = n + c + i * c by rw [Nat.add_mul]; omega]

/-! ### Chains, paths, digits -/

theorem SlhKey.chain_length (k : SlhKey) (a : SlhAdrs) : ∀ (n i : Nat) (x : List Byte), x.length = 16 →
    (k.chain a n i x).length = 16
  | 0, _, _, h => h
  | n + 1, i, _, _ => k.chain_length a n (i + 1) _ (k.hash_length _ _)

theorem SlhKey.chain_add (k : SlhKey) (a : SlhAdrs) (n : Nat) : ∀ (m i : Nat) (x : List Byte),
    k.chain a n (i + m) (k.chain a m i x) = k.chain a (m + n) i x
  | 0, i, x => by simp [SlhKey.chain]
  | m + 1, i, x => by
    rw [show m + 1 + n = m + n + 1 by omega, SlhKey.chain, SlhKey.chain, show i + (m + 1) = i + 1 + m by omega]
    exact k.chain_add a n m (i + 1) _

/-- Two keys with one public seed hash alike. -/
theorem SlhKey.hash_seed {k v : SlhKey} (h : v.pkSeed = k.pkSeed) (a : SlhAdrs) (m : List Byte) : v.hash a m = k.hash a m := by
  unfold SlhKey.hash
  rw [h]

theorem SlhKey.chain_seed {k v : SlhKey} (h : v.pkSeed = k.pkSeed) (a : SlhAdrs) : ∀ (n i : Nat) (x : List Byte),
    v.chain a n i x = k.chain a n i x
  | 0, _, _ => rfl
  | n + 1, i, x => by rw [SlhKey.chain, SlhKey.chain, SlhKey.hash_seed h, SlhKey.chain_seed h a n]

theorem xor_one (i : Nat) : i ^^^ 1 = if i % 2 = 0 then i + 1 else i - 1 := by
  have h1 : (i ^^^ 1) / 2 = i / 2 := by
    have := Nat.shiftRight_xor_distrib (i := 1) (a := i) (b := 1)
    simpa [Nat.shiftRight_eq_div_pow] using this
  have h2 : (i ^^^ 1) % 2 = (i + 1) % 2 := Nat.xor_mod_two_eq
  split <;> omega

/-- The path of the siblings of node i leads to its ancestor. -/
theorem SlhKey.climb_path (v : SlhKey) (a : SlhAdrs) (sig : List Byte) (node : Nat → Nat → List Byte)
    (hn : ∀ z i, node (z + 1) i = v.hash { a with hi := z + 1, lo := i } (node z (2 * i) ++ node z (2 * i + 1))) :
    ∀ (n z i at' : Nat), SigAt sig at' ((List.range n).map fun j => node (z + j) ((i / 2 ^ j) ^^^ 1)) →
      v.climb a sig n z i at' (node z i) = node (z + n) (i / 2 ^ n)
  | 0, z, i, at', _ => by simp [SlhKey.climb]
  | n + 1, z, i, at', h => by
    rw [List.range_succ_eq_map, List.map_cons, List.map_map] at h
    have h0 : block16 sig at' = node z (i ^^^ 1) := by simpa using h 0 _ rfl
    obtain ⟨-, hr⟩ := SigAt.split (xs := [_]) h
    rw [SlhKey.climb]
    have hp : (if i % 2 = 0 then node z i ++ block16 sig at' else block16 sig at' ++ node z i) =
        node z (2 * (i / 2)) ++ node z (2 * (i / 2) + 1) := by
      rw [h0, xor_one]
      split
      · rw [show 2 * (i / 2) = i by omega]
      · rw [show 2 * (i / 2) = i - 1 by omega, show i - 1 + 1 = i by omega]
    rw [hp, ← hn, SlhKey.climb_path v a sig node hn n (z + 1) (i / 2) (at' + 1)]
    · rw [Nat.div_div_eq_div_mul, ← Nat.pow_succ', Nat.add_assoc, Nat.add_comm 1 n]
    · have e : (fun j => node (z + 1 + j) ((i / 2 / 2 ^ j) ^^^ 1)) =
          ((fun j => node (z + j) ((i / 2 ^ j) ^^^ 1)) ∘ Nat.succ) := by
        funext j
        simp only [Function.comp, Nat.succ_eq_add_one]
        rw [Nat.div_div_eq_div_mul, ← Nat.pow_succ', show z + 1 + j = z + (j + 1) by omega]
      rw [e]
      exact hr

theorem slhDigits_length (bs : List Byte) (b n : Nat) : (slhDigits bs b n).length = n := by simp [slhDigits]

theorem slhDigits_lt (bs : List Byte) (b n d : Nat) (h : d ∈ slhDigits bs b n) : d < 2 ^ b := by
  simp only [slhDigits, List.mem_map] at h
  obtain ⟨_, -, rfl⟩ := h
  exact Nat.mod_lt _ (Nat.two_pow_pos b)

theorem wotsDigits_length (m : List Byte) : (wotsDigits m).length = 35 := by simp [wotsDigits, slhDigits_length]

theorem wotsDigits_lt (m : List Byte) (d : Nat) (h : d ∈ wotsDigits m) : d < 16 := by
  simp only [wotsDigits, List.mem_append] at h
  rcases h with h | h <;> exact slhDigits_lt _ 4 _ _ h

/-- A list by its positions. -/
theorem mapIdx_range {α : Type} {n : Nat} {ds : List Nat} (hl : ds.length = n) (f : Nat → Nat → α) (g : Nat → α)
    (h : ∀ i d, ds[i]? = some d → f i d = g i) : ds.mapIdx f = (List.range n).map g := by
  apply List.ext_getElem
  · simp [hl]
  · intro i h1 h2
    simp only [List.getElem_mapIdx, List.getElem_map, List.getElem_range]
    exact h i _ (List.getElem?_eq_getElem _)

/-! ### WOTS+ and XMSS -/

/-- The blocks of a WOTS+ signature. -/
def SlhKey.wotsBlocks (k : SlhKey) (a : SlhAdrs) (m : List Byte) : List (List Byte) :=
  (wotsDigits m).mapIdx fun i d => k.chain { a with typ := 0, hi := i } d 0 (k.wotsSk a i)

theorem SlhKey.wotsSk_length (k : SlhKey) (a : SlhAdrs) (i : Nat) : (k.wotsSk a i).length = 16 := k.hash_length _ _

theorem SlhKey.wotsFrom_sign {k v : SlhKey} (hs : v.pkSeed = k.pkSeed) (a : SlhAdrs) (m sig : List Byte) (n : Nat)
    (h : SigAt sig n (k.wotsBlocks a m)) : v.wotsFrom a m sig n = k.wotsPk a := by
  unfold SlhKey.wotsFrom SlhKey.wotsPk
  rw [SlhKey.hash_seed hs]
  refine congrArg _ ?_
  rw [List.flatMap]
  refine congrArg _ (mapIdx_range (wotsDigits_length m) _ _ fun i d hd => ?_)
  have hb := h i (k.chain { a with typ := 0, hi := i } d 0 (k.wotsSk a i)) (by simp [SlhKey.wotsBlocks, hd])
  have hlt := wotsDigits_lt m d (List.mem_of_getElem? hd)
  rw [hb, SlhKey.chain_seed hs]
  have := k.chain_add { a with typ := 0, hi := i } (15 - d) d 0 (k.wotsSk a i)
  rw [Nat.zero_add] at this
  rw [this, show d + (15 - d) = 15 by omega]

/-- The blocks of one layer's signature. -/
def SlhKey.xmssBlocks (k : SlhKey) (a : SlhAdrs) (m : List Byte) (i : Nat) : List (List Byte) :=
  k.wotsBlocks { a with kp := i } m ++ (List.range 3).map fun j => k.xmssNode a j ((i / 2 ^ j) ^^^ 1)

theorem SlhKey.xmssNode_length (k : SlhKey) (a : SlhAdrs) : ∀ z i, (k.xmssNode a z i).length = 16
  | 0, _ => k.hash_length _ _
  | _ + 1, _ => k.hash_length _ _

theorem SlhKey.wotsBlocks_length (k : SlhKey) (a : SlhAdrs) (m : List Byte) : (k.wotsBlocks a m).length = 35 := by
  simp [SlhKey.wotsBlocks, wotsDigits_length]

theorem SlhKey.wotsBlocks_sized (k : SlhKey) (a : SlhAdrs) (m : List Byte) : ∀ b ∈ k.wotsBlocks a m, b.length = 16 := by
  intro b hb
  simp only [SlhKey.wotsBlocks, List.mem_mapIdx] at hb
  obtain ⟨i, hi, rfl⟩ := hb
  exact k.chain_length _ _ _ _ (k.wotsSk_length _ _)

theorem SlhKey.xmssBlocks_sized (k : SlhKey) (a : SlhAdrs) (m : List Byte) (i : Nat) : ∀ b ∈ k.xmssBlocks a m i, b.length = 16 := by
  intro b hb
  simp only [SlhKey.xmssBlocks, List.mem_append, List.mem_map] at hb
  rcases hb with hb | ⟨j, -, rfl⟩
  · exact k.wotsBlocks_sized _ _ b hb
  · exact k.xmssNode_length _ _ _

theorem SlhKey.xmssSign_blocks (k : SlhKey) (a : SlhAdrs) (m : List Byte) (i : Nat) :
    k.xmssSign a m i = (k.xmssBlocks a m i).flatten := by
  simp [SlhKey.xmssSign, SlhKey.xmssBlocks, SlhKey.wotsSign, SlhKey.wotsBlocks, List.flatMap]

theorem SlhKey.xmss_climb {k v : SlhKey} (hs : v.pkSeed = k.pkSeed) (a : SlhAdrs) (ha : a.kp = 0) (m sig : List Byte) (i n : Nat) (hi : i < 8)
    (h : SigAt sig n (k.xmssBlocks a m i)) :
    v.climb { a with typ := 2 } sig 3 0 i (n + 35) (v.wotsFrom { a with kp := i } m sig n) = k.xmssNode a 3 0 := by
  obtain ⟨h1, h2⟩ := SigAt.split h
  rw [SlhKey.wotsFrom_sign hs _ _ _ _ h1]
  rw [SlhKey.wotsBlocks_length] at h2
  have := v.climb_path { a with typ := 2 } sig (k.xmssNode a) (fun z i => by
    rw [SlhKey.xmssNode, SlhKey.hash_seed hs, ← ha]) 3 0 i (n + 35) (by simpa using h2)
  rw [show i / 2 ^ 3 = 0 by omega] at this
  exact this

/-! ### The hypertree -/

/-- The blocks of n layers from layer j on. -/
def SlhKey.htBlocks (k : SlhKey) : (n j tree leaf : Nat) → List Byte → List (List Byte)
  | 0, _, _, _, _ => []
  | n + 1, j, tree, leaf, m =>
    let a : SlhAdrs := { layer := j, tree := tree, typ := 0, kp := 0, hi := 0, lo := 0 }
    k.xmssBlocks a m leaf ++ k.htBlocks n (j + 1) (tree / 8) (tree % 8) (k.xmssNode a 3 0)

theorem SlhKey.htBlocks_sized (k : SlhKey) : ∀ (n j tree leaf : Nat) (m : List Byte), ∀ b ∈ k.htBlocks n j tree leaf m, b.length = 16
  | 0, _, _, _, _, b, hb => by simp [SlhKey.htBlocks] at hb
  | n + 1, j, tree, leaf, m, b, hb => by
    simp only [SlhKey.htBlocks, List.mem_append] at hb
    rcases hb with hb | hb
    · exact k.xmssBlocks_sized _ _ _ b hb
    · exact k.htBlocks_sized n _ _ _ _ b hb

theorem SlhKey.htSign_blocks (k : SlhKey) : ∀ (n j tree leaf : Nat) (m : List Byte),
    k.htSign n j tree leaf m = (k.htBlocks n j tree leaf m).flatten
  | 0, _, _, _, _ => rfl
  | n + 1, j, tree, leaf, m => by
    rw [SlhKey.htSign, SlhKey.htBlocks, List.flatten_append, k.xmssSign_blocks, k.htSign_blocks n]

theorem SlhKey.htBlocks_length (k : SlhKey) : ∀ (n j tree leaf : Nat) (m : List Byte), (k.htBlocks n j tree leaf m).length = 38 * n
  | 0, _, _, _, _ => rfl
  | n + 1, j, tree, leaf, m => by
    rw [SlhKey.htBlocks, List.length_append, k.htBlocks_length n]
    simp only [SlhKey.xmssBlocks, List.length_append, k.wotsBlocks_length, List.length_map, List.length_range]
    omega

theorem SlhKey.htFrom_succ (v : SlhKey) (sig : List Byte) (n j tree leaf at' : Nat) (m : List Byte) :
    v.htFrom slh128f sig (n + 1) j tree leaf at' m =
      v.htFrom slh128f sig n (j + 1) (tree / 8) (tree % 8) (at' + 38)
        (v.climb { layer := j, tree := tree, typ := 2, kp := 0, hi := 0, lo := 0 } sig 3 0 leaf (at' + 35)
          (v.wotsFrom { layer := j, tree := tree, typ := 0, kp := leaf, hi := 0, lo := 0 } m sig at')) := rfl

theorem SlhKey.htFrom_sign {k v : SlhKey} (hs : v.pkSeed = k.pkSeed) (sig : List Byte) (n : Nat) :
    ∀ (j tree leaf at' : Nat) (m : List Byte), leaf < 8 → SigAt sig at' (k.htBlocks (n + 1) j tree leaf m) →
      v.htFrom slh128f sig (n + 1) j tree leaf at' m =
        k.xmssNode { layer := j + n, tree := tree / 8 ^ n, typ := 0, kp := 0, hi := 0, lo := 0 } 3 0 := by
  induction n with
  | zero =>
    intro j tree leaf at' m hl h
    rw [SlhKey.htBlocks] at h
    have hx := SlhKey.xmss_climb hs { layer := j, tree := tree, typ := 0, kp := 0, hi := 0, lo := 0 } rfl m sig leaf at' hl h.split.1
    rw [SlhKey.htFrom_succ, hx, SlhKey.htFrom, Nat.pow_zero, Nat.div_one, Nat.add_zero]
  | succ n ih =>
    intro j tree leaf at' m hl h
    rw [SlhKey.htBlocks] at h
    obtain ⟨h1, h2⟩ := SigAt.split h
    have hx := SlhKey.xmss_climb hs { layer := j, tree := tree, typ := 0, kp := 0, hi := 0, lo := 0 } rfl m sig leaf at' hl h1
    have hlen : (k.xmssBlocks { layer := j, tree := tree, typ := 0, kp := 0, hi := 0, lo := 0 } m leaf).length = 38 := by
      simp [SlhKey.xmssBlocks, k.wotsBlocks_length]
    rw [hlen] at h2
    rw [SlhKey.htFrom_succ, hx, ih _ _ _ _ _ (Nat.mod_lt _ (by decide)) h2, Nat.div_div_eq_div_mul, ← Nat.pow_succ',
      show j + 1 + n = j + (n + 1) by omega]

/-! ### FORS -/

/-- The blocks of one tree's part. -/
def SlhKey.forsPart (k : SlhKey) (a : SlhAdrs) (i d : Nat) : List (List Byte) :=
  k.forsSk a (64 * i + d) :: (List.range 6).map fun j => k.forsNode a j (i * 2 ^ (6 - j) + ((d / 2 ^ j) ^^^ 1))

theorem SlhKey.forsNode_length (k : SlhKey) (a : SlhAdrs) : ∀ z i, (k.forsNode a z i).length = 16
  | 0, _ => k.hash_length _ _
  | _ + 1, _ => k.hash_length _ _

theorem SlhKey.forsPart_sized (k : SlhKey) (a : SlhAdrs) (i d : Nat) : ∀ b ∈ k.forsPart a i d, b.length = 16 := by
  intro b hb
  simp only [SlhKey.forsPart, List.mem_cons, List.mem_map] at hb
  rcases hb with rfl | ⟨j, -, rfl⟩
  · exact k.hash_length _ _
  · exact k.forsNode_length _ _ _

theorem SlhKey.forsSign_blocks (k : SlhKey) (a : SlhAdrs) (ds : List Nat) :
    k.forsSign a ds = ((ds.mapIdx fun i d => k.forsPart a i d).flatten).flatten := by
  rw [SlhKey.forsSign, List.flatten_flatten]
  refine congrArg _ ?_
  apply List.ext_getElem
  · simp
  · intro i h1 h2
    simp [SlhKey.forsPart, List.flatMap]

theorem fors_sibling (i d j : Nat) (hj : j < 6) : (64 * i + d) / 2 ^ j ^^^ 1 = i * 2 ^ (6 - j) + ((d / 2 ^ j) ^^^ 1) := by
  have h : (64 * i + d) / 2 ^ j = i * 2 ^ (6 - j) + d / 2 ^ j := by
    rw [show 64 * i = 2 ^ j * (i * 2 ^ (6 - j)) by
      rw [Nat.mul_left_comm, ← Nat.pow_add, show j + (6 - j) = 6 by omega]; omega]
    exact Nat.mul_add_div (Nat.two_pow_pos j) _ _
  have he : i * 2 ^ (6 - j) = 2 * (i * 2 ^ (5 - j)) := by
    rw [Nat.mul_left_comm, ← Nat.pow_succ', show (5 - j).succ = 6 - j by omega]
  rw [h, xor_one, xor_one]
  generalize i * 2 ^ (6 - j) = x at he
  generalize i * 2 ^ (5 - j) = y at he
  generalize d / 2 ^ j = z
  split <;> split <;> omega

theorem SlhKey.forsFrom_sign {k v : SlhKey} (hs : v.pkSeed = k.pkSeed) (a : SlhAdrs) (ha : a.typ = 3) (ds : List Nat)
    (hl : ds.length = 33) (hd : ∀ d ∈ ds, d < 64) (sig : List Byte)
    (h : SigAt sig 1 (ds.mapIdx fun i d => k.forsPart a i d).flatten) : v.forsFrom slh128f a ds sig = k.forsPk a := by
  unfold SlhKey.forsFrom SlhKey.forsPk
  rw [SlhKey.hash_seed hs, List.flatMap]
  refine congrArg _ (congrArg _ (mapIdx_range hl _ _ fun i d hi => ?_))
  have hg := SigAt.group (c := 7) (by
    intro g hg
    simp only [List.mem_mapIdx] at hg
    obtain ⟨j, hj, rfl⟩ := hg
    simp [SlhKey.forsPart]) h i (k.forsPart a i d) (by simp [hi])
  have h0 : block16 sig (1 + i * 7) = k.forsSk a (64 * i + d) := by simpa using hg 0 _ rfl
  obtain ⟨-, hp⟩ := SigAt.split (xs := [_]) hg
  have hlt := hd d (List.mem_of_getElem? hi)
  have ht : ({ a with typ := 3 } : SlhAdrs) = a := by rw [← ha]
  simp only [slh128f]
  rw [show 1 + 6 = 7 from rfl, show (2 : Nat) ^ 6 = 64 from rfl, h0]
  have hz : v.hash { a with hi := 0, lo := 64 * i + d } (k.forsSk a (64 * i + d)) = k.forsNode a 0 (64 * i + d) := by
    rw [SlhKey.hash_seed hs, SlhKey.forsNode, ← ha]
  rw [hz, v.climb_path a sig (k.forsNode a) (fun z i => by rw [SlhKey.forsNode, SlhKey.hash_seed hs, ← ha])]
  · rw [Nat.zero_add, show (64 * i + d) / 2 ^ 6 = i by omega]
  · have e : ((List.range 6).map fun j => k.forsNode a (0 + j) ((64 * i + d) / 2 ^ j ^^^ 1)) =
        (List.range 6).map fun j => k.forsNode a j (i * 2 ^ (6 - j) + ((d / 2 ^ j) ^^^ 1)) := by
      refine List.map_congr_left fun j hj => ?_
      rw [Nat.zero_add, fors_sibling i d j (List.mem_range.mp hj)]
    rw [e]
    exact hp

/-! ### Signatures -/

/-- Big-endian bytes and their number. -/
theorem beBytes_foldl : ∀ (bs : List Byte) (n : Nat), bs.length = n →
    beBytes n (bs.foldl (fun n b => n * 256 + b.toNat) 0) = bs := by
  have key : ∀ (bs : List Byte) (x : Nat), leBytes bs.length (bs.reverse.foldl (fun n b => n * 256 + b.toNat) x) = bs := by
    intro bs
    induction bs with
    | nil => intro x; rfl
    | cons b bs ih =>
      intro x
      rw [List.reverse_cons, List.foldl_append, List.length_cons, leBytes]
      simp only [List.foldl_cons, List.foldl_nil]
      have h := b.isLt
      generalize hy : bs.reverse.foldl (fun n b => n * 256 + b.toNat) x = y
      have := ih x
      rw [hy] at this
      rw [show (y * 256 + b.toNat) / 256 = y by omega, this]
      congr 1
      apply BitVec.eq_of_toNat_eq
      simp
      omega
  intro bs n h
  subst h
  have := key bs.reverse 0
  rw [List.reverse_reverse, List.length_reverse] at this
  rw [beBytes, this, List.reverse_reverse]

/-- The public key of a key pair: PK.seed and PK.root. -/
def SlhKey.pk (k : SlhKey) : BitVec 256 := BitVec.ofNat 256 ((k.pkSeed ++ k.root).foldl (fun n b => n * 256 + b.toNat) 0)

theorem foldl_bytes_lt : ∀ (bs : List Byte) (x : Nat), bs.foldl (fun n b => n * 256 + b.toNat) x < (x + 1) * 256 ^ bs.length
  | [], x => by simp
  | b :: bs, x => by
    have h := foldl_bytes_lt bs (x * 256 + b.toNat)
    have hb := b.isLt
    rw [List.foldl_cons, List.length_cons, Nat.pow_succ', ← Nat.mul_assoc]
    exact Nat.lt_of_lt_of_le h (Nat.mul_le_mul_right _ (by omega))

theorem keyBytes_pk (k : SlhKey) (h : k.pkSeed.length = 16) : keyBytes k.pk = k.pkSeed ++ k.root := by
  have hl : (k.pkSeed ++ k.root).length = 32 := by rw [List.length_append, h, SlhKey.root, k.xmssNode_length]
  have hlt := foldl_bytes_lt (k.pkSeed ++ k.root) 0
  rw [hl] at hlt
  unfold keyBytes SlhKey.pk
  rw [BitVec.toNat_ofNat, Nat.mod_eq_of_lt (by simpa using hlt)]
  exact beBytes_foldl _ _ hl

/-- The blocks of a signature with randomiser r, of the digits ds, by leaf `leaf` of tree `tree`. -/
def SlhKey.sigBlocks (k : SlhKey) (r : List Byte) (tree leaf : Nat) (ds : List Nat) : List (List Byte) :=
  (r :: (ds.mapIdx fun i d => k.forsPart { layer := 0, tree := tree, typ := 3, kp := leaf, hi := 0, lo := 0 } i d).flatten) ++
    k.htBlocks 22 0 tree leaf (k.forsPk { layer := 0, tree := tree, typ := 3, kp := leaf, hi := 0, lo := 0 })

theorem SlhKey.forsParts_length (k : SlhKey) (a : SlhAdrs) (ds : List Nat) :
    (ds.mapIdx fun i d => k.forsPart a i d).flatten.length = 7 * ds.length := by
  have : ∀ g ∈ ds.mapIdx fun i d => k.forsPart a i d, g.length = 7 := by
    intro g hg
    simp only [List.mem_mapIdx] at hg
    obtain ⟨j, hj, rfl⟩ := hg
    simp [SlhKey.forsPart]
  rw [List.length_flatten, List.map_congr_left this]
  simp [Nat.mul_comm]

theorem SlhKey.sigBlocks_sized (k : SlhKey) (r : List Byte) (hr : r.length = 16) (tree leaf : Nat) (ds : List Nat) :
    ∀ b ∈ k.sigBlocks r tree leaf ds, b.length = 16 := by
  intro b hm
  simp only [SlhKey.sigBlocks, List.mem_append, List.mem_cons, List.mem_flatten, List.mem_mapIdx] at hm
  rcases hm with (rfl | ⟨g, ⟨i, hi, rfl⟩, hm⟩) | hm
  · exact hr
  · exact k.forsPart_sized _ _ _ b hm
  · exact k.htBlocks_sized _ _ _ _ _ b hm

theorem SlhKey.sigBlocks_length (k : SlhKey) (r : List Byte) (hr : r.length = 16) (tree leaf : Nat) (ds : List Nat)
    (hl : ds.length = 33) : (k.sigBlocks r tree leaf ds).flatten.length = 17088 := by
  rw [List.length_flatten, List.map_congr_left (k.sigBlocks_sized r hr tree leaf ds), List.map_const', List.sum_replicate_nat,
    SlhKey.sigBlocks, List.length_append, List.length_cons, k.forsParts_length, k.htBlocks_length, hl]

/-- What a verifier finds in a signature: its randomiser, and the root. -/
theorem SlhKey.sigBlocks_root {k v : SlhKey} (hs : v.pkSeed = k.pkSeed) (r : List Byte) (hr : r.length = 16) (tree leaf : Nat)
    (ds : List Nat) (hl : ds.length = 33) (hd : ∀ d ∈ ds, d < 64) (ht : tree < 2 ^ 63) (hf : leaf < 8) (sig : List Byte)
    (he : sig = (k.sigBlocks r tree leaf ds).flatten) :
    block16 sig 0 = r ∧ v.htFrom slh128f sig 22 0 tree leaf 232
      (v.forsFrom slh128f { layer := 0, tree := tree, typ := 3, kp := leaf, hi := 0, lo := 0 } ds sig) = k.root := by
  have hat := sigAt_flatten _ (k.sigBlocks_sized r hr tree leaf ds)
  rw [← he] at hat
  obtain ⟨h1, h2⟩ := hat.split
  obtain ⟨-, h3⟩ := SigAt.split (xs := [_]) h1
  refine ⟨h1 0 r rfl, ?_⟩
  rw [SlhKey.forsFrom_sign hs _ rfl ds hl hd sig h3]
  rw [List.length_cons, k.forsParts_length, hl] at h2
  rw [SlhKey.htFrom_sign hs sig 21 0 tree leaf 232 _ hf h2, Nat.div_eq_of_lt (by rwa [show 8 ^ 21 = 2 ^ 63 from rfl])]
  rfl

/-- The number of a byte string, first byte most significant. -/
def beNum (bs : List Byte) : Nat := bs.foldl (fun n c => n * 256 + c.toNat) 0

/-- The randomiser and the message digest of a signature. -/
def SlhKey.rand (k : SlhKey) (msg : List Byte) : List Byte := (hmac k.skPrf (k.pkSeed ++ ([0, 0] ++ msg))).take 16
def slhDigest (seed root r msg : List Byte) : List Byte :=
  mgf1 (r ++ seed ++ shaBytes (r ++ seed ++ root ++ ([0, 0] ++ msg))) 34

theorem SlhKey.sign_blocks (k : SlhKey) (msg : List Byte) :
    let d := slhDigest k.pkSeed k.root (k.rand msg) msg
    k.sign msg = (k.sigBlocks (k.rand msg) (beNum ((d.drop 25).take 8) % 2 ^ 63) (beNum (d.drop 33) % 8)
      (slhDigits (d.take 25) 6 33)).flatten := by
  intro d
  rw [SlhKey.sigBlocks, List.flatten_append, List.flatten_cons, ← k.forsSign_blocks, ← k.htSign_blocks]
  rfl

theorem slhVerify_root (key : BitVec 256) (msg sig : List Byte) :
    let seed := (keyBytes key).take 16
    let root := (keyBytes key).drop 16
    let d := slhDigest seed root (block16 sig 0) msg
    let v : SlhKey := { skSeed := [], skPrf := [], pkSeed := seed }
    let tree := beNum ((d.drop 25).take 8) % 2 ^ 63
    let leaf := beNum (d.drop 33) % 8
    slhVerify slh128f key msg sig = (sig.length == 17088 && v.htFrom slh128f sig 22 0 tree leaf 232
      (v.forsFrom slh128f { layer := 0, tree := tree, typ := 3, kp := leaf, hi := 0, lo := 0 } (slhDigits (d.take 25) 6 33) sig) == root) := by
  intro seed root d v tree leaf
  unfold slhVerify
  simp only [List.append_assoc, d, slhDigest, tree, leaf, v, seed, root]
  rfl

/-- A key pair's signature has the length of its parameter set and verifies under its public key. -/
theorem slhVerify_sign (k : SlhKey) (h : k.pkSeed.length = 16) (msg : List Byte) :
    (k.sign msg).length = 17088 ∧ slhVerify slh128f k.pk msg (k.sign msg) = true := by
  have hk := keyBytes_pk k h
  have h1 : (keyBytes k.pk).take 16 = k.pkSeed := by rw [hk]; exact List.take_left' h
  have h2 : (keyBytes k.pk).drop 16 = k.root := by rw [hk]; exact List.drop_left' h
  have hr : (k.rand msg).length = 16 := by simp [SlhKey.rand, hmac, shaBytes_length]
  have hsig := k.sign_blocks msg
  have hroot := SlhKey.sigBlocks_root (v := { skSeed := [], skPrf := [], pkSeed := k.pkSeed }) (k := k) rfl (k.rand msg) hr _ _
    (slhDigits (slhDigest k.pkSeed k.root (k.rand msg) msg |>.take 25) 6 33) (slhDigits_length _ _ _)
    (fun d hd => slhDigits_lt _ 6 _ _ hd) (Nat.mod_lt (beNum (((slhDigest k.pkSeed k.root (k.rand msg) msg).drop 25).take 8))
      (show 2 ^ 63 > 0 by decide)) (Nat.mod_lt (beNum ((slhDigest k.pkSeed k.root (k.rand msg) msg).drop 33)) (show 8 > 0 by decide))
    (k.sign msg) hsig
  have hlen : (k.sign msg).length = 17088 := by
    rw [hsig]
    exact k.sigBlocks_length _ hr _ _ _ (slhDigits_length _ _ _)
  refine ⟨hlen, ?_⟩
  rw [slhVerify_root, h1, h2, hroot.1, hroot.2, hlen]
  simp

/-- What the module signs verifies under IDKEY. -/
theorem slhVerify_slhSig (msg : List Byte) :
    (slhSig msg).length = 17088 ∧ slhVerify slh128f identityKey msg (slhSig msg) = true :=
  slhVerify_sign slhIdentity (by simp [slhIdentity, shaBytes_length]) msg

end Sys2Proof.Machine
end

