-- ==== Sys2Proof/Tests/Slice0.lean ====
section
/-! SUPPORT. Tests: ill-formed terms are refused, words of the spec's encodings decode, and each statement's hypotheses are
met by a concrete state. The states are small variations of one running module. -/
namespace Sys2Proof.Tests
open Sys2Proof Sys2Proof.Machine Sys2Proof.Claims
set_option Elab.async false

/-! ### Well-formedness: one ill-formed term for each check -/

def p0 : Site := ⟨0, 0⟩

theorem test_wf_add : (Instr.add p0 ⟨1, 2, 3⟩).wf = true := by decide
/-- A shift amount above 63 (R208). -/
theorem test_wf_encoding : (Instr.shli p0 ⟨1, 2, 64⟩).illFormed = some .encoding := by decide
/-- A legal word is not ILLEGAL (R206). -/
theorem test_wf_notIllegal : (Instr.illegal p0 0 0).illFormed = some .notIllegal := by decide
theorem test_wf_symbols : (Instr.patrolRead 0 ⟨[⟨0, 0, 0⟩], []⟩).illFormed = some .symbols := by decide
theorem test_wf_sensors : (Instr.governorTick Measure.zero).illFormed = some .sensors := by decide

/-- On path 0, to port 4793. -/
def udp0 : Udp := ⟨0, 4793, false⟩

/-- A PROBE for session 0. -/
def probe0 : NctPkt :=
  { ver := 1, typ := 4, kepoch := false, role := false, port := 0, pgen := 0, dsess := 0, psn := 0, ce := 0, msgid := 0,
    addr := 0, mpkts := 0, cum := 0, newc := 0, sack := 0, code := 0, payload := [], tag := List.replicate 16 0 }

theorem test_wf_payload : (Instr.nctProbeRx udp0 { probe0 with payload := List.replicate 4097 0 }).illFormed =
    some .payload := by decide +kernel
theorem test_wf_access : (Instr.registerWrite .host 0 0 0).illFormed = some .access := by decide

/-! ### Decoding: words written out from the layouts of R207 and the tables of R208-R235 -/

/-- The instruction a pair of words spells. -/
def dec (w x : Word) : Option Instr := decodeJalner p0 .none [] w x

/-- R208: major 0x00 minor 0x01 with rd = 1 at 47, ra = 2 at 42, rb = 3 at 37. -/
theorem test_decode_add : dec 0x0010886000000000 0 = some (.add p0 ⟨1, 2, 3⟩) := by decide
/-- R208: major 0x01 minor 0x01, IMM = -1. -/
theorem test_decode_addi : dec 0x04108800FFFFFFFF 0 = some (.addi p0 ⟨1, 2, 0xFFFFFFFF⟩) := by decide
/-- R209: major 0x02 minor 0x00 with rd = 3, ra = 4, OFF = 8. -/
theorem test_decode_ld64 : dec 0x0801900000000008 0 = some (.ld64 p0 ⟨3, 4, 8⟩ .none) := by decide
/-- R210: major 0x03 minor 0x00 with ra = 1 at 47, rb = 2 at 42, OFF = 2. -/
theorem test_decode_beq : dec 0x0C00880000000002 0 = some (.beq p0 ⟨1, 2, 2⟩) := by decide
/-- R211: major 0x04 minor 0x01 with T = 1 at 50, MASK = 3 at 34. -/
theorem test_decode_pgive : dec 0x1014000C00000000 0 = some (.pgive p0 ⟨1, 3⟩) := by decide
/-- R215: major 0x08 minor 0x01 with r1 to r4 = 1 to 4; DSTRIDE 0x100 above SSTRIDE 0x200 in the extension word. -/
theorem test_decode_dcopy2d :
    dec 0x2010886400000000 0x0000010000000200 = some (.dcopy2d p0 ⟨1, 2, 3, 4⟩ 0x100 0x200) := by decide
/-- R217: major 0x0A minor 0x00 with SFMT = 1 at 30, ZRC = 1 at 29, FMT BF16 at 24. -/
theorem test_decode_stash :
    dec 0x2800886462000000 0 = some (.stash p0 ⟨1, 2, 3, 4, 1, true, 2, 0, false⟩) := by decide
/-- The worked example of R220. -/
theorem test_decode_mmq : dec 0x400042110A000000 0x7FFF9F8008000100 =
    some (.mmq p0 ⟨0, 2, 2, false, false, false, true, false, 4, 5, 0, 0, 0, 1023, 63, 63, 128, 128⟩) := by decide
/-- R221: major 0x11 minor 0x01 with PART = 3 at 50, ra = 5 at 45. -/
theorem test_decode_mocfg : dec 0x441CA00000000000 0 = some (.mocfg p0 ⟨3, 5⟩ .none) := by decide
/-- R224: major 0x18 minor 0x00 with pd = 1 at 48, pa = 2 at 44, pb = 3 at 40, FMT BF16 at 31. -/
theorem test_decode_vadd : dec 0x6001230100000000 0 = some (.vadd p0 ⟨1, 2, 3, 0, 2, 0, false, 0, 0, 0⟩) := by decide
/-- R224: major 0x1B minor 0x00 with pd = 1 at 48, ra = 2 at 43, rb = 3 at 38. -/
theorem test_decode_vld : dec 0x6C0110C000000000 0 = some (.vld p0 ⟨1, 2, 3, 0, 0, 0, false⟩ .none) := by decide
/-- R224: major 0x1A minor 0x02 with p = 1 at 48, r = 2 at 43, ROW = 3 at 37, COL = 4 at 31. -/
theorem test_decode_vget : dec 0x6821106200000000 0 = some (.vget p0 ⟨1, 2, 3, 4, 0⟩) := by decide
/-- R229: major 0x28 minor 0x01 with K = 1 at 46, VAL = 2 at 30. -/
theorem test_decode_semsig : dec 0xA010400080000000 0 = some (.semsig p0 ⟨1, 2⟩) := by decide
/-- R230: major 0x29 minor 0x01 with rv = 1 at 47, FENCE = 5 at 33. -/
theorem test_decode_fwait : dec 0xA410800A00000000 0 = some (.fwait p0 ⟨1, 5, false, 0⟩) := by decide
/-- R231: major 0x2A minor 0x00 with bit 51. -/
theorem test_decode_sync : dec 0xA808000000000000 0 = some (.sync p0 ⟨true, false, false, false, false⟩) := by decide
/-- R232: major 0x2C minor 0x00 with rdesc = 1 at 47, FENCE = 5 at 33, rv = 2 at 22. -/
theorem test_decode_nput : dec 0xB000800A00800000 0 = some (.nput p0 ⟨1, 5, false, 0, 2⟩) := by decide
/-- R234: major 0x30 minor 0x00 with rs = 1 at 47, KEY = 7 at 31, SEL = 3 at 29. -/
theorem test_decode_rseed : dec 0xC0008003E0000000 0 = some (.rseed p0 ⟨1, 7, 3⟩) := by decide
/-- R235: major 0x3F minor 0x01 with IMM = 7. -/
theorem test_decode_trap : dec 0xFC10000000000007 0 = some (.trap p0 7) := by decide
/-- R206: major 0x05 is not listed, DETAIL 58; an RZ bit of ADD is DETAIL 0. -/
theorem test_illegal : illegalDetail 0x1400000000000000 0 = some 58 ∧ illegalDetail 0x0010886000000001 0 = some 0 := by decide

/-! ### A running module -/

/-- A stream that runs at 0x4000 and owns every plate; register n holds n. -/
def st0 : Stream :=
  { Stream.reset with
    mode := .run, pc := 0x4000, plates := 0xFFFF, regs := Vector.ofFn fun i => BitVec.ofNat 64 i.val }

/-- An ACTIVE core of context 1 whose stream 0 is as given and whose other streams are IDLE; its instruction
cache holds the line at 0x4000. -/
def coreWith (st : Stream) : Core :=
  { Core.reset 0 with
    mode := .active, ctx := some 1, present := 15, icache := [(0x40, zeroLine)], streams := (Vector.replicate 4 Stream.reset).set 0 st }

/-- The entry of context 1: LIVE, its tables at 0x1000. -/
def ctx1 : List Word := ((List.replicate 32 0).set 1 0x1000).set 6 1

/-- The entry of fence 5: LIVE, owned by context 1, at 7. -/
def fence5 : List Word := [7, 0x8008000080000000, 0, 0]

/-- The module runs under a boot key, every core as k; context 1 is LIVE and owns fence 5, which holds 7. -/
def run (k : Core) : State :=
  { State.reset with
    cores := Vector.replicate 96 k
    mem := { Mem.reset with keyValid := true }
    sup := { Supply.reset with power := .running }
    cur := { Curator.reset with fwrun := true, phase := 10 }
    glob := { Glob.reset with released := true, meshRun := true, serviceRun := true, stackRun := true, ready := true }
    host := { HostObj.reset with
      lock := true, ctxs := [(1, ctx1)], fences := [(5, fence5)] } }

/-- Stream 0 runs on every core. -/
def s0 : State := run (coreWith st0)

/-- Stream 0 is as given. -/
def sWith (st : Stream) : State := run (coreWith st)

/-- What Presents asks, as a test. -/
def presents (p : Site) (i : Instr) (s : State) : Bool :=
  decide (i.site = some p) && i.encodes && s.mayIssue p && !s.scalarDue p i &&
    s.fetched p ((encode i).getD (0, 0)).1

theorem presents_of {p : Site} {i : Instr} {s : State} (h : presents p i s = true) : Presents p i s := by
  simp only [presents, Bool.and_eq_true, decide_eq_true_eq, Bool.not_eq_true'] at h
  exact ⟨h.1.1.1.1, h.1.1.1.2, h.1.1.2, h.1.2, h.2⟩

/-! ### Scalar instructions -/

/-- A test of every member of a list. -/
theorem each {α : Type} {p : α → Prop} [∀ a, Decidable (p a)] (l : List α) (h : (l.all fun a => decide (p a)) = true) :
    ∀ a ∈ l, p a := fun a ha => of_decide_eq_true (List.all_eq_true.mp h a ha)

theorem witness_ScalarRegister : ∀ e ∈ aluR, Presents p0 (e.1 p0 ⟨31, 1, 2⟩) s0 ∧ Presents p0 (e.1 p0 ⟨0, 0, 0⟩) s0 :=
  fun e h => ⟨presents_of ((by decide : ∀ e ∈ aluR, presents p0 (e.1 p0 ⟨31, 1, 2⟩) s0 = true) e h),
    presents_of ((by decide : ∀ e ∈ aluR, presents p0 (e.1 p0 ⟨0, 0, 0⟩) s0 = true) e h)⟩

/-- Every immediate form at IMM 63, the largest shift; MOVI with ra 0. -/
theorem witness_ScalarImmediate : ∀ e ∈ aluI, Presents p0 (e.1 p0 ⟨31, 0, 63⟩) s0 := fun e h =>
  presents_of ((by decide : ∀ e ∈ aluI, presents p0 (e.1 p0 ⟨31, 0, 63⟩) s0 = true) e h)

theorem witness_branches_presented : ∀ e ∈ branches, Presents p0 (e.1 p0 ⟨1, 2, 0xFFFFFFFF⟩) s0 := fun e h =>
  presents_of ((by decide : ∀ e ∈ branches, presents p0 (e.1 p0 ⟨1, 2, 0xFFFFFFFF⟩) s0 = true) e h)

/-- Each condition holds of some operands and fails of others. -/
theorem witness_branches_conditions : ∀ e ∈ branches, (∃ a b : Word, e.2 a b) ∧ ∃ a b : Word, ¬ e.2 a b := by
  simp only [branches, List.forall_mem_cons, List.not_mem_nil, false_implies, implies_true, and_true]
  exact ⟨⟨⟨0, 0, by decide⟩, ⟨0, 1, by decide⟩⟩, ⟨⟨0, 1, by decide⟩, ⟨0, 0, by decide⟩⟩,
    ⟨⟨-1, 0, by decide⟩, ⟨0, -1, by decide⟩⟩, ⟨⟨0, -1, by decide⟩, ⟨-1, 0, by decide⟩⟩,
    ⟨⟨0, -1, by decide⟩, ⟨-1, 0, by decide⟩⟩, ⟨⟨-1, 0, by decide⟩, ⟨0, -1, by decide⟩⟩⟩

theorem witness_ControlFlow : Presents p0 (.jal p0 ⟨1, 0, 0x80000000⟩) s0 ∧
    (Presents p0 (.jr p0 ⟨1, 8, 0⟩) s0 ∧ regOf s0 p0 8 &&& 7 = 0) ∧ Presents p0 (.nop p0 ⟨0, 0, 0⟩) s0 ∧
    (Presents p0 (.jr p0 ⟨1, 9, 0⟩) s0 ∧ regOf s0 p0 9 &&& 7 ≠ 0) :=
  ⟨presents_of (by decide), ⟨presents_of (by decide), by decide⟩, presents_of (by decide),
    presents_of (by decide), by decide⟩

/-! ### Memory of the tests

DVA 0 to 0x1FFFFF of context 1 is page 2, owner class 3, with R, W and X. -/

def leaf0 : Leaf := ⟨2, 3, false, false, true, true, true⟩

/-- A line of words. -/
def lineOfWords (ws : List Word) : Line :=
  ⟨((wordBytes ws ++ List.replicate 256 0).take 256).toArray, by
    rw [List.size_toArray, List.length_take, List.length_append, List.length_replicate]; omega⟩

/-- Lines the slices hold: number, owner class and words. -/
def slices (ls : List (Nat × BitVec 4 × List Word)) : Tbl (CSet SliceLine) :=
  ls.foldl (fun t l => (cacheFill 16 t (sliceSet l.1) l.1 ⟨lineOfWords l.2.2, l.2.1, false, false⟩).1) []

/-- The tables of context 1. -/
def tables : List (Nat × BitVec 4 × List Word) := [(0x10, 0, [0x2001]), (0x20, 0, [0x3001]), (0x30, 0, [0x40030F])]

/-- The state with these lines in the slices beside the tables. -/
def withLines (s : State) (ls : List (Nat × BitVec 4 × List Word)) : State :=
  { s with mem := { s.mem with slice := slices (tables ++ ls) } }

/-- A near-store line. -/
def nsA : NsLine :=
  { data := lineOfWords [0x0706050403020100, 0x0F0E0D0C0B0A0908], poison := false, pf := false, pfStream := 0,
    pfEpoch := 0, ref := false }

/-- The core holds the page's translation and the line at DVA 0. -/
def warm (k : Core) (f : Leaf) : Core :=
  { k with tlb := (cacheFill 8 [] 0 0 f).1, ns := (cacheFill 8 [] (nsSet 0x4000) (nsTag 0x4000) nsA).1 }

def s1 : State := run (warm (coreWith st0) leaf0)

theorem ok_of {ε α : Type} {x : State × Except ε α} (h : x.2.isOk = true) : ∃ s a, x = (s, .ok a) := by
  obtain ⟨s, e⟩ := x
  cases e with
  | ok a => exact ⟨s, a, rfl⟩
  | error e => cases h

/-- The kind and address of a failed access. -/
def errKind {α : Type} : Except AccErr α → Option (Nat × Nat)
  | .error (.xlate d) => some (1, d)
  | .error (.right d) => some (2, d)
  | .error (.poison d) => some (3, d)
  | _ => none

/-- The last aligned word of the line. -/
theorem witness_LoadHit : ∀ e ∈ loads, Presents p0 (e.1 p0 ⟨31, 0, 252⟩ .none) s1 ∧
    (s1.cores[p0.core]).ctx.isSome = true ∧ (s1.cores[p0.core]).tlbFind (scalarAddr s1 p0 ⟨31, 0, 252⟩ e.2) = some leaf0 ∧
    leaf0.r = true ∧ (s1.cores[p0.core]).nsFind (leafDpa leaf0 (scalarAddr s1 p0 ⟨31, 0, 252⟩ e.2) / 256) = some nsA ∧
    nsA.unref = false ∧ nsA.poison = false := fun e h =>
  ⟨presents_of ((by decide : ∀ e ∈ loads, presents p0 (e.1 p0 ⟨31, 0, 252⟩ .none) s1 = true) e h),
    (by decide +kernel : ∀ e ∈ loads, (s1.cores[p0.core]).ctx.isSome = true ∧
      (s1.cores[p0.core]).tlbFind (scalarAddr s1 p0 ⟨31, 0, 252⟩ e.2) = some leaf0 ∧ leaf0.r = true ∧
      (s1.cores[p0.core]).nsFind (leafDpa leaf0 (scalarAddr s1 p0 ⟨31, 0, 252⟩ e.2) / 256) = some nsA ∧
      nsA.unref = false ∧ nsA.poison = false) e h⟩

/-- Without the near store the access path brings the line from the slices. -/
def s2 : State := withLines s0 [(0x4000, 3, [5, 6])]

theorem witness_LoadHit_path : ∀ e ∈ loads, Presents p0 (e.1 p0 ⟨31, 0, 0⟩ .none) s2 ∧
    ∃ s' bs, s2.loadBytes 0 0 (some .scalar) (scalarAddr s2 p0 ⟨31, 0, 0⟩ e.2) e.2 .none = (s', .ok bs) := fun e h =>
  ⟨presents_of ((by decide : ∀ e ∈ loads, presents p0 (e.1 p0 ⟨31, 0, 0⟩ .none) s2 = true) e h),
    ok_of ((by decide +kernel : ∀ e ∈ loads,
      (s2.loadBytes 0 0 (some .scalar) (scalarAddr s2 p0 ⟨31, 0, 0⟩ e.2) e.2 .none).2.isOk = true) e h)⟩

theorem witness_StoreQueues : ∀ e ∈ stores, Presents p0 (e.1 p0 ⟨31, 0, 252⟩) s1 ∧ (s1.cores[p0.core]).ctx.isSome = true ∧
    (s1.cores[p0.core]).tlbFind (scalarAddr s1 p0 ⟨31, 0, 252⟩ e.2) = some leaf0 ∧ leaf0.w = true ∧
    (s1.cores[p0.core]).wq.length < 256 := fun e h =>
  ⟨presents_of ((by decide : ∀ e ∈ stores, presents p0 (e.1 p0 ⟨31, 0, 252⟩) s1 = true) e h),
    (by decide +kernel : ∀ e ∈ stores, (s1.cores[p0.core]).ctx.isSome = true ∧
      (s1.cores[p0.core]).tlbFind (scalarAddr s1 p0 ⟨31, 0, 252⟩ e.2) = some leaf0 ∧
      leaf0.w = true ∧ (s1.cores[p0.core]).wq.length < 256) e h⟩

/-- A leaf without R and W, and a poisoned line. -/
def s1right : State := run (warm (coreWith st0) { leaf0 with r := false, w := false })
def s1poison : State :=
  run { (warm (coreWith st0) leaf0) with ns := (cacheFill 8 [] (nsSet 0x4000) (nsTag 0x4000) { nsA with poison := true }).1 }

/-- A missing translation, a missing right and poison. -/
theorem witness_ScalarAccessTraps :
    errKind (s0.loadBytes 0 0 (some .scalar) (scalarAddr s0 p0 ⟨31, 0, 0⟩ 8) 8 .none).2 = some (1, 0) ∧
    errKind (s1right.loadBytes 0 0 (some .scalar) (scalarAddr s1right p0 ⟨31, 0, 0⟩ 8) 8 .none).2 = some (2, 0) ∧
    errKind (s1poison.loadBytes 0 0 (some .scalar) (scalarAddr s1poison p0 ⟨31, 0, 0⟩ 8) 8 .none).2 = some (3, 0) ∧
    errKind (s0.storeBytes 0 0 0 .seq (scalarAddr s0 p0 ⟨31, 0, 0⟩ 8) (leBytes 8 31)).2 = some (1, 0) ∧
    errKind (s1right.storeBytes 0 0 0 .seq (scalarAddr s1right p0 ⟨31, 0, 0⟩ 8) (leBytes 8 31)).2 = some (2, 0) := by
  decide +kernel

theorem witness_ScalarAccessTraps_presented : (∀ e ∈ loads, Presents p0 (e.1 p0 ⟨31, 0, 0⟩ .none) s1right) ∧
    ∀ e ∈ stores, Presents p0 (e.1 p0 ⟨31, 0, 0⟩) s1right :=
  ⟨fun e h => presents_of ((by decide : ∀ e ∈ loads, presents p0 (e.1 p0 ⟨31, 0, 0⟩ .none) s1right = true) e h),
    fun e h => presents_of ((by decide : ∀ e ∈ stores, presents p0 (e.1 p0 ⟨31, 0, 0⟩) s1right = true) e h)⟩

/-! ### Stream state, semaphores, fences, traps -/

theorem done_of {s : State} {p : Site} (h : (s.cores[p.core]).anyPending p.stream (streamOf s p).seqNo = false) :
    allDone s p := h

theorem witness_ContextRegisters : Presents p0 (.crrd p0 ⟨31, 0, 15⟩) s0 ∧ Presents p0 (.crwr p0 ⟨0, 31, 15⟩) s0 ∧
    Tbl.find? s0.host.ctxs ((s0.cores[p0.core]).ctx.getD 0).toNat = some ctx1 :=
  ⟨presents_of (by decide), presents_of (by decide), by decide +kernel⟩

/-- vl 1 and 64 are in range, 0 and 65 are not. -/
theorem witness_StreamState_vsetvl : ∀ i ∈ [1, 64, 0, 65], Presents p0 (.vsetvl p0 ⟨0, 0, BitVec.ofNat 32 i⟩) s0 := fun i h =>
  presents_of ((by decide : ∀ i ∈ [1, 64, 0, 65], presents p0 (.vsetvl p0 ⟨0, 0, BitVec.ofNat 32 i⟩) s0 = true) i h)

theorem witness_StreamState : (Presents p0 (.pgive p0 ⟨3, 0x8001⟩) s0 ∧ (3 : BitVec 2).toFin ≠ p0.stream) ∧
    Presents p0 (.srd p0 ⟨1, 0, 8⟩) s0 ∧ Presents p0 (.sflag p0 ⟨1, 0, 1⟩) s0 ∧ Presents p0 (.icinv p0) s0 ∧
    Presents p0 (.endProg p0) s0 :=
  ⟨⟨presents_of (by decide), by decide⟩, presents_of (by decide), presents_of (by decide), presents_of (by decide),
    presents_of (by decide)⟩

/-- Stream 0 has given plates to stream 3. -/
def sGiving : State := sWith { st0 with plates := 0x7FFE, giving := [⟨0x8001, 3, 1⟩], seqNo := 2 }

theorem witness_StreamState_given : sGiving.live = true ∧ (streamOf sGiving p0).giving = [⟨0x8001, 3, 1⟩] ∧
    (sGiving.cores[p0.core]).vecPending p0.stream 1 = false := by decide +kernel

theorem witness_Semaphores_issue : Presents p0 (.seminit p0 ⟨63, 65535⟩) s0 ∧ Presents p0 (.semsig p0 ⟨63, 255⟩) s0 ∧
    Presents p0 (.semacq p0 ⟨63, 1⟩) s0 ∧ (streamOf s0 p0).held = [] ∧ allDone s0 p0 ∧ (s0.cores[p0.core]).semOrder = [] ∧
    semOf s0 p0.core 63 < 1 :=
  ⟨presents_of (by decide), presents_of (by decide), presents_of (by decide), by decide, done_of (by decide +kernel), by decide,
    by decide⟩

/-- Semaphore 63 holds 65,535. -/
def sFull : State := run { (coreWith st0) with sems := (Vector.replicate 64 0).set 63 65535 }

theorem witness_Semaphores_full : Presents p0 (.semsig p0 ⟨63, 1⟩) sFull ∧ 65535 < semOf sFull p0.core 63 + 1 ∧
    Presents p0 (.semacq p0 ⟨63, 255⟩) sFull ∧ 255 ≤ semOf sFull p0.core 63 :=
  ⟨presents_of (by decide), by decide, presents_of (by decide), by decide⟩

/-- A store of the stream is not yet accepted. -/
def wr0 : SectorW := { stream := 0, seqNo := 0, eng := .seq, line := 0x4000, bytes := [(0, 1)], owner := 3 }
def sBusy : State := run { (coreWith { st0 with seqNo := 1 }) with wq := [wr0] }

theorem witness_Semaphores_held : Presents p0 (.semsig p0 ⟨0, 1⟩) sBusy ∧ ¬ allDone sBusy p0 :=
  ⟨presents_of (by decide), by unfold allDone; decide +kernel⟩

/-- Stream 0 waits for 2 at semaphore 1, which holds 2; in the second state stream 1 waits before it. -/
def sWaits : State :=
  run { (coreWith { st0 with mode := .wait, wait := .semacq 1 2 }) with
    sems := (Vector.replicate 64 0).set 1 2, semOrder := [0] }
def sBehind : State :=
  run { (coreWith { st0 with mode := .wait, wait := .semacq 1 2 }) with
    streams := #v[{ st0 with mode := .wait, wait := .semacq 1 2 }, { st0 with mode := .wait, wait := .semacq 1 1 },
      Stream.reset, Stream.reset]
    sems := (Vector.replicate 64 0).set 1 2, semOrder := [1, 0] }

theorem witness_Semaphores_waits : coreRuns sWaits p0.core ∧ (streamOf sWaits p0).mode = .wait ∧
    (streamOf sWaits p0).wait = .semacq 1 2 ∧ (sWaits.cores[p0.core]).semOrder = [p0.stream] ∧ 2 ≤ semOf sWaits p0.core 1 :=
  ⟨⟨⟨by decide, by decide⟩, by decide, by decide⟩, by decide, by decide, by decide, by decide⟩

theorem witness_Semaphores_behind : (streamOf sBehind p0).wait = .semacq 1 2 ∧
    (1 : Fin 4) ∈ (sBehind.cores[p0.core]).semOrder.takeWhile (fun v => v ≠ p0.stream) ∧
    ((sBehind.cores[p0.core]).streams[1]).wait = .semacq 1 1 ∧ 1 ≤ semOf sBehind p0.core 1 := by decide +kernel

/-! ### Fences -/

theorem onChip (s : State) (c : Fin 96) (t : Fin 4) (h : (s.cores[c]).ctx = some 1)
    (hc : Tbl.find? s.host.ctxs 1 = some ctx1) (hf : Tbl.find? s.host.fences 5 = some fence5) :
    FenceOnChip s ⟨c, t⟩ 5 1 ctx1 fence5 := ⟨h, hc, hf⟩

theorem right5 : SignalRight 1 ctx1 fence5 ∧ WaitRight 1 ctx1 fence5 :=
  ⟨⟨by decide, .inr (.inl (by decide))⟩, ⟨by decide, .inr (.inl (by decide))⟩⟩

/-- Fence 5 by its field and, in s5, by register. -/
theorem witness_Fences_issue : Presents p0 (.fsig p0 ⟨8, 5, false, 0⟩) s0 ∧ Presents p0 (.fsig p0 ⟨8, 0, true, 5⟩) s0 ∧
    Names s0 p0 5 false 0 5 ∧ Names s0 p0 0 true 5 5 ∧ FenceOnChip s0 p0 5 1 ctx1 fence5 ∧
    SignalRight 1 ctx1 fence5 ∧ (streamOf s0 p0).held = [] ∧ allDone s0 p0 :=
  ⟨presents_of (by decide), presents_of (by decide), rfl, by unfold Names; decide, onChip s0 0 0 (by decide) (by decide) (by decide),
    right5.1, by decide, done_of (by decide +kernel)⟩

/-- The fence holds 7: a wait for 7 is met, one for 8 is not; 7 + 2^63 + 1 is behind it, 7 + 2^63 is not. -/
theorem witness_Fences_wait : Presents p0 (.fwait p0 ⟨7, 5, false, 0⟩) s0 ∧ Presents p0 (.fwait p0 ⟨8, 5, false, 0⟩) s0 ∧
    WaitRight 1 ctx1 fence5 ∧ Met (regOf s0 p0 7) fence5 ∧ ¬ Met (regOf s0 p0 8) fence5 ∧
    Met 0x8000000000000008 fence5 ∧ ¬ Met 0x8000000000000007 fence5 :=
  ⟨presents_of (by decide), presents_of (by decide), right5.2, .inl (by decide), by unfold Met; decide,
    .inr (.inl (by decide)), by unfold Met; decide⟩

def sFwait : State := sWith { st0 with mode := .wait, wait := .fwait 5 7 0 }

theorem witness_Fences_satisfied : coreRuns sFwait p0.core ∧ (streamOf sFwait p0).mode = .wait ∧
    (streamOf sFwait p0).wait = .fwait 5 7 0 ∧ Tbl.find? sFwait.host.fences (5 : BitVec 14).toNat = some fence5 ∧
    Met 7 fence5 :=
  ⟨⟨⟨by decide, by decide⟩, by decide, by decide⟩, by decide, by decide, by decide, .inl (by decide)⟩

/-- Fence 5 as another context's, not shared. -/
def fence5other : List Word := [7, 0x8010000080000000, 0, 0]
def sOther : State := { s0 with host := { s0.host with fences := [(5, fence5other)] } }

theorem witness_Fences_noRight : Presents p0 (.fsig p0 ⟨7, 5, false, 0⟩) sOther ∧
    Presents p0 (.fwait p0 ⟨7, 5, false, 0⟩) sOther ∧ FenceOnChip sOther p0 5 1 ctx1 fence5other ∧
    ¬ SignalRight 1 ctx1 fence5other ∧ ¬ WaitRight 1 ctx1 fence5other :=
  ⟨presents_of (by decide), presents_of (by decide), ⟨by decide, by decide, by decide⟩,
    by unfold SignalRight; decide, by unfold WaitRight; decide⟩

/-- s5 holds 16,384. -/
def sNoFence : State := sWith { st0 with regs := st0.regs.set 5 16384 }

theorem witness_Fences_noFence : Presents p0 (.fsig p0 ⟨7, 0, true, 5⟩) sNoFence ∧ 16384 ≤ (regOf sNoFence p0 5).toNat :=
  ⟨presents_of (by decide), by decide⟩

/-! ### SYNC, traps and aborts -/

def sSync : State := sWith { st0 with mode := .wait, wait := .sync ⟨true, true, true, true, true⟩ 0 }

theorem witness_Sync : Presents p0 (.sync p0 ⟨false, false, false, false, true⟩) sBusy ∧
    (sBusy.cores[p0.core]).pending p0.stream (streamOf sBusy p0).seqNo ⟨false, false, false, false, true⟩ = true ∧
    Presents p0 (.sync p0 ⟨true, true, true, true, false⟩) sBusy ∧
    (sBusy.cores[p0.core]).pending p0.stream (streamOf sBusy p0).seqNo ⟨true, true, true, true, false⟩ = false ∧
    coreRuns sSync p0.core ∧ (streamOf sSync p0).wait = .sync ⟨true, true, true, true, true⟩ 0 ∧
    (sSync.cores[p0.core]).pending p0.stream 0 ⟨true, true, true, true, true⟩ = false :=
  ⟨presents_of (by decide), by decide +kernel, presents_of (by decide), by decide +kernel,
    ⟨⟨by decide, by decide⟩, by decide, by decide⟩, by decide, by decide +kernel⟩

/-- The illegal word once its bytes are fetched, and before, where the cache does not hold its line. -/
theorem witness_TrapsTaken : Presents p0 (.trap p0 0xFFFFFFFF) s0 ∧ s0.mayIssue p0 = true ∧
    illegalDetail 0x1400000000000000 0 = some 58 ∧ s0.fetched p0 0x1400000000000000 = true ∧
    (sWith { st0 with pc := 0x4100 }).mayIssue p0 = true ∧
    (sWith { st0 with pc := 0x4100 }).fetched p0 0x1400000000000000 = false :=
  ⟨presents_of (by decide), by decide, by decide, by decide, by decide, by decide⟩

/-- Both waits under a limit of one tick, at that tick. -/
def at1 (s : State) : State := { s with glob := { s.glob with tick := 1 } }
def sLimitSem : State :=
  at1 (run { (coreWith { st0 with mode := .wait, wait := .semacq 1 1 }) with waitlimit := 1, semOrder := [0] })
def sLimitFence : State := at1 (run { (coreWith { st0 with mode := .wait, wait := .fwait 5 8 0 }) with waitlimit := 1 })

theorem witness_TrapsTaken_limit : coreRuns sLimitSem p0.core ∧ (streamOf sLimitSem p0).wait = .semacq 1 1 ∧
    (streamOf sLimitSem p0).mode = .wait ∧ limitReached sLimitSem p0 ∧ semOf sLimitSem p0.core 1 < 1 ∧
    coreRuns sLimitFence p0.core ∧ (streamOf sLimitFence p0).wait = .fwait 5 8 0 ∧
    (streamOf sLimitFence p0).mode = .wait ∧ limitReached sLimitFence p0 ∧
    Tbl.find? sLimitFence.host.fences (5 : BitVec 14).toNat = some fence5 ∧ ¬ Met 8 fence5 :=
  ⟨⟨⟨by decide, by decide⟩, by decide, by decide⟩, by decide, by decide,
    ⟨by decide, by decide⟩, by decide, ⟨⟨by decide, by decide⟩, by decide, by decide⟩, by decide, by decide,
    ⟨by decide, by decide⟩, by decide, by unfold Met; decide⟩

def launch0 : LaunchRec := ⟨3, 0, 5, 9, 5, 10⟩
def trap0 : TrapInfo := ⟨0x0D, 0x4000, 0, 7, 0x4000, 0, false⟩
/-- What an ABORT of a stream at 0x4000 records (R201). -/
def aborted0 : TrapInfo := { code := 0x0F, pc := 0x4000, insn := 0, detail := 0, stoppc := 0x4000, addr := 0, multi := false }

/-- The LAUNCH of queue 3: plates 3, completion fence 5, error fence 5, ENTRY 0x8000, arguments 11 to 18. -/
def launchWords : List Word :=
  [0x0180050003001400, 9, 0x8000, 10, 11, 12, 13, 14, 15, 16, 17, 18, 0, 0, 0, 0]
/-- ABORT of core 0, stream 0 with completion fence 5. -/
def abortWords : List Word := [0x0680050000000000, 12, 0, 0, 0, 0, 0, 0]

/-- Context 1 is on chip, and the line of its ring's only slot, at DVA 0, in the slices. -/
def sDrainAs (st : Stream) (e : List Word) : State :=
  withLines { sWith st with host := { (sWith st).host with ctxs := [(1, e)] } } [(0x4000, 3, []), (1, 0, ctx1)]
def sDrain : State := sDrainAs { st0 with mode := .drain, trap := some trap0, launch := some launch0 } ctx1
/-- The one slot of the ring is taken: SEQ 1, TRCONS 0. -/
def ctxFull : List Word := ctx1.set 6 0x100000001
def sTrapRing : State := sDrainAs { st0 with mode := .drain, trap := some trap0 } ctxFull
def sAbort : State := sWith { st0 with mode := .drain, aborting := true, silent := true }
def sAbortTrap : State := sWith { st0 with mode := .drain, aborting := true, trap := some trap0 }
/-- Queue 3's LAUNCH runs on stream 0 and queue 4's ABORT of it is taken; stream 1 runs too. -/
def sAborted : State :=
  let s := sDrainAs { st0 with mode := .drain, aborting := true, launch := some launch0 } ctx1
  { s with
    host := { s.host with
      taken := [(3, { words := launchWords, pos := 0, stage := .running }),
        (4, { words := abortWords, pos := 0, stage := .running })] } }

theorem witness_TrapDrain_record : coreRuns sDrain p0.core ∧ (streamOf sDrain p0).mode = .drain ∧ allDone sDrain p0 ∧
    (streamOf sDrain p0).trap = some trap0 ∧ trap0.code ≠ 0x0F ∧ (streamOf sDrain p0).aborting = false ∧
    (streamOf sDrain p0).silent = false ∧ CtxOnChip sDrain p0 1 ctx1 ∧ ringFree ctx1 (trcons ctx1) ∧
    ∃ s2 u, (sDrain.setCtxE 1 (seqBumped ctx1)).blockWrite .engine 1 (recordDva ctx1)
      (wordBytes (recordWords sDrain p0 1 ctx1 trap0)) = (s2, .ok u) :=
  ⟨⟨⟨by decide, by decide⟩, by decide, by decide⟩, by decide, done_of (by decide +kernel), by decide, by decide, by decide,
    by decide, ⟨by decide, by decide⟩, by unfold ringFree; decide +kernel, ok_of (by decide +kernel)⟩

theorem witness_TrapDrain_full : coreRuns sTrapRing p0.core ∧ (streamOf sTrapRing p0).mode = .drain ∧ allDone sTrapRing p0 ∧
    (streamOf sTrapRing p0).trap = some trap0 ∧ trap0.code ≠ 0x0F ∧ (streamOf sTrapRing p0).aborting = false ∧
    (streamOf sTrapRing p0).silent = false ∧ CtxOnChip sTrapRing p0 1 ctxFull ∧ ¬ ringFree ctxFull (trcons ctxFull) ∧
    ¬ ringFree ctxFull (trcons (sTrapRing.readEntry sTrapRing.host.ctxbase 32 1).2) :=
  ⟨⟨⟨by decide, by decide⟩, by decide, by decide⟩, by decide, done_of (by decide +kernel), by decide, by decide, by decide,
    by decide, ⟨by decide, by decide⟩, by unfold ringFree; decide +kernel, by unfold ringFree; decide +kernel⟩

theorem witness_TrapDrain_aborting : coreRuns sAbortTrap p0.core ∧ (streamOf sAbortTrap p0).mode = .drain ∧
    allDone sAbortTrap p0 ∧ (streamOf sAbortTrap p0).trap = some trap0 ∧ (streamOf sAbortTrap p0).aborting = true :=
  ⟨⟨⟨by decide, by decide⟩, by decide, by decide⟩, by decide, done_of (by decide +kernel), by decide, by decide⟩

theorem witness_TrapDrain_aborted : coreRuns sAborted p0.core ∧ (streamOf sAborted p0).mode = .drain ∧
    allDone sAborted p0 ∧ (streamOf sAborted p0).aborting = true ∧ (streamOf sAborted p0).silent = false ∧
    (streamOf sAborted p0).trap = none ∧ CtxOnChip sAborted p0 1 ctx1 ∧ ringFree ctx1 (trcons ctx1) ∧
    (∃ s2 u, (sAborted.setCtxE 1 (seqBumped ctx1)).blockWrite .engine 1 (recordDva ctx1)
      (wordBytes (recordWords sAborted p0 1 ctx1 aborted0)) = (s2, .ok u)) ∧
    (streamOf sAborted p0).launch = some launch0 ∧
    sAborted.takenOf launch0.queue = some { words := launchWords, pos := 0, stage := .running } ∧
    cmdKind launchWords = 1 ∧ abortsOf sAborted p0 = [4] ∧
    sAborted.takenOf 4 = some { words := abortWords, pos := 0, stage := .running } ∧ cmdCfen abortWords = true ∧
    launch0.queue ≠ 4 :=
  ⟨⟨⟨by decide, by decide⟩, by decide, by decide⟩, by decide, done_of (by decide +kernel), by decide, by decide, by decide,
    ⟨by decide, by decide⟩, by unfold ringFree; decide +kernel, ok_of (by decide +kernel), by decide, by decide, by decide,
    by decide +kernel, by decide, by decide, by decide⟩

theorem witness_TrapDrain_silent : coreRuns sAbort p0.core ∧ (streamOf sAbort p0).mode = .drain ∧
    (streamOf sAbort p0).aborting = true ∧ (streamOf sAbort p0).silent = true ∧ (streamOf sAbort p0).trap = none ∧
    allDone sAbort p0 ∧ (streamOf sAbort p0).launch = none ∧ sAbort.host.taken = [] :=
  ⟨⟨⟨by decide, by decide⟩, by decide, by decide⟩, by decide, by decide, by decide, by decide, done_of (by decide +kernel),
    by decide, by decide⟩

/-! ### Programs and fetches -/

/-- The entry of queue 3: valid, context 1, core 0, stream 0. -/
def queue3 : List Word := (List.replicate 16 0).set 0 0x8040000000000000

def sLaunch : State :=
  { sWith Stream.reset with host := { s0.host with
      queues := [(3, queue3)], taken := [(3, { words := launchWords, pos := 0, stage := .waiting })] } }

theorem witness_ProgramRuns_start : coreRuns sLaunch p0.core ∧ sLaunch.nextLaunch p0.core p0.stream = some 3 ∧
    sLaunch.takenOf 3 = some { words := launchWords, pos := 0, stage := .waiting } ∧ (streamOf sLaunch p0).mode = .idle ∧
    (sLaunch.cores[p0.core]).ctx = some (qCtx (sLaunch.queueV 3)) ∧
    (sLaunch.cores[p0.core]).platesElsewhere p0.stream &&& cmdPlates launchWords = 0 :=
  ⟨⟨⟨by decide, by decide⟩, by decide, by decide⟩, by decide +kernel, by decide, by decide, by decide +kernel,
    by decide +kernel⟩

/-- The core serves no context; the last it served is none or context 1. -/
def sLaunchFree (l : Option (BitVec 9)) : State :=
  { sLaunch with cores := Vector.replicate 96 { (coreWith Stream.reset) with ctx := none, lastCtx := l } }

theorem witness_ProgramRuns_free : ∀ l ∈ [none, some 1], coreRuns (sLaunchFree l) p0.core ∧
    (sLaunchFree l).nextLaunch p0.core p0.stream = some 3 ∧
    (sLaunchFree l).takenOf 3 = some { words := launchWords, pos := 0, stage := .waiting } ∧
    (streamOf (sLaunchFree l) p0).mode = .idle ∧ ((sLaunchFree l).cores[p0.core]).ctx = none ∧
    ((sLaunchFree l).cores[p0.core]).lastCtx = l ∧
    ((sLaunchFree l).cores[p0.core]).platesElsewhere p0.stream &&& cmdPlates launchWords = 0 := fun l h =>
  ⟨⟨⟨rfl, Nat.zero_lt_two⟩, rfl, rfl⟩, (by decide +kernel : ∀ l ∈ [none, some 1],
    (sLaunchFree l).nextLaunch p0.core p0.stream = some 3 ∧
    (sLaunchFree l).takenOf 3 = some { words := launchWords, pos := 0, stage := .waiting } ∧
    (streamOf (sLaunchFree l) p0).mode = .idle ∧ ((sLaunchFree l).cores[p0.core]).ctx = none ∧
    ((sLaunchFree l).cores[p0.core]).lastCtx = l ∧
    ((sLaunchFree l).cores[p0.core]).platesElsewhere p0.stream &&& cmdPlates launchWords = 0) l h⟩

def sEnded : State :=
  { sWith { st0 with ended := true, launch := some launch0 } with host := { s0.host with
      queues := [(3, queue3)], taken := [(3, { words := launchWords, pos := 0, stage := .running })] } }

theorem witness_ProgramRuns_complete : coreRuns sEnded p0.core ∧ (streamOf sEnded p0).mode = .run ∧
    (streamOf sEnded p0).ended = true ∧ (streamOf sEnded p0).launch = some launch0 ∧ allDone sEnded p0 ∧
    sEnded.takenOf launch0.queue = some { words := launchWords, pos := 0, stage := .running } ∧ cmdKind launchWords = 1 ∧
    abortsOf sEnded p0 = [] ∧ Tbl.find? sEnded.host.queues launch0.queue.toNat = some queue3 ∧ 2 < queue3.length :=
  ⟨⟨⟨by decide, by decide⟩, by decide, by decide⟩, by decide, by decide, by decide, done_of (by decide +kernel),
    by decide, by decide, by decide +kernel, by decide, by decide⟩

/-- The stream stands at DVA 0, whose line the core holds; in the second state the leaf has no X. -/
def sFetch : State := run (warm (coreWith { st0 with pc := 0 }) leaf0)
def sFetchX : State := run (warm (coreWith { st0 with pc := 0 }) { leaf0 with x := false })

/-- The cache does not hold the second word of a two-word instruction that ends its line. -/
def sFetchExt : State := sWith { st0 with pc := 0x40F8 }

theorem witness_InstructionFetch_miss : (Instr.add p0 ⟨1, 2, 3⟩).site = some p0 ∧
    encode (.add p0 ⟨1, 2, 3⟩) = some (0x0010886000000000, 0) ∧ sFetch.fetched p0 0x0010886000000000 = false ∧
    (Instr.dcopy2d p0 ⟨1, 2, 3, 4⟩ 0x100 0x200).site = some p0 ∧ sFetchExt.mayIssue p0 = true ∧
    encode (.dcopy2d p0 ⟨1, 2, 3, 4⟩ 0x100 0x200) = some (0x2010886400000000, 0x0000010000000200) ∧
    sFetchExt.fetched p0 0x2010886400000000 = false ∧ sFetchExt.fetched p0 0x0010886000000000 = true := by decide +kernel

theorem witness_InstructionFetch : sFetch.mayIssue p0 = true ∧ (∀ e ∈ (sFetch.cores[p0.core]).icache, e.1 ≠ (pcOf sFetch p0).toNat / 256) ∧
    (sFetch.cores[p0.core]).ctx.isSome = true ∧ (sFetch.cores[p0.core]).tlbFind (pcOf sFetch p0).toNat = some leaf0 ∧
    leaf0.x = true ∧ (sFetch.cores[p0.core]).nsFind (leafDpa leaf0 (pcOf sFetch p0).toNat / 256) = some nsA ∧
    nsA.unref = false ∧ nsA.poison = false ∧ sFetchX.mayIssue p0 = true ∧
    (∀ e ∈ (sFetchX.cores[p0.core]).icache, e.1 ≠ (pcOf sFetchX p0).toNat / 256) ∧
    (sFetchX.cores[p0.core]).tlbFind (pcOf sFetchX p0).toNat = some { leaf0 with x := false } := by decide +kernel

/-! ### Core states -/

/-- The open path of both masters. -/
theorem open0 (m : RegMaster) (s : State) (hp : s.sup.power = .running) (hr : s.cur.restarting = false)
    (hh : s.mem.haltStage < 2) (hd : s.cur.deepIdle = false) : pathOpen s m := ⟨hp, hd, fun _ => hr, fun _ => hh⟩

def sMode (m : CoreMode) : State := run { (coreWith Stream.reset) with mode := m }
def sDraining : State := run { (coreWith Stream.reset) with draining := true }

/-- Cores 0 and 95, the ends of the range, in each state. -/
theorem witness_CoreStates : ∀ m ∈ [CoreMode.gated, .active, .quarantined, .retired],
    pathOpen (sMode m) .host ∧ ((sMode m).cores[(0 : Fin 96)]).mode = m ∧ ((sMode m).cores[(95 : Fin 96)]).mode = m ∧
    (∀ u : Fin 4, (((sMode m).cores[(95 : Fin 96)]).streams[u]).launch = none) ∧ (sMode m).host.taken = [] ∧
    (sMode m).alm.repair.length < 131071 := fun m h =>
  ⟨open0 _ _ rfl rfl (Nat.zero_lt_succ 1) rfl,
    (by decide +kernel : ∀ m ∈ [CoreMode.gated, .active, .quarantined, .retired],
      ((sMode m).cores[(0 : Fin 96)]).mode = m ∧ ((sMode m).cores[(95 : Fin 96)]).mode = m ∧
      (∀ u : Fin 4, (((sMode m).cores[(95 : Fin 96)]).streams[u]).launch = none) ∧ (sMode m).host.taken = [] ∧
      (sMode m).alm.repair.length < 131071) m h⟩

/-- 96 is the first number without a core. -/
theorem witness_CoreStates_range : 96 ≤ (96 : BitVec 7).toNat ∧ Alive sDraining ∧
    (sDraining.cores[(0 : Fin 96)]).mode = .active ∧ (sDraining.cores[(0 : Fin 96)]).draining = true ∧
    (∀ a : Fin 4, ((sDraining.cores[(0 : Fin 96)]).arrs[a]).flights = []) ∧
    ∀ q : Fin 4, (sDraining.cores[(0 : Fin 96)]).outQ[q] = [] :=
  ⟨by decide, ⟨by decide, by decide⟩, by decide, by decide, by decide +kernel, by decide +kernel⟩

/-- A launch waits for a GATED core 0; in the last state for core 0 with another context. -/
def sWake : State := { sLaunch with cores := Vector.replicate 96 { (coreWith Stream.reset) with mode := .gated, ctx := none } }
def sIdle : State := run { (coreWith Stream.reset) with idleTicks := 65535 }
def sUnneeded : State := { sMode .gated with glob := { s0.glob with meshIdle := 250 } }
def sStopped : State := { sMode .gated with glob := { s0.glob with meshRun := false } }
def sSwitch : State := { sLaunch with cores := Vector.replicate 96 { (coreWith Stream.reset) with ctx := some 2 } }

/-- LAUNCH, COPY and QUERY of queue 3 wait. -/
def sWaking (k : Word) : State :=
  { sWake with host := { sWake.host with
      taken := [(3, { words := (k <<< 56) :: launchWords.tail, pos := 0, stage := .waiting })] } }

theorem witness_CoreWakeAndGate_wake : ∀ k ∈ [(1 : Word), 2, 7], Alive (sWaking k) ∧ (sWaking k).glob.released = true ∧
    (sWaking k).cur.deepIdle = false ∧ (sWaking k).glob.meshRun = true ∧ ((sWaking k).cores[(0 : Fin 96)]).mode = .gated ∧
    Tbl.find? (sWaking k).host.taken (3 : BitVec 13).toNat =
      some { words := (k <<< 56) :: launchWords.tail, pos := 0, stage := .waiting } ∧
    cmdKind ((k <<< 56) :: launchWords.tail) = k.toNat ∧ qCore ((sWaking k).queueV 3) = (0 : Fin 96).val := fun k h =>
  ⟨⟨rfl, Nat.zero_lt_two⟩, rfl, rfl, rfl, (each _ (by decide +kernel) : ∀ k ∈ [(1 : Word), 2, 7],
    ((sWaking k).cores[(0 : Fin 96)]).mode = .gated ∧
    Tbl.find? (sWaking k).host.taken (3 : BitVec 13).toNat =
      some { words := (k <<< 56) :: launchWords.tail, pos := 0, stage := .waiting } ∧
    cmdKind ((k <<< 56) :: launchWords.tail) = k.toNat ∧ qCore ((sWaking k).queueV 3) = (0 : Fin 96).val) k h⟩

theorem witness_CoreWakeAndGate :
    coreRuns sIdle 0 ∧ (sIdle.cores[(0 : Fin 96)]).idle = true ∧ sIdle.demand 0 = false ∧ sIdle.glob.gatedelay ≠ 0 ∧
    sIdle.glob.gatedelay.toNat ≤ (sIdle.cores[(0 : Fin 96)]).idleTicks ∧ sUnneeded.glob.meshRun = true ∧
    sUnneeded.meshBusy = false ∧ 250 ≤ sUnneeded.glob.meshIdle ∧ sStopped.glob.meshRun = false ∧ sStopped.glob.serviceRun = true :=
  ⟨⟨⟨by decide, by decide⟩, by decide, by decide⟩, by decide +kernel, by decide +kernel, by decide, by decide +kernel, by decide,
    by decide +kernel, by decide +kernel, by decide, by decide⟩

theorem witness_CoreWakeAndGate_switch : coreRuns sSwitch 0 ∧ sSwitch.switchTo 0 = some 1 ∧
    (∀ u : Fin 4, ((sSwitch.cores[(0 : Fin 96)]).streams[u]).mode = .idle) ∧
    (sSwitch.cores[(0 : Fin 96)]).quadBusy = false ∧ (sSwitch.cores[(0 : Fin 96)]).dmaQ = [] :=
  ⟨⟨⟨by decide, by decide⟩, by decide, by decide⟩, by decide +kernel, by decide +kernel, by decide +kernel, by decide⟩

/-! ### DMA, near store, translations -/

def dmaLeaf (d : DmaOp) : DmaEntry :=
  { channel := 0, seqNo := 0, pc := 0x4000, insn := 0x2000886000000000, op := d, keys := [], started := true, queue := 0 }

theorem witness_DmaAccepted : (∀ e ∈ dmaD, Presents p0 (e.1 p0 ⟨1, 2, 0, 0⟩) s0) ∧
    Presents p0 (.dcopy p0 ⟨1, 2, 3, 0⟩) s0 ∧ Presents p0 (.dgather p0 ⟨1, 2, 3, 4⟩) s0 ∧ Presents p0 (.dscatter p0 ⟨1, 2, 3, 4⟩) s0 ∧
    Presents p0 (.dcopy2d p0 ⟨1, 2, 3, 4⟩ 0x100 0x200) s0 ∧ depth s0 p0.core < 16 ∧
    (∀ e ∈ dmaS, Presents p0 (e.1 p0 ⟨1, 2, 8, 4, 2, false, 0, 0, false⟩) s0 ∧ (regOf s0 p0 8).toNat < 2 ^ 40 ∧
      stashUnit ⟨1, 2, 8, 4, 2, false, 0, 0, false⟩ ∣ (regOf s0 p0 8).toNat) ∧
    (∀ e ∈ dmaS, Presents p0 (e.1 p0 ⟨1, 2, 0, 4, 1, false, 0, 0, false⟩) s0 ∧ (regOf s0 p0 0).toNat < 2 ^ 40 ∧
      stashUnit ⟨1, 2, 0, 4, 1, false, 0, 0, false⟩ ∣ (regOf s0 p0 0).toNat) ∧
    ∀ e ∈ dmaS, Presents p0 (e.1 p0 ⟨1, 2, 31, 4, 1, false, 0, 0, false⟩) s0 ∧
      ¬ stashUnit ⟨1, 2, 31, 4, 1, false, 0, 0, false⟩ ∣ (regOf s0 p0 31).toNat :=
  ⟨fun e h => presents_of ((by decide : ∀ e ∈ dmaD, presents p0 (e.1 p0 ⟨1, 2, 0, 0⟩) s0 = true) e h),
    presents_of (by decide), presents_of (by decide), presents_of (by decide), presents_of (by decide), by decide,
    fun e h => ⟨presents_of ((by decide : ∀ e ∈ dmaS,
      presents p0 (e.1 p0 ⟨1, 2, 8, 4, 2, false, 0, 0, false⟩) s0 = true) e h), by decide, by decide⟩,
    fun e h => ⟨presents_of ((by decide : ∀ e ∈ dmaS,
      presents p0 (e.1 p0 ⟨1, 2, 0, 4, 1, false, 0, 0, false⟩) s0 = true) e h), by decide, by decide⟩,
    fun e h => ⟨presents_of ((by decide : ∀ e ∈ dmaS,
      presents p0 (e.1 p0 ⟨1, 2, 31, 4, 1, false, 0, 0, false⟩) s0 = true) e h), by decide⟩⟩

/-- A queue that holds 16 instructions. -/
def sDeep : State := run { (coreWith st0) with dmaQ := List.replicate 16 (dmaLeaf (.nswb 0 0)) }

theorem witness_DmaAccepted_full : ∀ e ∈ dmaD, Presents p0 (e.1 p0 ⟨1, 2, 0, 0⟩) sDeep ∧ 16 ≤ depth sDeep p0.core :=
  fun e h => ⟨presents_of ((by decide : ∀ e ∈ dmaD, presents p0 (e.1 p0 ⟨1, 2, 0, 0⟩) sDeep = true) e h), by decide⟩

/-- A copy of the line at DVA 0 to DVA 0x1FFF00, the last line of the page; the slices hold both. -/
def sCopy : State :=
  withLines (run { (warm (coreWith st0) leaf0) with dmaQ := [dmaLeaf (.copy 0x1FFF00 0 1 256 0 0 false)] })
    [(0x4000, 3, [5]), (0x5FFF, 3, [])]

theorem witness_DmaCompletes : coreRuns sCopy 0 ∧ (sCopy.cores[(0 : Fin 96)]).ctx.isSome = true ∧
    (sCopy.cores[(0 : Fin 96)]).tlbFind 0 = some leaf0 ∧ (sCopy.cores[(0 : Fin 96)]).tlbFind 0x1FFF00 = some leaf0 ∧
    plainLine sCopy (leafDpa leaf0 0 / 256) ∧ plainLine sCopy (leafDpa leaf0 0x1FFF00 / 256) ∧
    leafDpa leaf0 0 / 256 ≠ leafDpa leaf0 0x1FFF00 / 256 ∧ sCopy.mem.parts = [] ∧ noneHeld sCopy 0 ∧
    sCopy.mem.sliceFind (leafDpa leaf0 0 / 256) = some ⟨lineOfWords [5], 3, false, false⟩ ∧
    sCopy.mem.sliceFind (leafDpa leaf0 0x1FFF00 / 256) = some ⟨lineOfWords [], 3, false, false⟩ :=
  ⟨⟨⟨by decide, by decide⟩, by decide, by decide⟩, by decide, by decide +kernel, by decide +kernel,
    ⟨by decide, by decide, by decide⟩, ⟨by decide, by decide, by decide⟩, by decide, by decide, by unfold noneHeld; decide +kernel, by decide +kernel,
    by decide +kernel⟩

/-- The same copy without a translation. -/
def sCopyFault : State := run { (coreWith st0) with dmaQ := [dmaLeaf (.copy 0x1FFF00 0 1 256 0 0 false)] }

/-- The code and address of a fault. -/
def dmaErrOf : Option DmaErr → Option (DmaCode × Nat)
  | some (.fault c a) => some (c, a)
  | _ => none

theorem witness_DmaCompletes_fault : coreRuns sCopyFault 0 ∧
    (sCopyFault.cores[(0 : Fin 96)]).dmaHead (0 : Fin 4).castSucc = some (dmaLeaf (.copy 0x1FFF00 0 1 256 0 0 false)) ∧
    (dmaErrOf (runDma sCopyFault 0 (dmaLeaf (.copy 0x1FFF00 0 1 256 0 0 false))).2).isSome = true ∧
    let s' := (runDma sCopyFault 0 (dmaLeaf (.copy 0x1FFF00 0 1 256 0 0 false))).1
    (s'.cores[(0 : Fin 96)]).dmaFault.getLsbD 63 = false ∧ ((s'.cores[(0 : Fin 96)]).streams[(0 : Fin 4)]).mode = .run ∧
    noneHeld s' 0 :=
  ⟨⟨⟨by decide, by decide⟩, by decide, by decide⟩, by decide, by decide +kernel, by decide +kernel, by decide +kernel,
    by unfold noneHeld; decide +kernel⟩

theorem witness_NearStoreTraffic_nspf : Presents p0 (.nspf p0 ⟨2, 1, 0, 0⟩) s1 ∧ depth s1 p0.core < 16 ∧
    regOf s1 p0 1 = 1 ∧ (s1.cores[p0.core]).ctx.isSome = true ∧ (s1.cores[p0.core]).tlbFind ((adr s1 p0 2).toNat / 256 * 256) = some leaf0 ∧
    (s1.cores[p0.core]).pfmax ≠ 0 ∧ (s1.cores[p0.core]).fills.length < (s1.cores[p0.core]).pfmax.toNat ∧
    noMiss s1 p0.core :=
  ⟨presents_of (by decide), by decide, by decide, by decide, by decide +kernel, by decide, by decide,
    by unfold noMiss; decide +kernel⟩

/-- A prefetch of a line the slices hold; and, in the same state, a sector write of it. -/
def fill0 : Fill := { line := 0x4000, stream := 0, epoch := 0, owner := 3 }
def sFill : State := withLines (run { (coreWith st0) with fills := [fill0] }) [(0x4000, 3, [5])]
def sSector : State := withLines (run { (coreWith st0) with wq := [wr0] }) [(0x4000, 3, [5])]

theorem witness_NearStoreTraffic_fill : coreRuns sFill 0 ∧ (sFill.cores[(0 : Fin 96)]).fills = [fill0] ∧
    (sFill.cores[(0 : Fin 96)]).fillQ = [] ∧ (sFill.cores[(0 : Fin 96)]).vecQ = [] ∧ sFill.mem.parts = [] ∧
    fill0.epoch = (sFill.cores[(0 : Fin 96)]).epochs[fill0.stream] ∧ (sFill.cores[(0 : Fin 96)]).nsFind 0x4000 = none ∧
    (sFill.cores[(0 : Fin 96)]).wq = [] ∧ plainLine sFill 0x4000 ∧
    sFill.mem.sliceFind 0x4000 = some ⟨lineOfWords [5], 3, false, false⟩ ∧
    (Tbl.get (CSet.empty 8) (sFill.cores[(0 : Fin 96)]).ns (0x4000 % 2048)).ways.length = 8 :=
  ⟨⟨⟨by decide, by decide⟩, by decide, by decide⟩, by decide, by decide, by decide, by decide, by decide, by decide, by decide,
    ⟨by decide, by decide, by decide⟩, by decide +kernel, by decide⟩

theorem witness_NearStoreTraffic_sector : Alive sSector ∧ (sSector.cores[(0 : Fin 96)]).mode = .active ∧
    (sSector.cores[(0 : Fin 96)]).wq = [wr0] ∧ noneHeld sSector 0 ∧ plainLine sSector 0x4000 ∧
    sSector.mem.sliceFind 0x4000 = some ⟨lineOfWords [5], 3, false, false⟩ :=
  ⟨⟨by decide, by decide⟩, by decide, by decide, by unfold noneHeld; decide +kernel, ⟨by decide, by decide, by decide⟩, by decide +kernel⟩

/-- A trained entry at stride 1 whose next line is line 1 of the page. -/
def stride0 : PfEntry :=
  { stream := 0, engine := .feeder, last := 0, stride := 1, hits := 2, breaks := 0, trained := true, issued := 0, used := 0, hold := none }
def sStride : State := run { (warm (coreWith st0) leaf0) with pf := [stride0] }

theorem witness_NearStoreTraffic_stride : coreRuns sStride 0 ∧ (sStride.cores[(0 : Fin 96)]).pf[(0 : Fin 16).val]? = some stride0 ∧
    (sStride.cores[(0 : Fin 96)]).pfen = true ∧
    (sStride.cores[(0 : Fin 96)]).fills.length < (sStride.cores[(0 : Fin 96)]).pfmax.toNat ∧ noMiss sStride 0 ∧
    stride0.issued + stride0.stride ≤ stride0.last + (sStride.cores[(0 : Fin 96)]).pfdist.toNat * stride0.stride ∧
    (sStride.cores[(0 : Fin 96)]).tlbFind (256 * (stride0.issued + stride0.stride).toNat) = some leaf0 :=
  ⟨⟨⟨by decide, by decide⟩, by decide, by decide⟩, by decide +kernel, by decide, by decide,
    by unfold noMiss; decide +kernel, by decide, by decide +kernel⟩

/-- The next line lies on the next page. -/
def strideEnd : PfEntry := { stride0 with issued := 8191, last := 8191 }
def sStrideEnd : State := run { (warm (coreWith st0) leaf0) with pf := [strideEnd] }

theorem witness_NearStoreTraffic_hold : coreRuns sStrideEnd 0 ∧
    (sStrideEnd.cores[(0 : Fin 96)]).pf[(0 : Fin 16).val]? = some strideEnd ∧
    (sStrideEnd.cores[(0 : Fin 96)]).pfen = true ∧ strideEnd.hold = none ∧ 0 ≤ strideEnd.issued ∧
    strideEnd.issued + strideEnd.stride < 2 ^ 40 ∧
    strideEnd.issued + strideEnd.stride ≤ strideEnd.last + (sStrideEnd.cores[(0 : Fin 96)]).pfdist.toNat * strideEnd.stride ∧
    strideEnd.issued / 8192 ≠ (strideEnd.issued + strideEnd.stride) / 8192 ∧
    (sStrideEnd.cores[(0 : Fin 96)]).tlbFind (256 * (strideEnd.issued + strideEnd.stride).toNat) = none :=
  ⟨⟨⟨by decide, by decide⟩, by decide, by decide⟩, by decide +kernel, by decide, by decide, by decide, by decide, by decide,
    by decide, by decide +kernel⟩

/-- The tables in the slices give the leaf of DVA 0x1FFFFF, the page's last byte. -/
theorem witness_TranslationWalks : coreRuns s2 0 ∧ (s2.cores[(0 : Fin 96)]).ctx = some 1 ∧
    (s2.cores[(0 : Fin 96)]).ctx.isSome = true ∧
    (s2.cores[(0 : Fin 96)]).tlbFind (0x1FFFFF : Addr).toNat = none ∧
    let r := (withCore s2 0 { (s2.cores[(0 : Fin 96)]) with walks := (s2.cores[(0 : Fin 96)]).walks + 1 }).coreWalk 0 1
      (0x1FFFFF : Addr).toNat
    r.2 = some leaf0 ∧ (Tbl.get (CSet.empty 8) r.1.cores[(0 : Fin 96)].tlb ((0x1FFFFF : Addr).toNat / 0x200000 % 32)).ways.length = 8 :=
  ⟨⟨⟨by decide, by decide⟩, by decide, by decide⟩, by decide, by decide, by decide, by decide +kernel, by decide +kernel⟩

/-! ### Matrix quad -/

/-- INT8 × INT8, one element, entry 511, closing its chain. -/
def ops0 : TileOps :=
  { part := 0, afmt := 0x0C, wfmt := 0x0C, mx := false, accm := false, acc := true, last := true, keep := false, ra := 0,
    rw := 0, rsa := 0, rsw := 0, entry := 511, mm1 := 0, nm1 := 0, km1 := 0, astride := 0, wstride := 0 }

def tile0 : Tile :=
  { stream := 0, seqNo := 0, pc := 0x4000, insn := 0x4000000000000000, order := 0, o := ops0, aAddr := 0, wAddr := 0x40, saAddr := 0,
    swAddr := 0, desc := Vector.replicate 8 0, checked := false, loaded := false, rowsRead := 0, nanF := false, ovfF := false }

/-- Partition 0 holds the tile; one array stands in each mode-2 partition. -/
def quadWith (t : Tile) : Core := { (coreWith st0) with mxMode := 2, tileQ := #v[[t], [], [], []] }

theorem witness_QuadControl : Presents p0 (.mmq p0 { ops0 with rw := 5 }) s0 ∧ (s0.cores[p0.core]).modeWait = none ∧
    noSeedWait s0 p0.core ∧ (((s0.cores[p0.core]).tileQ[(0 : Fin 4)]).filter fun x => x.rowsRead = 0).length < 4 ∧
    Presents p0 (.mmode p0 2) s0 ∧ ((run (quadWith tile0)).cores[p0.core]).modeWait = none ∧ quadDrained s0.cores[p0.core] ∧
    (∃ q : Fin 4, ((run (quadWith tile0)).cores[p0.core]).tileQ[q] ≠ []) ∧ Presents p0 (.mmode p0 2) (run (quadWith tile0)) :=
  ⟨presents_of (by decide), by decide, by unfold noSeedWait; decide +kernel, by decide +kernel, presents_of (by decide), by decide,
    ⟨by decide +kernel, by decide +kernel, by decide +kernel⟩, ⟨0, by decide⟩, presents_of (by decide)⟩

def sModeWait : State := run { (coreWith st0) with modeWait := some (2, 0, 0) }
/-- One array is still at level 1. -/
def sLevel : State := run { (coreWith st0) with arrs := (Vector.replicate 4 Arr.reset).set 3 { Arr.reset with level := 1 } }

theorem witness_QuadControl_mode : coreRuns sModeWait 0 ∧ (sModeWait.cores[(0 : Fin 96)]).modeWait = some (2, 0, 0) ∧
    quadDrained sModeWait.cores[(0 : Fin 96)] ∧ noneHeld sModeWait 0 ∧ pathOpen s0 .host ∧
    quadDrained s0.cores[(0 : Fin 96)] ∧ (∀ a : Fin 4, ((s0.cores[(0 : Fin 96)]).arrs[a]).level = 0) ∧
    (2 : Word).toNat % 4 ≠ 3 ∧ ∃ a : Fin 4, ((sLevel.cores[(0 : Fin 96)]).arrs[a]).level ≠ 0 :=
  ⟨⟨⟨by decide, by decide⟩, by decide, by decide⟩, by decide, ⟨by decide +kernel, by decide +kernel, by decide +kernel⟩,
    by unfold noneHeld; decide +kernel, open0 _ _ rfl rfl (by decide) rfl,
    ⟨by decide +kernel, by decide +kernel, by decide +kernel⟩, by decide +kernel, by decide, ⟨3, by decide⟩⟩

/-- An all-zero descriptor is a good one. -/
def sDesc : State := withLines s0 [(0x4000, 3, [])]

theorem witness_QuadControl_mocfg : Presents p0 (.mocfg p0 ⟨3, 0⟩ .none) sDesc ∧ (sDesc.cores[p0.core]).modeWait = none ∧
    (∃ s' bs, sDesc.loadBytes 0 0 (some .scalar) ((adr sDesc p0 0).toNat / 64 * 64) 64 .none = (s', .ok bs)) ∧
    descBad (Vector.replicate 8 0) = [] :=
  ⟨presents_of (by decide), by decide, ok_of (by decide +kernel), by decide +kernel⟩

/-- The tile's row is in array 0, both elements 127 above an accumulator at the top of INT32. -/
def flight0 : Flight :=
  { part := 0, row := 0, entry := 511, act := [127], scale := [], block := ⟨[[127]], []⟩, tile := tile0, nextCol := 0 }
def sFlight : State :=
  run { (quadWith tile0) with arrs := (Vector.replicate 4 Arr.reset).set 0 { Arr.reset with
    flights := [flight0], acc := [(511, { w := (Vector.replicate 64 0).set 0 0x7FFFFFFF, bad := [] })] } }
def sRows : State := run (quadWith { tile0 with rowsRead := 1 })

theorem witness_Accumulates : Alive sFlight ∧ (sFlight.cores[(0 : Fin 96)]).mode = .active ∧
    ((sFlight.cores[(0 : Fin 96)]).arrs[(0 : Fin 4)]).flights = [flight0] ∧ flight0.nextCol = 0 ∧
    (0 : Fin 64) ∉ (Tbl.get AccEntry.zero ((sFlight.cores[(0 : Fin 96)]).arrs[(0 : Fin 4)]).acc 511).bad ∧
    0 < flight0.tile.n ∧ flight0.tile.isInt = true ∧ Alive sRows ∧
    (sRows.cores[(0 : Fin 96)]).tileQ[(0 : Fin 4)] = [{ tile0 with rowsRead := 1 }] ∧
    Tile.m { tile0 with rowsRead := 1 } ≤ 1 ∧ (∀ a : Fin 4, ((sRows.cores[(0 : Fin 96)]).arrs[a]).flights = []) ∧
    noneHeld sRows 0 ∧ tile0.o.last = true :=
  ⟨⟨by decide, by decide⟩, by decide, by decide +kernel, by decide, by decide +kernel, by decide, by decide +kernel,
    ⟨by decide, by decide⟩, by decide +kernel, by decide, by decide +kernel, by unfold noneHeld; decide +kernel, by decide⟩

/-- A LAST tile has passed its rows on a core that drains. -/
def sRowsDrain : State := run { (quadWith { tile0 with rowsRead := 1 }) with draining := true }

theorem witness_Accumulates_draining : Alive sRowsDrain ∧ (sRowsDrain.cores[(0 : Fin 96)]).mode = .active ∧
    (sRowsDrain.cores[(0 : Fin 96)]).tileQ[(0 : Fin 4)] = [{ tile0 with rowsRead := 1 }] ∧
    (sRowsDrain.cores[(0 : Fin 96)]).draining = true ∧ tile0.o.last = true ∧
    (∀ a : Fin 4, ((sRowsDrain.cores[(0 : Fin 96)]).arrs[a]).flights = []) ∧ noneHeld sRowsDrain 0 :=
  ⟨⟨by decide, by decide⟩, by decide, by decide +kernel, by decide, by decide, by decide +kernel,
    by unfold noneHeld; decide +kernel⟩

def sHead : State := run (quadWith tile0)

theorem witness_TileStreams_head : coreRuns sHead 0 ∧ (sHead.cores[(0 : Fin 96)]).tileQ[(0 : Fin 4)] = [tile0] ∧
    (sHead.cores[(0 : Fin 96)]).arrays 0 ≠ [] ∧ pairOk tile0.afmt tile0.wfmt tile0.o.mx tile0.k = true ∧
    tile0.rangeBad ((sHead.cores[(0 : Fin 96)]).arrays 0).length = false :=
  ⟨⟨⟨by decide, by decide⟩, by decide, by decide⟩, by decide, by decide +kernel, by decide +kernel, by decide +kernel⟩

/-- The operands lie at DVA 0 and 0x40 of a line the slices hold. -/
def sLoad : State := withLines (run (quadWith { tile0 with checked := true })) [(0x4000, 3, [3, 0, 0, 0, 0, 0, 0, 0, 5])]

theorem witness_TileStreams_load : coreRuns sLoad 0 ∧
    (sLoad.cores[(0 : Fin 96)]).tileQ[(0 : Fin 4)] = [{ tile0 with checked := true }] ∧
    (∀ (q : Fin 4), ∀ x ∈ (sLoad.cores[(0 : Fin 96)]).tileQ[q], Tile.order { tile0 with checked := true } ≤ x.order) ∧ (0 : Fin 4) ∈ (sLoad.cores[(0 : Fin 96)]).arrays 0 ∧
    let r := sLoad.operandRows 0 0 tile0.wfmt tile0.wAddr.toNat tile0.o.wstride.toNat tile0.k tile0.n .none
    r.2.toOption = some ([[5]], []) ∧ (r.1.cores[(0 : Fin 96)]).tileQ = (sLoad.cores[(0 : Fin 96)]).tileQ :=
  ⟨⟨⟨by decide, by decide⟩, by decide, by decide⟩, by decide, by decide +kernel, by decide +kernel, by decide +kernel, by decide +kernel⟩

/-- Array 0 at level 256 has the credit of 256 for one row after one cycle. -/
def sFeed : State :=
  withLines (run { (quadWith { tile0 with checked := true, loaded := true }) with
    arrs := (Vector.replicate 4 Arr.reset).set 0 { Arr.reset with level := 256 } })
    [(0x4000, 3, [3, 0, 0, 0, 0, 0, 0, 0, 5])]

theorem witness_TileStreams_feed :
    let t : Tile := { tile0 with checked := true, loaded := true }
    coreRuns sFeed 0 ∧ (sFeed.cores[(0 : Fin 96)]).partOf 0 = 0 ∧ (sFeed.cores[(0 : Fin 96)]).tileQ[(0 : Fin 4)] = [t] ∧
    (sFeed.cores[(0 : Fin 96)]).rampEn = true ∧ ((sFeed.cores[(0 : Fin 96)]).arrays 0).head? = some 0 ∧
    (sFeed.cores[(0 : Fin 96)]).entryHeld 0 t 511 = false ∧ t.cadence ≤ 1 ∧
    ((sFeed.cores[(0 : Fin 96)]).arrs[(0 : Fin 4)]).falling = false ∧
    let y := sFeed.runArr 0 ((sFeed.cores[(0 : Fin 96)]).arrs[(0 : Fin 4)]) (feedEvent t) 1
    256 ≤ y.credit ∧
    let r := ((sFeed.clampTo y).modCore 0 fun k => k.modArr 0 fun _ => y).operandRow 0 0 tile0.afmt tile0.aAddr.toNat tile0.k
      .none
    r.2.toOption = some ([3], []) ∧ (r.1.cores[(0 : Fin 96)]).arrs = (sFeed.cores[(0 : Fin 96)]).arrs.set 0 y :=
  ⟨⟨⟨by decide, by decide⟩, by decide, by decide⟩, by decide, by decide, by decide, by decide +kernel, by decide +kernel,
    by decide +kernel, by decide +kernel, by decide +kernel, by decide +kernel, by decide +kernel⟩

/-- No array: PART_ABSENT. A float against an integer: FMT_PAIR. 513 rows for one array: ACC_RANGE. -/
def sAbsent : State := run { (quadWith tile0) with present := 0 }
def tilePair : Tile := { tile0 with o := { ops0 with wfmt := 2 } }
def tileRange : Tile := { tile0 with o := { ops0 with entry := 0, mm1 := 512 } }

theorem witness_TileStreams_fault : coreRuns sAbsent 0 ∧ (sAbsent.cores[(0 : Fin 96)]).arrays 0 = [] ∧
    pairOk tilePair.afmt tilePair.wfmt tilePair.o.mx tilePair.k = false ∧
    pairOk tileRange.afmt tileRange.wfmt tileRange.o.mx tileRange.k = true ∧
    tileRange.rangeBad (((run (quadWith tileRange)).cores[(0 : Fin 96)]).arrays 0).length = true ∧
    ((sAbsent.cores[(0 : Fin 96)]).streams[tile0.stream]).mode = .run ∧ (sAbsent.cores[(0 : Fin 96)]).pfault[(0 : Fin 4)] = 0 ∧
    (∀ a : Fin 4, ((sAbsent.cores[(0 : Fin 96)]).arrs[a]).flights = []) ∧ noneHeld sAbsent 0 :=
  ⟨⟨⟨by decide, by decide⟩, by decide, by decide⟩, by decide +kernel, by decide +kernel, by decide +kernel,
    by decide +kernel, by decide, by decide, by decide +kernel, by unfold noneHeld; decide +kernel⟩

/-- A loaded tile waits and array 0 is at level 0; then no tile and array 0 at level 256, with ramps and without. -/
def sWaitTile : State := run (quadWith { tile0 with checked := true, loaded := true })

def sIdleArr (en : Bool) : State :=
  run { (coreWith st0) with
    mxMode := 2, rampEn := en, arrs := (Vector.replicate 4 Arr.reset).set 0 { Arr.reset with level := 256 } }

theorem witness_TileStreams_ramps : coreRuns sWaitTile 0 ∧ (sWaitTile.cores[(0 : Fin 96)]).rampEn = true ∧
    (sWaitTile.cores[(0 : Fin 96)]).rowsLeft 0 = true ∧ (sWaitTile.cores[(0 : Fin 96)]).present.getLsbD 0 = true ∧
    ((sWaitTile.cores[(0 : Fin 96)]).arrs[(0 : Fin 4)]).ramp = .steady ∧ ((sWaitTile.cores[(0 : Fin 96)]).arrs[(0 : Fin 4)]).level = 0 ∧
    sWaitTile.sup.clamp = .normal ∧
    (∀ en : Bool, Alive (sIdleArr en) ∧ ((sIdleArr en).cores[(0 : Fin 96)]).mode = .active ∧
      ((sIdleArr en).cores[(0 : Fin 96)]).rampEn = en ∧ (sIdleArr en).sup.clamp = .normal ∧
      ((sIdleArr en).cores[(0 : Fin 96)]).queueLeft 0 = false ∧ (((sIdleArr en).cores[(0 : Fin 96)]).arrs[(0 : Fin 4)]).falling = false ∧ 0 < (((sIdleArr en).cores[(0 : Fin 96)]).arrs[(0 : Fin 4)]).level) :=
  ⟨⟨⟨by decide, by decide⟩, by decide, by decide⟩, by decide, by decide +kernel, by decide, by decide, by decide, by decide,
    fun en => ⟨⟨rfl, Nat.zero_lt_two⟩, rfl, rfl, rfl, by cases en <;> decide +kernel, by cases en <;> decide +kernel, by cases en <;> decide +kernel⟩⟩

/-- Array 0 is 15 cycles into its fall of 16 from level 256. -/
def sFalling : State :=
  run { (coreWith st0) with
    mxMode := 2, rampEn := true, rampLen := 0
    arrs := (Vector.replicate 4 Arr.reset).set 0 { Arr.reset with level := 16, ramp := .down 256 16 15 } }

def steadyCore : Core :=
  { (coreWith st0) with
    mxMode := 2, rampEn := true, rampLen := 0
    arrs := (Vector.replicate 4 Arr.reset).set 0 { Arr.reset with level := 256 } }

/-- A fall that begins now, and one that runs; each ends with its sixteenth cycle. -/
theorem witness_TileStreams_falls :
    FallsFrom steadyCore 0 256 16 0 ∧
    Alive sFalling ∧ (sFalling.cores[(0 : Fin 96)]).mode = .active ∧ (sFalling.cores[(0 : Fin 96)]).rampEn = true ∧
    (sFalling.cores[(0 : Fin 96)]).queueLeft 0 = false ∧ FallsFrom sFalling.cores[(0 : Fin 96)] 0 256 16 15 ∧
    15 + 0 < 16 ∧ 16 ≤ 15 + 1 :=
  ⟨by unfold FallsFrom; decide +kernel, ⟨by decide, by decide⟩, by decide, by decide, by decide +kernel,
    by unfold FallsFrom; decide +kernel, by decide, by decide⟩

/-- Array 0 falls while a tile with rows waits: it ramps up from its level. -/
def sTurn : State :=
  run { (quadWith { tile0 with checked := true, loaded := true }) with
    rampEn := true, arrs := (Vector.replicate 4 Arr.reset).set 0 { Arr.reset with level := 16, ramp := .down 256 16 15 } }

theorem witness_TileStreams_turn : coreRuns sTurn 0 ∧ (sTurn.cores[(0 : Fin 96)]).rampEn = true ∧
    (sTurn.cores[(0 : Fin 96)]).rowsLeft 0 = true ∧ (sTurn.cores[(0 : Fin 96)]).present.getLsbD 0 = true ∧
    ((sTurn.cores[(0 : Fin 96)]).arrs[(0 : Fin 4)]).falling = true :=
  ⟨⟨⟨by decide, by decide⟩, by decide, by decide⟩, by decide, by decide +kernel, by decide, by decide +kernel⟩

/-! ### Output pipeline -/

/-- FP32-RNE accumulation to the handoff queue, one row. -/
def opsF : TileOps := { ops0 with afmt := 2, wfmt := 2, accm := true }

/-- Its descriptor: FP32 to plates. -/
def tileF : Tile :=
  { tile0 with
    o := opsF, checked := true, loaded := true, rowsRead := 1, desc := (Vector.replicate 8 0).set 0 0x0040000000000000 }

def out0 : OutTile :=
  { tile := tileF, part := 0, lanes := [0], started := false, nextEntry := 511, svec := [], bvec := [],
    counts := Counts.none, added := false, waiting := false, pipe := [] }

def outWith (x : OutTile) (hs : List Handoff) : State :=
  run { (coreWith st0) with mxMode := 2, outQ := #v[[x], [], [], []], handoff := hs }

def hand0 : Handoff :=
  { id := 0, stream := 0, part := 0, tileSeq := 0, block := 0, rows := [], rowCount := 1, colCount := 1, nanF := false,
    ovfF := false, complete := false, claimed := false }

def sOutStart : State := outWith out0 []
def sOutRead : State := outWith { out0 with started := true } [hand0]
def sOutWait : State := outWith { out0 with started := true, waiting := true } []

/-- Three rows from entry 0; the lane has read none, or holds its first at the lane's last cycle. -/
def tile3 : Tile := { tileF with o := { opsF with entry := 0, mm1 := 2 } }
def out3 : OutTile := { out0 with tile := tile3, started := true, nextEntry := 0 }
def out3Full : OutTile :=
  { out3 with nextEntry := 1, pipe := [{ entry := 0, age := 12, rows := [(0, 0, AccEntry.zero)], draws := [] }] }
def hand3 : Handoff := { hand0 with rowCount := 3 }

theorem witness_OutputReads : coreRuns sOutStart 0 ∧ (sOutStart.cores[(0 : Fin 96)]).outQ[(0 : Fin 4)] = [out0] ∧
    out0.allRead = false ∧ out0.started = false ∧ plainTile tileF ∧ tileF.shapeBad = false ∧ Alive sOutWait ∧
    (∀ q : Fin 4, q ≠ 0 → (sOutWait.cores[(0 : Fin 96)]).outQ[q] = []) ∧
    (sOutWait.cores[(0 : Fin 96)]).outQ[(0 : Fin 4)] = [{ out0 with started := true, waiting := true }] ∧
    (sOutWait.cores[(0 : Fin 96)]).handoff = [] ∧ 511 - tileF.o.entry.toNat < tileF.m ∧ tileF.o.entry.toNat ≤ 511 :=
  ⟨⟨⟨by decide, by decide⟩, by decide, by decide⟩, by decide, by decide +kernel, by decide, by unfold plainTile; decide +kernel,
    by decide +kernel, ⟨by decide, by decide⟩, by decide +kernel, by decide, by decide, by decide, by decide⟩

/-- The tile's last entry; an entry with more to come; one behind a full lane. -/
theorem witness_OutputReads_next : ReadsNext sOutRead 0 0 0 { out0 with started := true } hand0 ∧ out0.pipe = [] ∧
    out0.nextEntry + 1 = tileF.o.entry.toNat + tileF.m ∧
    ReadsNext (outWith out3 [hand3]) 0 0 0 out3 hand3 ∧ out3.pipe = [] ∧
    out3.nextEntry + 1 < tile3.o.entry.toNat + tile3.m ∧
    ReadsNext (outWith out3Full [hand3]) 0 0 0 out3Full hand3 ∧
    out3Full.nextEntry + 1 < tile3.o.entry.toNat + tile3.m ∧
    out3Full.pipe = [{ entry := 0, age := 12, rows := [(0, 0, AccEntry.zero)], draws := [] }] ∧ 0 < tile3.m ∧
    hand3.block = 0 / 64 :=
  ⟨⟨⟨by decide, by decide⟩, by decide, by decide, by decide, by decide +kernel, by decide, by decide,
      by unfold plainTile; decide +kernel, by decide +kernel, by decide, by decide, by decide, by decide, by decide, by decide,
      by decide⟩, by decide, by decide,
    ⟨⟨by decide, by decide⟩, by decide, by decide, by decide, by decide +kernel, by decide, by decide,
      by unfold plainTile; decide +kernel, by decide +kernel, by decide, by decide, by decide, by decide, by decide, by decide,
      by decide⟩, by decide, by decide,
    ⟨⟨by decide, by decide⟩, by decide, by decide, by decide, by decide +kernel, by decide, by decide,
      by unfold plainTile; decide +kernel, by decide +kernel, by decide, by decide, by decide, by decide, by decide, by decide,
      by decide⟩, by decide, by decide, by decide, by decide⟩

/-- A VTAKE of plate 15. -/
def vtake0 : LayV := { pd := 15, pa := 0, pb := 0, pc := 0, fmt := 0, rnd := 0, ovfm := false, sub := 0, idx := 0, aux := 0 }
def handC : Handoff := { hand0 with complete := true, rows := [(0, Vector.replicate 64 5)] }
def sTake : State := run { (coreWith st0) with handoff := [handC] }
def sTakeWait : State := run { (coreWith { st0 with mode := .wait, wait := .vtake 15 0x4000 }) with handoff := [handC] }
def sTakeRun : State :=
  run { (coreWith { st0 with vtake := some ⟨15, 0, 0⟩ }) with handoff := [{ handC with claimed := true }] }

theorem owns0 (s : State) (ps : List (BitVec 4)) (hp : (streamOf s p0).plates = 0xFFFF)
    (hv : (∀ u : Fin 4, ((s.cores[p0.core]).streams[u]).vtake = none) ∧ (s.cores[p0.core]).vecQ = []) : Owns s p0 ps :=
  ⟨fun q hq => by rw [hp]; clear hq; revert q; decide, hv⟩

theorem witness_TakesHandoff : Presents p0 (.vtake p0 vtake0) sTake ∧ Owns sTake p0 [15] ∧
    (sTake.cores[p0.core]).handoff.find? (fun x => x.stream == p0.stream && x.complete && !x.claimed) = some handC ∧
    coreRuns sTakeWait 0 ∧ (streamOf sTakeWait p0).mode = .wait ∧ (streamOf sTakeWait p0).wait = .vtake 15 0x4000 ∧
    Owns sTakeWait p0 [15] ∧
    (sTakeWait.cores[p0.core]).handoff.find? (fun x => x.stream == p0.stream && x.complete && !x.claimed) = some handC ∧
    Alive sTakeRun ∧ (streamOf sTakeRun p0).vtake = some ⟨15, 0, 0⟩ ∧
    (sTakeRun.cores[p0.core]).handoff = [{ handC with claimed := true }] ∧ noneHeld sTakeRun 0 ∧
    (sTakeRun.cores[p0.core]).vecQ = [] :=
  ⟨presents_of (by decide), owns0 _ _ (by decide) (by decide +kernel), by decide +kernel,
    ⟨⟨by decide, by decide⟩, by decide, by decide⟩, by decide, by decide, owns0 _ _ (by decide) (by decide +kernel),
    by decide +kernel, ⟨by decide, by decide⟩, by decide, by decide +kernel, by unfold noneHeld; decide +kernel, by decide⟩

/-- A VMOV of the taken plate to plate 13 behind the VTAKE, alone or with others. -/
def vmov1 : LayV := { pd := 13, pa := 15, pb := 0, pc := 0, fmt := 0, rnd := 0, ovfm := false, sub := 0, idx := 0, aux := 0 }
def wait1 : VecWait := ⟨0, .vmov p0 vmov1, 0x4000, ((encode (.vmov p0 vmov1)).getD (0, 0)).1, 1, 64, 0xFFFF, Vector.replicate 32 0, none⟩
def sTakeQ (q : List VecWait) : State :=
  run { (coreWith { st0 with vtake := some ⟨15, 0, 0⟩ }) with handoff := [{ handC with claimed := true }], vecQ := q }

theorem witness_TakesHandoff_queue : Alive (sTakeQ [wait1]) ∧ ((sTakeQ [wait1]).cores[p0.core]).mode = .active ∧
    (streamOf (sTakeQ [wait1]) p0).vtake = some ⟨15, 0, 0⟩ ∧
    ((sTakeQ [wait1]).cores[p0.core]).handoff = [{ handC with claimed := true }] ∧ noneHeld (sTakeQ [wait1]) 0 ∧
    ((sTakeQ [wait1]).cores[p0.core]).vecQ = [wait1] ∧ wait1.instr = .vmov p0 vmov1 ∧
    (∀ u : Fin 4, u ≠ p0.stream → (((sTakeQ [wait1]).cores[p0.core]).streams[u]).vtake = none) ∧
    wait1.plates.getLsbD vmov1.pd.toNat = true ∧ wait1.plates.getLsbD vmov1.pa.toNat = true ∧
    ∀ q ∈ [[], [wait1, wait1, wait1], [wait1, wait1, wait1, wait1]], Presents p0 (.vmov p0 vmov1) (sTakeQ q) ∧
      vecPlates (.vmov p0 vmov1) ≠ [] ∧ HasPlates (sTakeQ q) p0 (vecPlates (.vmov p0 vmov1)) ∧
      ((sTakeQ q).cores[p0.core]).vecQ = q ∧ ∃ u : Fin 4, (((sTakeQ q).cores[p0.core]).streams[u]).vtake ≠ none := by
  refine ⟨⟨by decide, by decide⟩, by decide, by decide, by decide +kernel, by unfold noneHeld; decide +kernel, by decide,
    rfl, by decide +kernel, by decide, by decide, fun q hq => ?_⟩
  have hp : ∀ q ∈ [[], [wait1, wait1, wait1], [wait1, wait1, wait1, wait1]], presents p0 (.vmov p0 vmov1) (sTakeQ q) = true := by
    decide +kernel
  refine ⟨presents_of (hp q hq), by decide, fun r hr => ?_, rfl, 0, Option.some_ne_none _⟩
  show (0xFFFF#16).getLsbD r.toNat = true
  clear hr
  revert r
  decide

/-- A queued VGET reads what the VTAKE brought (R177, R184). -/
theorem test_vec_queue : (match exec (.vtakeComplete p0) (sTakeQ [{ wait1 with instr := .vget p0 ⟨15, 5, 0, 63, 0⟩ }]) with
    | .next t => (((t.cores[(0 : Fin 96)]).streams[(0 : Fin 4)]).regs[5] == 5) && (t.cores[(0 : Fin 96)]).vecQ.isEmpty
    | _ => false) = true := by decide +kernel

/-- The tile counts into photometry slot 0, which lies at DVA 0. -/
def outPen : OutTile :=
  { out0 with
    started := true, nextEntry := 512, tile := { tileF with desc := (Vector.replicate 8 0).set 0 0x0040800000000000 } }
def outDone : OutTile := { out0 with started := true, nextEntry := 512 }
def sPen : State := withLines (outWith outPen []) [(0x4000, 3, [])]
def sOutDone : State := outWith outDone []
def sScale : State := withLines s0 [(0x4000, 3, [])]
def hs0 : HscaleRun := ⟨31, 0x3F800000, false, 0, 0x4000, 0⟩
def sScaled : State := sWith { st0 with hscale := some hs0 }

theorem witness_OutputCompletes : Alive sPen ∧ (sPen.cores[(0 : Fin 96)]).outQ[(0 : Fin 4)] = [outPen] ∧
    outPen.allRead = true ∧ outPen.tile.pen = true ∧ (sPen.slotLeaf 0 outPen.tile.slot).2 = some (leaf0, 0) ∧
    ((sPen.slotLeaf 0 outPen.tile.slot).1.cores[(0 : Fin 96)]).outQ[(0 : Fin 4)] = [outPen] ∧
    (sOutDone.cores[(0 : Fin 96)]).outQ[(0 : Fin 4)] = [outDone] ∧ outDone.allRead = true ∧ outDone.tile.pen = false ∧
    noneHeld sOutDone 0 ∧ Presents p0 (.hscale p0 ⟨31, 1, 2, 0, 0, 0, false⟩) sScale ∧ (streamOf sScale p0).hscale = none ∧
    (sScale.slotLeaf 0 0).2 = some (leaf0, 0) ∧ Alive sScaled ∧ (streamOf sScaled p0).hscale = some hs0 ∧ noneHeld sScaled 0 :=
  ⟨⟨by decide, by decide⟩, by decide +kernel, by decide +kernel, by decide +kernel, by decide +kernel, by decide +kernel,
    by decide +kernel, by decide +kernel, by decide +kernel, by unfold noneHeld; decide +kernel, presents_of (by decide),
    by decide, by decide +kernel, ⟨by decide, by decide⟩, by decide, by unfold noneHeld; decide +kernel⟩

/-! ### Vector instructions -/

/-- Operands on plates 15, 14, 13, 12 in FP32, BF16 or an integer format. -/
def v0 (fmt : BitVec 5) : LayV :=
  { pd := 15, pa := 14, pb := 13, pc := 0, fmt := fmt, rnd := 0, ovfm := false, sub := 0, idx := 0, aux := 0 }

theorem ownsAll (ps : List (BitVec 4)) : Owns s0 p0 ps := owns0 s0 ps (by decide) (by decide +kernel)

/-- Each element-wise instruction with operands that its row of R224 allows: a float format for VFMA and the functions,
an integer one for the logic and the shifts. -/
theorem witness_VectorElementwise : (∀ e ∈ elementwise, ∃ o, Presents p0 (e.1 p0 o) s0 ∧ Owns s0 p0 (e.2.1 o)) ∧
    ∀ e ∈ ([(Instr.vadd, two, fun a b => a + b), (.vsub, two, fun a b => a - b), (.vmul, two, fun a b => a * b),
      (.vabs, one, fun a _ => |a|), (.vneg, one, fun a _ => -a)] :
        List ((Site → LayV → Instr) × (LayV → List (BitVec 4)) × (Int → Int → Int))),
      ∃ o, fmtIs o = .int32 ∧ Presents p0 (e.1 p0 o) s0 := by
  have h : ∀ e ∈ elementwise, ∃ f ∈ [(0 : BitVec 5), 2, 10], ∃ b ∈ [(0 : BitVec 4), 13], ∃ c ∈ [(0 : BitVec 4), 12],
      presents p0 (e.1 p0 { v0 f with pb := b, pc := c }) s0 = true := by decide +kernel
  constructor
  · intro e he
    obtain ⟨f, -, b, -, c, -, hp⟩ := h e he
    exact ⟨_, presents_of hp, ownsAll _⟩
  · intro e he
    have h' : ∀ e ∈ ([(Instr.vadd, two, fun a b => a + b), (.vsub, two, fun a b => a - b), (.vmul, two, fun a b => a * b),
      (.vabs, one, fun a _ => |a|), (.vneg, one, fun a _ => -a)] :
        List ((Site → LayV → Instr) × (LayV → List (BitVec 4)) × (Int → Int → Int))),
        ∃ b ∈ [(0 : BitVec 4), 13], presents p0 (e.1 p0 { v0 10 with pb := b }) s0 = true := by decide +kernel
    obtain ⟨b, -, hp⟩ := h' e he
    exact ⟨_, by decide +revert, presents_of hp⟩

theorem witness_VectorMoves : Presents p0 (.vsplat p0 ⟨15, 31, 0, 0, 0⟩) s0 ∧
    Presents p0 (.vmov p0 { v0 0 with pb := 0 }) s0 ∧ Presents p0 (.vget p0 ⟨15, 31, 63, 63, 0⟩) s0 ∧
    (Presents p0 (.vcvt p0 { v0 1 with pb := 0, aux := 10 }) s0 ∧ (fmtOf ((10 : BitVec 6).truncate 5)).packed = false ∧
      (fmtIs (v0 1)).packed = false) ∧
    Presents p0 (.vscaleRun p0 { v0 0 with pa := 0 }) s0 ∧ Presents p0 (.vlse p0 { v0 0 with pa := 0 }) s0 ∧
    ∀ ps, Owns s0 p0 ps :=
  ⟨presents_of (by decide), presents_of (by decide), presents_of (by decide), ⟨presents_of (by decide), by decide, by decide⟩,
    presents_of (by decide), presents_of (by decide), ownsAll⟩

theorem witness_VectorRows : Presents p0 (.vredRow p0 { v0 0 with pb := 0, idx := 63 }) s0 ∧
    Presents p0 (.vredCol p0 { v0 0 with pb := 0, idx := 63 }) s0 ∧ Presents p0 (.vmaxRun p0 { v0 0 with pb := 0 }) s0 ∧
    Presents p0 (.vexpSub p0 (v0 0)) s0 ∧ Presents p0 (.vpermRow p0 (v0 0)) s0 ∧ Presents p0 (.vpermCol p0 (v0 0)) s0 ∧
    vlenOf s0 p0 ≤ 64 :=
  ⟨presents_of (by decide), presents_of (by decide), presents_of (by decide), presents_of (by decide),
    presents_of (by decide), presents_of (by decide), by decide⟩

/-- Rows of eight words from DVA 252, which lie over two lines the core holds. -/
def sVld : State :=
  run { (warm (coreWith { st0 with vl := 8, regs := st0.regs.set 30 252 }) leaf0) with
    ns := (List.range 2).foldl (fun t i => (cacheFill 8 t (nsSet (0x4000 + i)) (nsTag (0x4000 + i)) nsA).1) [] }
def sMx : State := withLines (sWith { st0 with vl := 32 }) []

/-- In FP32 and in BF16, two elements to a word. -/
def rows8 (f : BitVec 5) : LayVM := ⟨15, 30, 0, 0, f, 0, false⟩

/-- What a test decides of every DVA of a row holds of every DVA in the rows, which all begin at one place. -/
theorem inRows_of {P : Nat → Prop} {s : State} {p : Site} {o : LayVM} (lo n : Nat)
    (hr : ∀ r : Nat, r < 64 → rowAt s p o r = lo ∧ 4 * vlenOf s p = n) (h : ∀ i, i < n → P (lo + i)) (a : Nat)
    (ha : inRows s p o a) : P a := by
  obtain ⟨r, hlt, h1, h2⟩ := ha
  obtain ⟨e1, e2⟩ := hr r hlt
  have := h (a - lo) (by omega)
  rwa [show lo + (a - lo) = a by omega] at this

theorem witness_VectorMemory : ∀ f ∈ [(0 : BitVec 5), 2], Presents p0 (.vld p0 (rows8 f) .none) sVld ∧ Owns sVld p0 [15] ∧
    fmtOf f ∈ asStoredFormats ∧ vlenOf sVld p0 = 8 ∧ (sVld.cores[p0.core]).ctx.isSome = true ∧
    (∀ r : Nat, r < 64 → rowAt sVld p0 (rows8 f) r % 4 = 0 ∧ rowAt sVld p0 (rows8 f) r + 4 * vlenOf sVld p0 ≤ 2 ^ 48) ∧
    (∀ a : Nat, inRows sVld p0 (rows8 f) a → Held sVld p0.core a leaf0 nsA) ∧
    Presents p0 (.vst p0 (rows8 f)) sVld ∧
    (∀ a : Nat, inRows sVld p0 (rows8 f) a → (sVld.cores[p0.core]).tlbFind a = some leaf0 ∧ leaf0.w = true) ∧
    (sVld.cores[p0.core]).wq.length + 128 ≤ 256 := by
  intro f hf
  have hr : ∀ f ∈ [(0 : BitVec 5), 2], ∀ r : Nat, r < 64 → rowAt sVld p0 (rows8 f) r = 252 ∧ 4 * vlenOf sVld p0 = 32 := by
    decide +kernel
  have hp : ∀ f ∈ [(0 : BitVec 5), 2], presents p0 (.vld p0 (rows8 f) .none) sVld = true ∧
      fmtOf f ∈ asStoredFormats ∧ presents p0 (.vst p0 (rows8 f)) sVld = true := by decide +kernel
  have hl : ∀ i, i < 32 → Held sVld p0.core (252 + i) leaf0 nsA := by unfold Claims.Held; decide +kernel
  exact ⟨presents_of (hp f hf).1, owns0 _ _ (by decide) (by decide +kernel), (hp f hf).2.1, by decide, by decide,
    fun r h => ⟨by rw [(hr f hf r h).1], by rw [(hr f hf r h).1, (hr f hf r h).2]; decide⟩,
    inRows_of 252 32 (hr f hf) hl, presents_of (hp f hf).2.2,
    inRows_of 252 32 (hr f hf) fun i h => ⟨(hl i h).1, rfl⟩, by decide⟩

/-- The rows and scales of VST.mx in E4M3 over the page that the tables give. -/
theorem witness_VectorMemory_mx : Presents p0 (.vstMx p0 ⟨15, 0, 0, 0, 5, 0, false⟩) sVld ∧ Owns sVld p0 [15] ∧ Owns sMx p0 [15] ∧ vlenOf sVld p0 % 32 ≠ 0 ∧
    (sVld.cores[p0.core]).vxFault = 0 ∧ Presents p0 (.vstMx p0 ⟨15, 0, 0, 0, 5, 0, false⟩) sMx ∧
    vlenOf sMx p0 % 32 = 0 ∧
    ((List.range 64).foldl (fun (x : State × Option RowStop) r => match x.2 with
      | some _ => x
      | none => match x.1.vstMxRow (sMx.here p0 (opc 0x1B 0x02 (⟨15, 0, 0, 0, 5, 0, false⟩ : LayVM).bits))
          ⟨15, 0, 0, 0, 5, 0, false⟩ 32 0 0 0 r with
        | (s, .error e) => (s, some e)
        | (s, .ok m) => (s.modCore p0.core fun k => k.mark p0.stream m, none)) (sMx, none)).2.isNone = true :=
  ⟨presents_of (by decide), owns0 _ _ (by decide) (by decide +kernel), owns0 _ _ (by decide) (by decide +kernel), by decide, by decide,
    presents_of (by decide), by decide, by decide +kernel⟩

/-- The stream owns no plate. -/
def sBare : State := sWith { st0 with plates := 0 }

theorem witness_VectorMemory_owner : (∀ e ∈ elementwise, ∃ o, Presents p0 (e.1 p0 o) sBare ∧
      (streamOf sBare p0).plates.getLsbD o.pd.toNat = false) ∧
    ((∀ u : Fin 4, ((sBare.cores[p0.core]).streams[u]).giving = []) ∧ vecFree sBare p0.core) ∧
    (sBare.cores[p0.core]).vxFault = 0 := by
  have h : ∀ e ∈ elementwise, ∃ f ∈ [(0 : BitVec 5), 2, 10], ∃ b ∈ [(0 : BitVec 4), 13], ∃ c ∈ [(0 : BitVec 4), 12],
      presents p0 (e.1 p0 { v0 f with pb := b, pc := c }) sBare = true := by decide +kernel
  refine ⟨fun e he => ?_, by unfold vecFree; decide +kernel, by decide⟩
  obtain ⟨f, -, b, -, c, -, hp⟩ := h e he
  exact ⟨_, presents_of hp, by simp [sBare, streamOf, sWith, run, coreWith, st0, p0]⟩

/-! ### Generators -/

def sGenHeld : State := run { (coreWith st0) with genHeld := [(383, 7)] }
def sGenBusy : State :=
  run { (coreWith st0) with
    genHeld := [(383, 7)], arrs := (Vector.replicate 4 Arr.reset).set 3 { Arr.reset with level := 1 } }
/-- The core holds the 24 lines of the generator state at DVA 0 to 0x17FF. -/
def sGens : State :=
  run { (warm (coreWith st0) leaf0) with
    ns := (List.range 24).foldl (fun t i => (cacheFill 8 t (nsSet (0x4000 + i)) (nsTag (0x4000 + i)) nsA).1) [] }

theorem witness_Generators : Presents p0 (.rseed p0 ⟨31, 7, 3⟩) s0 ∧ (s0.cores[p0.core]).quadIdle = true ∧
    vecFree s0 p0.core ∧
    Presents p0 (.vrandU32 p0 { v0 0 with pa := 0, pb := 0 }) s0 ∧ Presents p0 (.vrandF32 p0 { v0 0 with pa := 0, pb := 0 }) s0 ∧
    (sGenHeld.cores[(0 : Fin 96)]).genHeld = [((383 : Fin 384).val, 7)] ∧ (sGenHeld.cores[(0 : Fin 96)]).quadIdle = true ∧
    (sGenBusy.cores[(0 : Fin 96)]).quadIdle = false :=
  ⟨presents_of (by decide), by decide +kernel, by unfold vecFree; decide +kernel, presents_of (by decide), presents_of (by decide),
    by decide, by decide +kernel, by decide +kernel⟩

theorem witness_Generators_memory : Presents p0 (.rsave p0 0) sGens ∧ Presents p0 (.rload p0 0 .none) sGens ∧
    (sGens.cores[p0.core]).quadIdle = true ∧ vecFree sGens p0.core ∧
    (sGens.storeBytes 0 0 0 .vec 0 (genBytes sGens.cores[p0.core])).2.isOk = true ∧
    (sGens.loadBytes 0 0 none 0 6144 .none).2.isOk = true :=
  ⟨presents_of (by decide), presents_of (by decide), by decide +kernel, by unfold vecFree; decide +kernel, by decide +kernel,
    by decide +kernel⟩

/-! ### Stack controllers -/

/-- A line written by owner class 3 under the present key; its tag is good where `ok` is. -/
def written3 (ok : Bool) (l : Nat) : LineMeta :=
  { written := true, owner := 3, poison := false, keyGen := 0, a := l, intact := ok }

/-- The first and the last memory line are in DRAM. -/
def sDram (ok : Bool) : State :=
  { s0 with mem := { s0.mem with side := [(0, written3 ok 0), (0xBFFFFFFF, written3 ok 0xBFFFFFFF)] } }

theorem stk_on : ∀ k : Fin 16, (s0.mem.stk[k]).selfRefresh = false := by decide +kernel
theorem stk_full : ∀ k g : Fin 16, (s0.mem.stk[k]).groups[g] = .fullSpare := by decide +kernel

theorem inDram (side : Tbl LineMeta) (l : Nat) (h : l < 0xC0000000) :
    InDram { s0 with mem := { s0.mem with side := side } } l := by
  refine ⟨⟨h, rfl, rfl⟩, ⟨rfl, Nat.zero_lt_two, rfl, rfl, stk_on _⟩, ?_, rfl, rfl, rfl⟩
  show (s0.mem.stk[lineStack l]).erasedAt (lineGroup l) (lineK l) ≠ none
  unfold Stack.erasedAt
  rw [stk_full (lineStack l) (lineGroup l)]
  simp

/-- Three symbols of one beat are wrong in both readings. -/
def ruined : BurstErr :=
  ⟨[⟨0, 0, 1⟩, ⟨0, 1, 1⟩, ⟨0, 2, 1⟩], [⟨0, 0, 1⟩, ⟨0, 1, 1⟩, ⟨0, 2, 1⟩]⟩

theorem witness_StackLines : ∀ l ∈ [(0 : BitVec 40), 0xBFFFFFFF], InDram (sDram true) l.toNat ∧ InDram (sDram false) l.toNat ∧
    InDram s0 l.toNat ∧ (s0.mem.side1 l.toNat).written = false ∧ (s0.mem.side1 l.toNat).owner ≠ 3 ∧
    ((sDram true).mem.side1 l.toNat).written = true ∧ ((sDram true).mem.side1 l.toNat).poison = false ∧
    ((sDram true).mem.side1 l.toNat).owner = 3 ∧ (sDram true).mem.tagOk l.toNat = true ∧
    (sDram false).mem.tagOk l.toNat = false ∧ (sDram false).mem.haltStage = 0 ∧
    (decodeBurst (((sDram true).mem.stk[lineStack l.toNat]).erasedAt (lineGroup l.toNat) (lineK l.toNat)) ruined.first).bad ≠
      none := by
  have hd : ∀ l ∈ [(0 : BitVec 40), 0xBFFFFFFF], l.toNat < 0xC0000000 ∧
      (s0.mem.side1 l.toNat).written = false ∧ (s0.mem.side1 l.toNat).owner ≠ 3 ∧
      ((sDram true).mem.side1 l.toNat).written = true ∧ ((sDram true).mem.side1 l.toNat).poison = false ∧
      ((sDram true).mem.side1 l.toNat).owner = 3 ∧ (sDram true).mem.tagOk l.toNat = true ∧
      (sDram false).mem.tagOk l.toNat = false ∧ (sDram false).mem.haltStage = 0 ∧
      (decodeBurst (((sDram true).mem.stk[lineStack l.toNat]).erasedAt (lineGroup l.toNat) (lineK l.toNat)) ruined.first).bad ≠
        none := each _ (by decide +kernel)
  intro l h
  exact ⟨inDram _ _ (hd l h).1, inDram _ _ (hd l h).1, inDram s0.mem.side _ (hd l h).1, (hd l h).2⟩

theorem witness_StackLines_undecodable : ∀ l ∈ [(0 : BitVec 40), 0xBFFFFFFF], Undecodable (sDram true) l.toNat ruined := by
  unfold Undecodable
  exact each _ (by decide +kernel)

/-- A partial write waits, to a line that was written or never was; the slices hold line 0x4000, clean or dirty. -/
def part0 : Partial := ⟨0xBFFFFFFF, [(255, 1)], 3, .engine⟩
def sPart (w : Bool) : State :=
  { s0 with mem := { s0.mem with side := if w then (sDram true).mem.side else [], parts := [part0] } }
def sSlice (dirty : Bool) : State :=
  { s0 with mem := { s0.mem with
      slice := (cacheFill 16 [] (sliceSet 0x4000) 0x4000 ⟨lineOfWords [5], 3, false, dirty⟩).1 } }

theorem witness_StackLines_slices : (∀ w : Bool, (sPart w).mem.parts = [part0] ∧
      ((sPart w).mem.side1 part0.line.toNat).written = w ∧ (sPart w).mem.sliceFind part0.line.toNat = none ∧
      (Tbl.get (CSet.empty 16) (sPart w).mem.slice (sliceSet part0.line.toNat)).ways.length = 16) ∧
    StackOn (sPart true) (lineStack 0xBFFFFFFF) ∧ (sPart true).mem.tagOk part0.line.toNat = true ∧
    ∀ d : Bool, Alive (sSlice d) ∧ (sSlice d).glob.meshRun = true ∧ (sSlice d).mem.sliceFind 0x4000 = some ⟨lineOfWords [5], 3, false, d⟩ :=
  ⟨by decide +kernel, ⟨rfl, by decide, rfl, by decide +kernel, by decide +kernel⟩, by decide +kernel,
    fun d => ⟨⟨rfl, Nat.zero_lt_two⟩, rfl, by cases d <;> rfl⟩⟩

/-- A partial write waits to a poisoned line of owner class 3. -/
def sPartPoison : State :=
  { s0 with mem := { s0.mem with
      side := [(0xBFFFFFFF, { written3 true 0xBFFFFFFF with poison := true })], parts := [part0] } }

theorem witness_StackLines_merges : sPartPoison.mem.parts = [part0] ∧
    (sPartPoison.mem.side1 part0.line.toNat).written = true ∧ (sPartPoison.mem.side1 part0.line.toNat).poison = true ∧
    (sPartPoison.mem.side1 part0.line.toNat).owner = part0.owner ∧ ((sPart true).mem.side1 part0.line.toNat).poison = false ∧
    ((sPart true).mem.side1 part0.line.toNat).owner = 3 ∧ (2 : BitVec 4) ≠ 3 ∧
    ((sPart true).mem.stk[lineStack part0.line.toNat]).erasedAt (lineGroup part0.line.toNat) (lineK part0.line.toNat) ≠ none ∧
    Undecodable (sPart true) part0.line.toNat ruined := by
  unfold Undecodable
  decide +kernel

/-- Controller 15 as given. -/
def sCtl (x : Stack) : State := { s0 with mem := { s0.mem with stk := s0.mem.stk.set 15 x } }

/-- Its dies are in service; group 1 has no spare left and group 2 is degraded. -/
def ctl : Stack :=
  { Stack.reset 15 with
    trained := true, groups := ((Vector.replicate 16 .fullSpare).set 1 .noSpare).set 2 (.degraded 4)
    spareLeft := 8, minBank := 8, repairQ := [] }

theorem on15 (x : Stack) (h : x.selfRefresh = false) : StackOn (sCtl x) 15 := ⟨rfl, Nat.zero_lt_two, rfl, rfl, h⟩

theorem none15 (x : Stack) (d : Nat) (h : ∀ e, e < 16 → x.dieDue e (sCtl x).tick = false) : NoneDue (sCtl x) 15 d :=
  fun e he _ => h e he

/-- The patrol stands before its last group, at the end of a line number and at its last line. -/
theorem witness_StackRepair_patrol :
    ∀ e ∈ [((14 : BitVec 4), (0 : BitVec 24)), (15, 12591102), (15, 12591103)],
      let x := { ctl with posGroup := e.1, posK := e.2 }
      StackOn (sCtl x) 15 ∧ x.trained = true ∧ x.filling = false ∧ x.consEn = true ∧
      x.erasedAt x.posGroup.toFin x.posK.toNat ≠ none ∧ ((sCtl x).mem.stk[(15 : Fin 16)]) = x := fun e h =>
  ⟨on15 _ rfl, rfl, rfl, rfl, (each _ (by decide +kernel) :
    ∀ e ∈ [((14 : BitVec 4), (0 : BitVec 24)), (15, 12591102), (15, 12591103)],
      ({ ctl with posGroup := e.1, posK := e.2 } : Stack).erasedAt e.1.toFin e.2.toNat ≠ none) e h, by simp [sCtl]⟩

/-- A row of die 15 at the threshold: the last row, bank and channel. -/
def ctlRow : Stack := { ctl with rowErrs := [(rowKey 15 11 31 12295, 8)] }
/-- The bank has no row left. -/
def ctlFull : Stack := { ctlRow with bankTaken := [(bankKey 15 11 31, 255)] }
/-- Group 3 rebuilds, before its last line and at it. -/
def ctlRebuild (n : Nat) : Stack := { ctl with groups := ctl.groups.set 3 (.remapped 9), rebuild := [(3, n)] }

/-- Which rows of a bank are free is `Config.bankFree`; no row is left of a bank whose rows are taken. -/
theorem witness_StackRepair : StackOn (sCtl ctlRow) 15 ∧
    ctlRow.rowThr.toNat ≤ Tbl.get 0 ctlRow.rowErrs (rowKey 15 11 31 12295) ∧ ctlRow.retired.getLsbD 15 = false ∧ ctlRow.repairQ.length < 16 ∧
    (∀ i < 8, (Config.bankFree 15 (bankKey 15 11 31)).getLsbD i = true → bankLeft 15 ctlRow (bankKey 15 11 31) ≠ []) ∧
    bankLeft 15 ctlFull (bankKey 15 11 31) = [] ∧
    (∀ n : Nat, StackOn (sCtl (ctlRebuild n)) 15 ∧ (ctlRebuild n).groups[(3 : Fin 16)] = .remapped 9) ∧
    pathOpen (sCtl ctl) .host ∧ pathOpen (sCtl ctl) .curator ∧ ctl.repairQ = [] ∧ NoneDue (sCtl ctl) 15 0 ∧
    NoneDue (sCtl { ctl with repairQ := [5] }) 15 16 ∧
    ({ ctl with retired := 0x8000 } : Stack).retired.getLsbD 15 = true ∧ s0.alm.repair.length < 131071 ∧ ctl.repRecorded = false ∧
    (131072 : Nat) ≤ (List.replicate 131072 (⟨0, 0, 0, 0, 0, 0⟩ : RepairRec)).length ∧ s0.mem.keyValid = true :=
  ⟨on15 _ rfl, by decide, by decide, by decide, fun i hi h => List.ne_nil_of_mem (a := i) (by
      simp only [bankLeft, List.mem_filter, List.mem_range, h]; exact ⟨hi, by simp [ctlRow, ctl, Stack.reset, Tbl.get]⟩), by simp [bankLeft, ctlFull, Tbl.get, List.range_succ, Nat.testBit], fun n => ⟨on15 _ rfl, by simp [ctlRebuild]⟩,
    open0 _ _ rfl rfl Nat.zero_lt_two rfl, open0 _ _ rfl rfl Nat.zero_lt_two rfl, rfl,
    none15 _ _ (by decide +kernel), none15 _ _ (by decide +kernel), by decide, by decide, rfl,
    (List.length_replicate ..).ge, rfl⟩

/-- Every core is GATED. -/
def sGated : State := run (Core.reset 0)

theorem witness_StackRepair_fill : pathOpen sGated .host ∧ (∀ c : Fin 96, (sGated.cores[c]).mode = .gated ∨ (sGated.cores[c]).mode = .retired) ∧
    sGated.noTransfers = true ∧ (s0.cores[(95 : Fin 96)]).mode = .active ∧
    StackOn (sCtl { ctl with filling := true }) 15 ∧ StackOn (sCtl { ctl with mapBusy := true }) 15 ∧ (0 : Fin 16) ≠ 15 :=
  ⟨open0 _ _ rfl rfl Nat.zero_lt_two rfl, by decide +kernel, by decide +kernel, by decide, on15 _ rfl, on15 _ rfl, by decide⟩

/-! ### Device halt -/

/-- A halt at each stage; the key test has failed. -/
def sKeyFail : State := { s0 with mem := { s0.mem with haltCause := 3, keyValid := false } }
def sHalt (n : Nat) : State := { s0 with mem := { s0.mem with haltStage := n } }

theorem witness_DeviceHalt : (∀ n : Nat, (sHalt n).sup.power = .running ∧ (sHalt n).mem.haltStage = n) ∧
    pathOpen (sHalt 0) .curator ∧ pathOpen (sHalt 6) .curator ∧ pathOpen (sHalt 1) .host ∧ 2 ≤ (sHalt 2).mem.haltStage ∧
    (sHalt 0).mem.haltCause ≠ 3 ∧ pathOpen sKeyFail .curator ∧ sKeyFail.mem.haltCause = 3 ∧
    (Instr.nop p0 ⟨0, 0, 0⟩).site = some p0 :=
  ⟨fun _ => ⟨rfl, rfl⟩, ⟨rfl, rfl, fun _ => rfl, nofun⟩, ⟨rfl, rfl, fun _ => rfl, nofun⟩,
    open0 _ _ rfl rfl (Nat.lt_succ_self 1) rfl, Nat.le_refl 2, by decide,
    ⟨rfl, rfl, fun _ => rfl, nofun⟩, rfl, rfl⟩

/-! ### Queues and commands -/

/-- What Taken asks, as a test. -/
def takenB (s : State) (q : BitVec 13) (x : QCmd) (e : List Word) : Bool :=
  s.sup.power == .running && decide (s.mem.haltStage < 2) && s.host.lock && !s.cur.deepIdle && s.glob.meshRun &&
    decide (Tbl.find? s.host.taken q.toNat = some x) && decide (Tbl.find? s.host.queues q.toNat = some e) &&
    decide (e.length = 16) && decide (qHead e = x.pos)

theorem taken_of {s : State} {q : BitVec 13} {x : QCmd} {e : List Word} (h : takenB s q x e = true) : Taken s q x e := by
  simp only [takenB, Bool.and_eq_true, decide_eq_true_eq, beq_iff_eq, Bool.not_eq_true'] at h
  exact ⟨⟨h.1.1.1.1.1.1.1.1, h.1.1.1.1.1.1.1.2, h.1.1.1.1.1.1.2, h.1.1.1.1.1.2, h.1.1.1.1.2⟩, h.1.1.1.2, h.1.1.2, h.1.2, h.2⟩

/-- A queue of context 1 for core c, its ring of 2^5 slots at DVA 0, at HEAD 0 of TAIL 1, READY. -/
def qent (c : Word) : List Word := [0x8040050000000000 ||| c <<< 47, 0, 1, 1] ++ List.replicate 12 0

/-- Queue 3 stands at a command in memory, or has taken it. -/
def sRing (ws : List Word) : State :=
  withLines { s0 with host := { s0.host with queues := [(3, qent 0)] } } [(0x4000, 3, ws)]
def cmd (kind low : Word) (ws : List Word) (g : CmdStage) : QCmd := ⟨(kind <<< 56 ||| low) :: ws, 0, g⟩
def sTaken (c : Word) (x : QCmd) : State :=
  { s0 with host := { s0.host with queues := [(3, qent c)], taken := [(3, x)] } }

theorem witness_HostQueues_doorbell : (sRing []).sup.power = .running ∧ (sRing []).mem.haltStage < 2 ∧
    (sRing []).cur.deepIdle = false ∧ (sRing []).glob.meshRun = true ∧ Tbl.find? (sRing []).host.queues 3 = some (qent 0) ∧ (qent 0).length = 16 ∧
    qValid (qent 0) = true ∧ ((32 : BitVec 32) - qHead (qent 0)).toNat ≤ 2 ^ qRlog (qent 0) ∧
    2 ^ qRlog (qent 0) < ((33 : BitVec 32) - qHead (qent 0)).toNat := by decide +kernel

/-- What a queue with this command in its ring finds. -/
def found (w : Word) : CmdRead × Option Nat :=
  let r := (sRing [w]).readCmd (qent 0)
  (r.2, (r.1.cmdRefusal 1 (w :: List.replicate 7 0)).2)

/-- NOP; a kind that does not exist; a command of context 0 in context 1; a completion fence that does not exist. -/
theorem witness_HostQueues_take : Processing (sRing [0]) ∧ qState (qent 0) = 1 ∧ qHead (qent 0) ≠ qTail (qent 0) ∧
    Tbl.find? (sRing [0]).host.taken 3 = none ∧ qCtx (qent 0) = 1 ∧ cmdFences (0 :: List.replicate 7 0) = [] ∧
    ∀ e ∈ [((0 : Word), none), (0xFF00000000000000, some 1), (0x1000000080000000, some 2), (0x0080060000000000, some 3)],
      found e.1 = (.words (e.1 :: List.replicate 7 0), e.2) :=
  ⟨⟨rfl, Nat.zero_lt_two, rfl, rfl, rfl⟩, by decide, by decide, by decide, by decide, by decide, each _ (by decide +kernel)⟩

/-- A ring of 2^16 slots at DVA 0: the header of a LAUNCH ends its one page; and a ring without a page. -/
def qentEnd : List Word := [0x8040100000000000, 0, 0x7FFF00008001, 1] ++ List.replicate 12 0
def qentAway : List Word := [0x8040050000000000, 0x200000, 1, 1] ++ List.replicate 12 0
def sRingBad (e : List Word) : State :=
  withLines { s0 with host := { s0.host with queues := [(3, e)] } } [(0x5FFF, 3, List.replicate 24 0 ++ [0x0180050003001400, 9])]

theorem witness_HostQueues_xlate :
    (∀ e ∈ [(qentEnd, 0x0180050003001400 :: 9 :: List.replicate 6 0), (qentAway, [])],
      Tbl.find? (sRingBad e.1).host.queues (3 : BitVec 13).toNat = some e.1 ∧ qValid e.1 = true ∧ qState e.1 = 1 ∧
      qHead e.1 ≠ qTail e.1 ∧ Tbl.find? (sRingBad e.1).host.taken (3 : BitVec 13).toNat = none ∧
      ((sRingBad e.1).readCmd e.1).2 = .bad e.2 ∧
      Tbl.find? ((sRingBad e.1).readCmd e.1).1.host.taken (3 : BitVec 13).toNat = none ∧
      Tbl.find? ((sRingBad e.1).readCmd e.1).1.host.queues (3 : BitVec 13).toNat = some e.1 ∧ e.1.length = 16) ∧
    ∀ e, Processing (sRingBad e) :=
  ⟨each _ (by decide +kernel), fun _ => ⟨rfl, Nat.zero_lt_two, rfl, rfl, rfl⟩⟩

/-- The entry of a fence that carries an error. -/
def fence5err : List Word := [7, 0x80080000C0000000, 0, 0]

/-- NOP and SIGNAL with the completion fence 5; WAIT for 7 and for 8 at fence 5, which holds 7. -/
theorem witness_HostQueues_run :
    (∀ k ∈ [(0 : Word), 3], takenB (sTaken 0 (cmd k 0x0080050000000000 [8] .fresh)) 3 (cmd k 0x0080050000000000 [8] .fresh) (qent 0)) ∧
    (∀ g ∈ [CmdStage.fresh, .waiting], takenB (sTaken 0 (cmd 4 0x14000000 [0, 7] g)) 3 (cmd 4 0x14000000 [0, 7] g) (qent 0)) ∧
    cmdWfence (cmd 4 0x14000000 [0, 7] .fresh).words = 5 ∧ Met 7 fence5 ∧ fError fence5 = false ∧ Met 7 fence5err ∧
    fError fence5err = true ∧ ¬ Met 8 fence5 :=
  ⟨each _ (by decide +kernel), each _ (by decide +kernel), by decide, .inl (by decide), by decide, .inl (by decide), by decide, by unfold Met; decide⟩

/-- A trapped and a running stream 0 of core 0 with the command; core 127 does not exist. -/
def sCmd (st : Stream) (x : QCmd) : State :=
  { sWith st with host := { s0.host with queues := [(3, qent 0)], taken := [(3, x)] } }

/-- Queue 3's core 0 is GATED, or serves context 2. -/
def sTakenOn (k : Core) (x : QCmd) : State :=
  { run k with host := { s0.host with queues := [(3, qent 0)], taken := [(3, x)] } }
def gated0 : Core := { (coreWith Stream.reset) with mode := .gated, ctx := none }
def other0 : Core := { (coreWith Stream.reset) with ctx := some 2 }

theorem witness_HostCommands_wait : (∀ k ∈ [(1 : Word), 2, 7], ∀ g ∈ [CmdStage.fresh, .waiting],
      takenB (sTakenOn gated0 (cmd k 0 [0, 0, 0] g)) 3 (cmd k 0 [0, 0, 0] g) (qent 0) = true ∧
      ((sTakenOn gated0 (cmd k 0 [0, 0, 0] g)).cores[(0 : Fin 96)]).mode = .gated ∧
      cmdKind (cmd k 0 [0, 0, 0] g).words = k.toNat ∧
      takenB (sTakenOn other0 (cmd k 0 [0, 0, 0] g)) 3 (cmd k 0 [0, 0, 0] g) (qent 0) = true ∧
      ((sTakenOn other0 (cmd k 0 [0, 0, 0] g)).cores[(0 : Fin 96)]).ctx = some 2) ∧ qCore (qent 0) = 0 ∧
    2 ≠ qCtx (qent 0) :=
  ⟨each _ (by decide +kernel), by decide, by decide⟩

theorem witness_HostCommands :
    (∀ g ∈ [CmdStage.fresh, .waiting], takenB (sTaken 0 (cmd 2 0 [0, 0x100, 0, 0x100] g)) 3 (cmd 2 0 [0, 0x100, 0, 0x100] g) (qent 0)) ∧
    coreRuns (sTaken 0 (cmd 2 0 [0, 0x100, 0, 0x100] .fresh)) 0 ∧ qCore (qent 0) = 0 ∧ qCtx (qent 0) = 1 :=
  ⟨each _ (by decide +kernel), ⟨⟨rfl, Nat.zero_lt_two⟩, by decide, by decide⟩, by decide, by decide⟩

theorem witness_HostCommands_streams : (∀ k ∈ [(5 : Word), 6], ∀ st ∈ [{ st0 with mode := .trapped, trap := some trap0 }, st0,
      Stream.reset], takenB (sCmd st (cmd k 0x40000000 [0, 0x8000] .fresh)) 3 (cmd k 0x40000000 [0, 0x8000] .fresh) (qent 0)) ∧
    cmdCore (cmd 5 0x40000000 [0, 0x8000] .fresh).words = 0 ∧ cmdStream (cmd 5 0x40000000 [0, 0x8000] .fresh).words = 0 :=
  ⟨each _ (by decide +kernel), by decide, by decide⟩

/-- The record of QUERY is written at DVA 0. -/
def xQuery : QCmd := cmd 7 0 [0, 0] .fresh
def sQuery : State := withLines (sTaken 0 xQuery) [(0x4000, 3, [])]

theorem witness_HostCommands_query : takenB sQuery 3 xQuery (qent 0) = true ∧
    (let r := sQuery.queryRecord 1 xQuery
     let w := r.1.blockWrite .engine 1 0 (wordBytes r.2)
     w.2.isOk = true ∧ takenB w.1 3 xQuery (qent 0) = true) := by decide +kernel

/-- Leaf 0 of context 1 is valid and leaf 1 is not. -/
def sLeaf (x : QCmd) : State := withLines (sTaken 0 x) []
def mapTo : Word := 0x60030F

theorem witness_HostTables_leaf : (∀ e ∈ [((0x10 : Word), (0x200000 : Word), (0 : Word)), (0x10, 0, 0x40030F), (0x11, 0, 0x40030F),
      (0x12, 0, 0x40030F), (0x11, 0x200000, 0), (0x12, 0x200000, 0)],
      let x := cmd e.1 0x80000000 [0, e.2.1, mapTo] .fresh
      let r := (sLeaf x).leafPlace 1 e.2.1.toNat
      let v := r.1.readTable (r.2.getD 0)
      r.2.isSome = true ∧ v.2 = some e.2.2 ∧ v.1.isFinal 1 = false ∧ takenB (sLeaf x) 3 x (qent 0) = true ∧
      takenB v.1 3 x (qent 0) = true ∧ leafForm mapTo = true) ∧
    cmdContext (cmd 0x10 0x80000000 [0, 0, mapTo] .fresh).words = 1 := ⟨each _ (by decide +kernel), by decide⟩

/-- A sync of fence 6, which does not exist, and one of fence 5, which a device still refers to. -/
def fence5ref : List Word := [7, 0x8008000080000001, 0, 0]
def xSync (i : Word) : QCmd := cmd 0x13 (2 <<< 38 ||| i <<< 24) [0, 0] .fresh
def sSyncF (i : Word) : State := { (sTaken 0 (xSync i)) with host := { (sTaken 0 (xSync i)).host with fences := [(5, fence5ref)] } }

theorem witness_HostTables_sync : (∀ i ∈ [(5 : Word), 6], takenB (sSyncF i) 3 (xSync i) (qent 0) = true ∧
      takenB ((sSyncF i).syncRefusal 2 [i.toNat]).1 3 (xSync i) (qent 0) = true ∧ syncRange (xSync i).words = [i.toNat]) ∧
    ((sSyncF 6).syncRefusal 2 [6]).2 = none ∧ ((sSyncF 5).syncRefusal 2 [5]).2 = some 0x0A ∧
    takenB ([6].foldl (fun s i => s.syncOne 2 i) ((sSyncF 6).syncRefusal 2 [6]).1) 3 (xSync 6) (qent 0) = true :=
  ⟨each _ (by decide +kernel), by decide +kernel, by decide +kernel, by decide +kernel⟩

theorem witness_HostTables_entries : Tbl.find? (sTaken 0 xQuery).host.ctxs 1 = some ctx1 ∧
    Tbl.find? (sTaken 0 xQuery).host.queues 3 = some (qent 0) ∧ Tbl.find? (sTaken 0 xQuery).host.fences 5 = some fence5 ∧
    pathOpen s0 .curator ∧ pathOpen s0 .host :=
  ⟨by decide, by decide +kernel, by decide, open0 _ _ rfl rfl Nat.zero_lt_two rfl, open0 _ _ rfl rfl Nat.zero_lt_two rfl⟩

/-- Signals of 8, of the farthest value forward, and of 6 to fence 5, which holds 7; and one to a fence that is not LIVE. -/
def sig (v : Word) : FenceSig := ⟨5, v, false, .command⟩
def sSig (v : Word) (e : List Word) : State := { s0 with host := { s0.host with inbox := [sig v], fences := [(5, e)] } }

theorem witness_HostTables_signals : (∀ v ∈ [(8 : Word), 0x8000000000000007, 6], (sSig v fence5).host.inbox = [sig v] ∧
      Tbl.find? (sSig v fence5).host.fences 5 = some fence5) ∧ fLive fence5 = true ∧ fLive [7, 0x8008000000000000, 0, 0] = false ∧
    fence5.length = 4 ∧ ((0x8000000000000007 : Word) - fValue fence5).toNat ≤ 2 ^ 63 ∧
    2 ^ 63 < ((6 : Word) - fValue fence5).toNat :=
  ⟨each _ (by decide +kernel), by decide, by decide, by decide, by decide, by decide⟩

/-- CONTEXT_DESTROY of context 1, LIVE, and of context 2, DEAD; and the end of the first on idle cores, with fence 5 LIVE. -/
def xDestroy (c : Word) (g : CmdStage) : QCmd := cmd 0x14 (c <<< 31) [] g
def ctx2 : List Word := ctx1.set 6 3
def sDestroy (st : Stream) (x : QCmd) : State :=
  { sWith st with host := { s0.host with
      queues := [(3, qent 0)], taken := [(3, x)], ctxs := [(1, ctx1), (2, ctx2)], flive := [(5, true)] } }

theorem witness_HostTables_destroy : takenB (sDestroy st0 (xDestroy 1 .fresh)) 3 (xDestroy 1 .fresh) (qent 0) = true ∧
    ctxState ctx1 = 1 ∧ takenB (sDestroy st0 (xDestroy 2 .fresh)) 3 (xDestroy 2 .fresh) (qent 0) = true ∧ ctxState ctx2 ≠ 1 ∧
    takenB (sDestroy Stream.reset (xDestroy 1 .running)) 3 (xDestroy 1 .running) (qent 0) = true ∧
    cmdCfen (xDestroy 1 .running).words = false ∧
    (sDestroy Stream.reset (xDestroy 1 .running)).host.flive.map Prod.fst = [((5 : BitVec 14), fence5)].map (fun f => f.1.toNat) ∧
    ([((5 : BitVec 14), fence5)].map Prod.fst).Nodup ∧
    Tbl.find? (sDestroy Stream.reset (xDestroy 1 .running)).host.fences 5 = some fence5 ∧ fence5.length = 4 ∧
    fLive fence5 = true ∧ fMirror fence5 = false ∧ 5 ∉ (sDestroy Stream.reset (xDestroy 1 .running)).host.mirrors ∧
    (sDestroy Stream.reset (xDestroy 1 .running)).quiet 1 = true ∧ ctx1.length = 32 := by decide +kernel

/-! ### Fabric ports and queue pairs -/

/-- Every path as given. -/
def pathAs (m : PathMode) : Path := ⟨m, 0, 0, 0, 0, none, none, none⟩
def sPaths (m : PathMode) : State := { s0 with fab := { s0.fab with paths := Vector.replicate 16 (pathAs m) } }
def sUp : State := sPaths .up
/-- Only path 15 is UP; and every port takes pauses. -/
def sLast : State := { s0 with fab := { s0.fab with paths := s0.fab.paths.set 15 (pathAs .up) } }
def sPfc : State := { sUp with fab := { sUp.fab with ports := Vector.replicate 8 { Port.reset with ctl := 0x8000000001 } } }

theorem fabOn (s : State) (h : s.sup.power = .running) (hm : s.mem.haltStage = 0) (hd : s.cur.deepIdle = false) : FabOn s :=
  ⟨h, by omega, hd⟩

/-- Port 7 is split; and a pause of every priority holds its frames. -/
def sSplit : State := { s0 with fab := { s0.fab with ports := s0.fab.ports.set 7 { Port.reset with ctl := 3 } } }
def sPaused : State := { sPfc with fab := { sPfc.fab with ports := Vector.replicate 8 { Port.reset with ctl := 0x18000000001, paused := 0xFF } } }

theorem witness_FabricPorts_more : sSplit.fab.splitNow 7 = true ∧ pathIs sSplit (pathOf 7 true) = .down ∧
    (sSplit.fab.ports[(7 : Fin 8)]).ctl.getLsbD 0 = true ∧ FrameBad.fec 3 1 ≠ .managementOther ∧ 0 < 1 ∧ FrameBad.fec 3 0 ≠ .managementOther ∧
    (∀ good bad : Nat, FrameBad.checksum ≠ .fec good bad) ∧ ownAddr sPfc 7 = (false, 0) ∧ ownAddr sPfc 7 ≠ (true, 0) ∧
    sPfc.fab.held (2 * 7) = false ∧ FabOn sPaused ∧ pathIs sPaused (pathOf 7 false) ≠ .down ∧
    ownAddr sPaused 7 = (false, 0) ∧ sPaused.fab.held (2 * 7) = true :=
  ⟨by decide +kernel, by unfold pathIs; decide +kernel, by decide, nofun, Nat.one_pos, nofun, nofun, by decide +kernel, by decide +kernel, by decide +kernel,
    fabOn _ rfl rfl rfl, by unfold pathIs; decide +kernel, by decide +kernel, by decide +kernel⟩

theorem witness_FabricPorts : FabOn s0 ∧ (s0.fab.ports[(7 : Fin 8)]).ctl.getLsbD 0 = true ∧ pathIs s0 (pathOf 7 false) = .down ∧
    pathIs sLast (pathOf 7 true) = .up ∧
    (∀ n : Fin 16, n ≠ pathOf 7 true → n.val / 8 = (7 : Fin 8).val / 4 → pathIs sLast n ≠ .up) ∧
    FabOn sPfc ∧ pathIs sPfc (pathOf 7 false) ≠ .down ∧ FrameBad.fragment ≠ .managementOther ∧
    (sPfc.fab.ports[(7 : Fin 8)]).ctl.getLsbD 39 = true ∧ (sUp.fab.ports[(7 : Fin 8)]).ctl.getLsbD 39 = false :=
  ⟨fabOn _ rfl rfl rfl, by decide, by unfold pathIs; decide, by unfold pathIs; decide, by unfold pathIs; decide,
    fabOn _ rfl rfl rfl, by unfold pathIs; decide, by decide, by decide, by decide⟩

/-- The entry of queue pair 9: context 1, RETRY 2, memory key 5, a ring of 8 slots at DVA 0, READY. -/
def qpE : List Word :=
  [0x8040200000000000, 0, 0, 0, 0x500000000, 3, 5, 1] ++ List.replicate 8 0
def qp9 : Qp :=
  { entry := qpE, spsn := 5, rpsn := 7, msn := 0, out := [], retries := 0, rate := 1, lastCut := none, quiet := none, lastCnp := none,
    ceSeen := true }
def sQp (q : Qp) (rs : List Req) : State := { sUp with fab := { sUp.fab with qps := [(9, q)], reqs := rs } }

/-- What a PORT instruction reads as its descriptor at DVA 0. -/
def portDesc (s : State) (m : Master) : State × List Word :=
  let r := s.blockRead m 1 0 64
  (r.1, leWords 8 (r.2.toOption.getD []))

/-- Its registers: descriptor s0, fence 5, value s8. -/
def port0 : LayP := ⟨0, 5, false, 0, 8⟩

theorem reg0 : (regOf s0 p0 0).toNat % 2 ^ 48 / 64 * 64 = 0 := by decide

theorem ready_of (m : Master) (i : Instr) (s : State) (hp : presents p0 i s = true)
    (hd : (s.cores[p0.core]).anyPending p0.stream (streamOf s p0).seqNo = false) (hc : (s.cores[p0.core]).ctx = some 1)
    (hx : Tbl.find? s.host.ctxs 1 = some ctx1) (hf : Tbl.find? s.host.fences 5 = some fence5)
    (ha : (regOf s p0 0).toNat % 2 ^ 48 / 64 * 64 = 0) (hb : (s.blockRead m 1 0 64).2.isOk = true) :
    PortReady m p0 port0 i s (portDesc s m).1 5 1 (portDesc s m).2 := by
  obtain ⟨s', bs, h⟩ := ok_of hb
  refine ⟨presents_of hp, hd, rfl, ⟨ctx1, fence5, ⟨hc, hx, hf⟩, right5.1⟩, bs, ?_, ?_⟩
  · show s.blockRead m 1 ((regOf s p0 0).toNat % 2 ^ 48 / 64 * 64) 64 = _
    rw [ha]
    unfold portDesc
    rw [h]
  · unfold portDesc
    rw [h]
    rfl

/-- The descriptor of an NSEND of n bytes by queue pair 9 lies at DVA 0; the queue pair is context 1's or another's. -/
def sNsend (n : Word) (e : List Word) : State :=
  withLines (sQp { qp9 with entry := e } []) [(0x4000, 3, [0x0090000000000000 ||| n])]
def qpOther : List Word := qpE.set 0 0x8080200000000000

theorem witness_QueuePairsSend_nsend : (∀ x ∈ [((0x80000000 : Word), qpE), (0x80000001, qpE), (8, qpOther)],
      PortReady .fabric p0 port0 (.nsend p0 port0) (sNsend x.1 x.2) (portDesc (sNsend x.1 x.2) .fabric).1 5 1
        (portDesc (sNsend x.1 x.2) .fabric).2 ∧ nsendFormat (portDesc (sNsend x.1 x.2) .fabric).2 = true ∧
      (portDesc (sNsend x.1 x.2) .fabric).2 = (0x0090000000000000 ||| x.1) :: List.replicate 7 0 ∧
      (portDesc (sNsend x.1 x.2) .fabric).1.qp 9 = { qp9 with entry := x.2 }) ∧
    qp9.ctx = 1 ∧ nfld (ew qpE 7) 0 2 = 1 ∧ ({ qp9 with entry := qpOther } : Qp).ctx ≠ 1 := by
  refine ⟨fun x h => ⟨?_, ?_⟩, by decide, by decide, by decide⟩
  · have := (each _ (by decide +kernel) : ∀ x ∈ [((0x80000000 : Word), qpE), (0x80000001, qpE), (8, qpOther)],
      presents p0 (.nsend p0 port0) (sNsend x.1 x.2) = true ∧
      ((sNsend x.1 x.2).cores[p0.core]).anyPending p0.stream (streamOf (sNsend x.1 x.2) p0).seqNo = false ∧
      ((sNsend x.1 x.2).blockRead .fabric 1 0 64).2.isOk = true) x h
    exact ready_of _ _ _ this.1 this.2.1 rfl rfl rfl reg0 this.2.2
  · exact (each _ (by decide +kernel) : ∀ x ∈ [((0x80000000 : Word), qpE), (0x80000001, qpE), (8, qpOther)],
      nsendFormat (portDesc (sNsend x.1 x.2) .fabric).2 = true ∧
      (portDesc (sNsend x.1 x.2) .fabric).2 = (0x0090000000000000 ||| x.1) :: List.replicate 7 0 ∧
      (portDesc (sNsend x.1 x.2) .fabric).1.qp 9 = { qp9 with entry := x.2 }) x h

/-- A request of the program whose packets are all done. -/
def reqDone (k : ReqKind) : Req := { reqNone with id := 4, kind := k, by' := .program, total := 2, done := 2, fence := 5 }
/-- An NSEND of 4,097 bytes with its second packet left. -/
def reqSend : Req :=
  { reqNone with
    kind := .nsend 9, by' := .program, ctx := 1, len := 4097, bytes := some (List.replicate 4097 1), total := 2, queued := 1 }

/-- The entry of queue pair 10 stands in the catalogue. -/
def sQpLoad : State := withLines (sQp qp9 [reqSend]) [(5, 0, qpE)]

theorem witness_QueuePairsSend_load : pathOpen sQpLoad .host ∧ (sQpLoad.readEntry sQpLoad.fab.qpbase 16 10).2 = qpE ∧
    qpE.length = 16 ∧ (∀ r ∈ sQpLoad.fab.reqs, r.qp? = some 10 → r.by' ≠ .drain) :=
  ⟨open0 _ _ rfl rfl Nat.zero_lt_two rfl, by decide +kernel, by decide, by decide +kernel⟩

/-- An NPUT with a remote fence, whose SIGNAL is acknowledged. -/
def reqSignalled : Req := { reqDone (.nput 0 (some (5, 9))) with signalAcked := true }

theorem witness_QueuePairsSend_signal : (sQp qp9 [reqSignalled]).fab.reqs.find? (fun x => x.id == 4) = some reqSignalled ∧
    reqSignalled.done = reqSignalled.total ∧ reqSignalled.signalAcked = true ∧ reqSignalled.by' = .program := by decide +kernel

theorem witness_QueuePairsSend_requests : pathOpen (sQp qp9 []) .host ∧
    (∀ k ∈ [ReqKind.nput 0 none, .nget 0, .nsend 9], FabOn (sQp qp9 [reqDone k]) ∧
      (sQp qp9 [reqDone k]).fab.reqs.find? (fun x => x.id == 4) = some (reqDone k) ∧ (reqDone k).done = (reqDone k).total) ∧
    FabOn (sQp qp9 [reqSend]) ∧ (sQp qp9 [reqSend]).qp 9 = qp9 ∧ nfld (ew qp9.entry 7) 0 2 = 1 ∧
    (sQp qp9 [reqSend]).fab.qpPath qp9 = some 0 ∧ (sQp qp9 [reqSend]).fab.held 0 = false ∧ reqSend.queued < reqSend.total ∧
    ((sQp qp9 [reqSend]).reqChunk reqSend (4096 * 1) (Min.min 4096 (4097 - 4096 * 1))).2.toOption = some [1] :=
  ⟨open0 _ _ rfl rfl Nat.zero_lt_two rfl, fun k h => ⟨fabOn _ rfl rfl rfl,
      (each _ (by decide +kernel) : ∀ k ∈ [ReqKind.nput 0 none, .nget 0, .nsend 9],
        (sQp qp9 [reqDone k]).fab.reqs.find? (fun x => x.id == 4) = some (reqDone k) ∧ (reqDone k).done = (reqDone k).total) k h⟩,
    fabOn _ rfl rfl rfl, by decide +kernel, by decide, by decide +kernel, by decide +kernel, by decide, by decide +kernel⟩

/-- Queue pair 9 has sent a packet or is to send it again; after so many retries, and below the full rate. -/
def qpPkt (sent : Bool) : QpReq :=
  { psn := 4, op := .send, data := [1], first := true, last := true, total := 1, req := none, sent := sent, at' := 0 }
def qpOut (n : Nat) : Qp := { qp9 with out := [qpPkt true], retries := n, rate := 15 / 16 }
def qpAgain : Qp := { qp9 with out := [qpPkt false] }
/-- The last tick before the timeout, and the timeout. -/
def sQpOut (n : Nat) : State :=
  { sQp (qpOut n) [] with glob := { s0.glob with tick := 103 } }
/-- Fence 5 is mirrored over queue pair 9, with a link and without. -/
def sMirror (m : PathMode) : State :=
  { (sPaths m) with
    fab := { (sPaths m).fab with qps := [(9, qp9)] }
    host := { s0.host with mirrors := [5], fences := [(5, [7, 0x9008000080000000, 0x1000, 0x900000009])] } }

theorem witness_QueuePairsSend_again : FabOn (sQp qpAgain []) ∧ (sQp qpAgain []).qp 9 = qpAgain ∧
    nfld (ew qpAgain.entry 7) 0 2 = 1 ∧ (sQp qpAgain []).fab.qpPath qpAgain = some 0 ∧ (sQp qpAgain []).fab.held 0 = false ∧
    qpAgain.out = [qpPkt false] ∧ (qpPkt false).sent = false :=
  ⟨fabOn _ rfl rfl rfl, by decide +kernel, by decide, by decide +kernel, by decide +kernel, rfl, rfl⟩

theorem witness_QueuePairsSend_out : (∀ n ∈ [1, 2], FabOn (sQpOut n) ∧ (sQpOut n).qp 9 = qpOut n ∧
      nfld (ew (qpOut n).entry 7) 0 2 = 1) ∧ nfld (ew qpE 0) 44 3 = 2 ∧ qpE.length = 16 ∧ (qpOut 1).rate < 1 ∧
    1024 * 2 ^ nfld (ew qpE 0) 40 4 ≤ 10 * ((sQpOut 1).glob.tick - 0).toNat ∧ (qpOut 1).quiet = none ∧ (qpOut 1).lastCnp = none ∧
    (sQp (qpOut 1) []).fab.held 0 = false ∧
    (sQp (qpOut 1) []).fab.qpPath (qpOut 1) = some 0 ∧ (qpOut 1).ceSeen = true ∧
    (∀ m ∈ [PathMode.up, .down], FabOn (sMirror m) ∧ 5 ∈ (sMirror m).host.mirrors ∧ (sMirror m).host.leaving = []) ∧
    (sMirror .up).fab.qpPath ((sMirror .up).qp 9) = some 0 ∧ (sMirror .down).fab.qpPath ((sMirror .down).qp 9) = none ∧
    (sMirror .up).qp 9 = qp9 ∧ fMqp [7, 0x9008000080000000, 0x1000, 0x900000009] = 9 :=
  ⟨fun n h => ⟨fabOn _ rfl rfl rfl, (by decide +kernel : ∀ n ∈ [1, 2], (sQpOut n).qp 9 = qpOut n ∧
      nfld (ew (qpOut n).entry 7) 0 2 = 1) n h⟩, by decide, by decide, by decide +kernel, by decide +kernel, rfl, rfl, by decide +kernel, by decide +kernel, by decide,
    fun m _ => ⟨fabOn _ rfl rfl rfl, List.mem_singleton.mpr rfl, rfl⟩, by decide +kernel, by decide +kernel, by decide +kernel, by decide⟩

def in9 : RoceIn := ⟨0, 9, 7, false⟩

/-- The queue pair was cut 1,249 ticks ago. -/
def qpCut : Qp := { qp9 with lastCut := some 0 }
def sQpCut : State := { sQp qpCut [] with glob := { s0.glob with tick := 1249 } }

theorem witness_QueuePairsReceive_cut : RoceArrives sQpCut in9 qpCut ∧ qpCut.lastCut = some 0 ∧
    (sQpCut.glob.tick - 0).toNat < 1250 ∧ (sQp qp9 []).glob.meshRun = true ∧
    Replies (sQp qp9 []) qp9 0 ∧ 4096 < (List.replicate 4097 (0 : Byte)).length :=
  ⟨⟨fabOn _ rfl rfl rfl, rfl, by unfold pathIs; decide, by decide +kernel, by decide, rfl⟩, rfl, by decide,
    rfl, ⟨by decide +kernel, by decide +kernel⟩, by rw [List.length_replicate]; decide⟩

/-- The memory of context 1 behind queue pair 9. -/
def sQpMem : State := withLines (sQp qp9 []) [(0x4000, 3, [5])]

theorem witness_QueuePairsReceive : (FabOn sUp ∧ pathIs sUp in9.path ≠ .down ∧ nfld (ew (sUp.qp in9.qp).entry 7) 0 2 ≠ 1) ∧
    RoceArrives sQpMem in9 qp9 ∧ in9.psn = qp9.rpsn ∧ (qp9.rqprod - qp9.rqcons).toNat < qp9.rqSlots ∧
    Replies sQpMem qp9 0 ∧ qp9.entry.length = 16 ∧ packets [1, 2].length = 1 ∧ qp9.ctx = 1 ∧ qp9.mkey = 5 ∧ qp9.lastCut = none ∧
    ((sQpMem.rxOn 0).blockWrite .fabric 1 0 [1, 2]).2.isOk = true ∧
    (((sQpMem.rxOn 0).rxMore in9 1).blockWrite .fabric 1 0 [1, 2]).2.isOk = true ∧ ((sQpMem.rxOn 0).blockRead .fabric 1 0 8).2.isOk = true ∧
    RoceArrives (sQp (qpOut 1) []) { in9 with psn := 4 } (qpOut 1) :=
  ⟨⟨fabOn _ rfl rfl rfl, by unfold pathIs; decide, by decide⟩,
    ⟨fabOn _ rfl rfl rfl, rfl, by unfold pathIs; decide, by decide +kernel, by decide, rfl⟩, by decide, by decide,
    ⟨by decide +kernel, by decide +kernel⟩, by decide, by decide, by decide, by decide, by decide, by decide +kernel, by decide +kernel,
    by decide +kernel, ⟨fabOn _ rfl rfl rfl, rfl, by unfold pathIs; decide, by decide +kernel, by decide, rfl⟩⟩

/-! ### NCT sessions -/

/-- Session 2: context 1, generation 1, peer 0, key 5 in slot 0, a window over DVA 0 to 0x1FFFFF for reads and writes. -/
def sess2 (m : SessMode) : Sess :=
  { Sess.reset with cfg := 0x8008000800000000, mode := m, key0 := some 5, w := 2560, win := 0x0013000000000000 }

/-- Session 2 as given over UP paths; peer 0 has an address on each plane, and DVA 0 holds these words. -/
def sSess (x : Sess) (rs : List Req) (ws : List Word) : State :=
  withLines { sUp with fab := { sUp.fab with sess := [(2, x)], reqs := rs } }
    [(0, 0, [1, 2, 3, 4, 0x8000000000000000]), (0x4000, 3, ws)]

theorem sSess_host (x : Sess) (rs : List Req) (ws : List Word) : (sSess x rs ws).host = s0.host := rfl
theorem sSess_cores (x : Sess) (rs : List Req) (ws : List Word) : (sSess x rs ws).cores = s0.cores := rfl

/-- The address of peer 0 on plane A, as the table has it. -/
def peerA (x : Sess) (rs : List Req) : BitVec 128 := (((sSess x rs []).tableAddr .fabric 0 0 0).2.1).getD 0

theorem sends_of (x : Sess) (rs : List Req) (hs : x.mode = .connecting ∨ x.mode = .up)
    (h : (decide (((sSess x rs []).sess 2) = x) && decide (x.key x.txSlot = some 5) && decide (x.sentIn x.txSlot < 2 ^ 40) &&
      !(sSess x rs []).fab.held 0 && decide (x.peer = 0) && (((sSess x rs []).tableAddr .fabric 0 0 0).2.1).isSome) = true) :
    ∃ s', Sends (sSess x rs []) s' 2 5 0 (peerA x rs) := by
  simp only [Bool.and_eq_true, decide_eq_true_eq, Bool.not_eq_true', Option.isSome_iff_exists] at h
  obtain ⟨⟨⟨⟨⟨he, hk⟩, hf⟩, hh⟩, hp⟩, a, ha⟩ := h
  refine ⟨((sSess x rs []).tableAddr .fabric 0 0 0).1, fabOn _ rfl rfl rfl, by rw [he]; exact hs, by rw [he]; exact hk,
    by rw [he]; exact hf, hh, ((sSess x rs []).tableAddr .fabric 0 0 0).2.2, ?_⟩
  rw [he, hp]
  change (sSess x rs []).tableAddr .fabric 0 0 0 = (_, some (peerA x rs), _)
  rw [peerA, ha]
  exact Prod.ext rfl (Prod.ext ha rfl)

/-- An NPUT of three bytes over session 2, and a PROBE sent on plane B a whole RTO ago. -/
def reqPut : Req := { reqNone with kind := .nput 2 none, by' := .program, ctx := 1, len := 3, bytes := some [1, 2, 3], total := 1 }
def pkt (typ : BitVec 4) (a : Addr) (bs : List Byte) : NctPkt :=
  { ver := 1, typ := typ, kepoch := false, role := false, port := 0, pgen := 1, dsess := 2, psn := 0, ce := 0, msgid := 3,
    addr := a, mpkts := 1, cum := 1, newc := 0, sack := 0, code := 1, payload := bs, tag := [] }
def late0 : Sent := { p := pkt 4 0 [], req := none, lost := false, retx := false, path := 8, at' := 0 - 2500, higher := 0 }
def sessAck : Sess := { (sess2 .up) with unacked := 1, ackSince := 0 - 50 }

theorem witness_SessionsSend :
    (∃ s', Sends (sSess (sess2 .up) [reqPut] []) s' 2 5 0 (peerA (sess2 .up) [reqPut])) ∧
    (∃ s', Sends (sSess (sess2 .connecting) [] []) s' 2 5 0 (peerA (sess2 .connecting) [])) ∧
    (∃ s', Sends (sSess sessAck [] []) s' 2 5 0 (peerA sessAck [])) ∧
    ∃ s', Sends (sSess { (sess2 .up) with out := [late0] } [] []) s' 2 5 0 (peerA { (sess2 .up) with out := [late0] } []) :=
  ⟨sends_of _ _ (.inr rfl) (by decide +kernel), sends_of _ _ (.inl rfl) (by decide +kernel),
    sends_of _ _ (.inr rfl) (by decide +kernel), sends_of _ _ (.inr rfl) (by decide +kernel)⟩

theorem witness_SessionsSend_more : (sSess (sess2 .up) [reqPut] []).fab.nextPath none = some 0 ∧ (sess2 .up).out = [] ∧
    (sess2 .up).refused = [] ∧ 512 ≤ (sess2 .up).w ∧ (sSess (sess2 .up) [reqPut] []).fab.reqs = reqPut :: [] ∧
    reqPut.kind = .nput 2 none ∧ reqPut.queued < reqPut.total ∧
    (let r := (sSess (sess2 .up) [reqPut] []).reqChunk reqPut (nctPart 0 3 0).1 (nctPart 0 3 0).2
     r.2.toOption = some [1, 2, 3] ∧
      (r.1.tableAddr .fabric 0 0 0).2.1 = some (peerA (sess2 .up) [reqPut])) ∧
    (sSess (sess2 .connecting) [] []).fab.nextPath none = some 0 ∧
    (sSess sessAck [] []).fab.nextPath none = some 0 ∧
    (sess2 .connecting).inFlight + 1 < (sess2 .connecting).w / 256 ∧ (sess2 .connecting).probeAt = none ∧
    (sUp.fab.paths[(0 : Fin 16)]).probeAt = none ∧ 0 < sessAck.unacked ∧ 50 ≤ (s0.glob.tick - sessAck.ackSince).toNat ∧
    (sSess { (sess2 .up) with out := [late0] } [] []).fab.nextPath (some (late0.path / 8)) = some 0 ∧
    s0.fab.rto ≤ (s0.glob.tick - late0.at').toNat ∧ late0.lost = false :=
  ⟨by decide +kernel, by decide, by decide, by decide, by decide +kernel, by decide, by decide, by decide +kernel,
    by decide +kernel, by decide +kernel, by decide,
    by decide, by decide +kernel, by decide, by decide, by decide +kernel, by decide, by decide⟩

/-- A descriptor of session 2 and three bytes lies at DVA 0. -/
def nctDesc : List Word := [0x0080000000000003, 0, 0, 0, 0, 0, 0, 0]

theorem witness_Sessions_put : ∀ put : Bool, ∀ x ∈ [sess2 .up, sess2 .lost, { (sess2 .up) with cfg := 0x8010000800000000 }],
    let ins : Instr := if put = true then .nput p0 port0 else .nget p0 port0
    let d := portDesc (sSess x [] nctDesc) .fabric
    PortReady .fabric p0 port0 ins (sSess x [] nctDesc) d.1 5 1 d.2 ∧ nctFormat put d.2 = true ∧ d.2 = nctDesc ∧
      d.1.sess 2 = x := by
  intro put x h
  have := (fun put => each _ (by cases put <;> decide +kernel) : ∀ put : Bool, ∀ x ∈ [sess2 .up, sess2 .lost, { (sess2 .up) with cfg := 0x8010000800000000 }],
    presents p0 (if put = true then .nput p0 port0 else .nget p0 port0) (sSess x [] nctDesc) = true ∧
    ((sSess x [] nctDesc).cores[p0.core]).anyPending p0.stream (streamOf (sSess x [] nctDesc) p0).seqNo = false ∧
    ((sSess x [] nctDesc).blockRead .fabric 1 0 64).2.isOk = true ∧
    nctFormat put (portDesc (sSess x [] nctDesc) .fabric).2 = true ∧ (portDesc (sSess x [] nctDesc) .fabric).2 = nctDesc ∧
    (portDesc (sSess x [] nctDesc) .fabric).1.sess 2 = x) put x h
  exact ⟨ready_of _ _ _ this.1 this.2.1 (by rw [sSess_cores]; rfl) (by rw [sSess_host]; rfl) (by rw [sSess_host]; rfl)
    (by have h := reg0; unfold regOf at h ⊢; rwa [sSess_cores]) this.2.2.1, this.2.2.2⟩

/-- Session 2 has both slots. -/
def sess2keys : Sess := { (sess2 .up) with key1 := some 6 }
/-- Session 2 has heard nothing for DEAD. -/
def sessSilent : Sess := { (sess2 .up) with heard := 0 - 25000000 }
/-- Path 3's packets have waited for 4 × RTO, and path 4 has an ACK of this tick. -/
def sSuspect : State :=
  { sUp with
    fab := { sUp.fab with
      paths := ((Vector.replicate 16 (pathAs .up)).set 3 { (pathAs .up) with since := some (0 - 10000) }).set 4
        { (pathAs .up) with ackAt := some 0 } } }

theorem witness_Sessions : pathOpen (sSess sess2keys [] []) .host ∧ (s0.sess 2).mode = .off ∧
    ((sSess sess2keys [] []).sess 2) = sess2keys ∧ (sess2keys.key (!sess2keys.txSlot)).isSome = true ∧
    (sess2 .up).ctx = 1 ∧ ({ (sess2 .up) with cfg := 0x8010000800000000 } : Sess).ctx ≠ 1 ∧
    (0x8000000000000000 : Word).getLsbD 63 = true ∧ (sSess sess2keys [] []).fab.reqs = [] :=
  ⟨open0 _ _ rfl rfl Nat.zero_lt_two rfl, by decide, by decide +kernel, by decide, by decide, by decide, by decide,
    by decide +kernel⟩

theorem witness_Sessions_lost : FabOn (sSess sessSilent [] []) ∧ ((sSess sessSilent [] []).sess 2) = sessSilent ∧
    25000 * nfld s0.fab.nctCtl 16 16 ≤ (s0.glob.tick - sessSilent.heard).toNat ∧ FabOn sSuspect ∧ pathIs sSuspect 3 = .up ∧
    (sSuspect.fab.paths[(3 : Fin 16)]).since = some (0 - 10000) ∧ 4 * s0.fab.rto ≤ (s0.glob.tick - (0 - 10000)).toNat ∧
    (sSuspect.fab.paths[(4 : Fin 16)]).ackAt = some 0 :=
  ⟨fabOn _ rfl rfl rfl, by decide +kernel, by decide, fabOn _ rfl rfl rfl, by unfold pathIs; decide, by decide, by decide,
    by decide⟩

/-- A frame on a path, to UDPPORT, without CE. -/
def udp (path : Fin 16) : Udp := ⟨path, 0xC5E8, false⟩
/-- A packet as its sender sealed it under key 5, and as its receiver opens it. -/
def sealed (typ : BitVec 4) (a : Addr) (bs : List Byte) : NctPkt := nctSeal 5 (pkt typ a bs)
def opened (typ : BitVec 4) (a : Addr) (bs : List Byte) : NctPkt := { pkt typ a bs with tag := (sealed typ a bs).tag }

theorem comes2 (x : Sess) (rs : List Req) (ws : List Word) (path : Fin 16) (p : NctPkt) (typ : BitVec 4)
    (hl : pathIs (sSess x rs ws) path ≠ .down) (ht : p.typ = typ) (hv : p.ver = 1) (hn : p.dsess = (2 : BitVec 10).zeroExtend 16)
    (hx : ((sSess x rs ws).sess 2).mode = .connecting ∨ ((sSess x rs ws).sess 2).mode = .up) :
    NctComes (sSess x rs ws) (udp path) p typ 2 := ⟨fabOn _ rfl rfl rfl, rfl, hl,
    by rw [show (sSess x rs ws).fab.nctCtl = 0xC5E8006403E80000 from rfl]; change (0xC5E8 : BitVec 16) = _; decide, ht, hv, hn, hx⟩

theorem sess_is (x : Sess) (rs : List Req) (ws : List Word) : (sSess x rs ws).sess 2 = x := by
  simp [State.sess, sSess, withLines]; rfl

theorem arrives2 (rs : List Req) (ws : List Word) (path : Fin 16) (typ : BitVec 4) (a : Addr) (bs : List Byte)
    (hl : pathIs (sSess (sess2 .up) rs ws) path ≠ .down) :
    NctArrives (sSess (sess2 .up) rs ws) (udp path) (sealed typ a bs) (opened typ a bs) typ 2 (sess2 .up) :=
  ⟨comes2 _ _ _ _ _ _ hl rfl rfl rfl (.inr (by rw [sess_is]; rfl)), sess_is _ _ _, rfl, ⟨5, rfl, nctOpen_nctSeal _ _⟩,
    by change 0 < 0 + 16384; decide, ⟨Nat.le_refl 0, List.not_mem_nil⟩, rfl, by decide, by decide⟩

theorem up15 (x : Sess) (rs : List Req) (ws : List Word) : pathIs (sSess x rs ws) 15 ≠ .down := by
  simp [pathIs, sSess, withLines, sUp, sPaths, pathAs]

/-- The last byte of the window, and the first beyond it. -/
theorem witness_SessionsReceive_data :
    NctArrives (sSess (sess2 .up) [] []) (udp 15) (sealed 0 0x1FFFFF [9]) (opened 0 0x1FFFFF [9]) 0 2 (sess2 .up) ∧
    (sess2 .up).window true (0x1FFFFF : Addr).toNat 1 = true ∧
    ((counted (sSess (sess2 .up) [] []) (udp 15) 2).blockWrite .fabric 1 0x1FFFFF [9]).2.isOk = true ∧
    NctArrives (sSess (sess2 .up) [] []) (udp 15) (sealed 0 0x200000 [9]) (opened 0 0x200000 [9]) 0 2 (sess2 .up) ∧
    (sess2 .up).window true (0x200000 : Addr).toNat 1 = false ∧ (sSess (sess2 .up) [] []).tr.pull = none :=
  ⟨arrives2 _ _ _ _ _ _ (up15 _ _ _), by decide, by decide +kernel, arrives2 _ _ _ _ _ _ (up15 _ _ _), by decide, rfl⟩

def readBody : List Byte := leBytes 8 0 ++ leBytes 8 0x100 ++ leBytes 8 0
def signalBody : List Byte := leBytes 8 5 ++ leBytes 8 9
def reqNak : Req := { reqPut with msgid := 3 }

theorem witness_SessionsReceive :
    NctArrives (sSess (sess2 .up) [] []) (udp 15) (sealed 2 0 readBody) (opened 2 0 readBody) 2 2 (sess2 .up) ∧
    (sess2 .up).window false 0 0x100 = true ∧ leNat (readBody.take 8) = 0 ∧ leNat ((readBody.drop 8).take 8) = 0x100 ∧
    readBody.length = 24 ∧
    ((counted (sSess (sess2 .up) [] []) (udp 15) 2).blockPages 1 false 0 0x100).2.isOk = true ∧
    NctArrives (sSess (sess2 .up) [] []) (udp 15) (sealed 3 0 signalBody) (opened 3 0 signalBody) 3 2 (sess2 .up) ∧
    leNat (signalBody.take 8) = 5 ∧ SignalRight 1 ctx1 fence5 ∧ ¬ SignalRight 1 ctx1 fence5other :=
  ⟨arrives2 _ _ _ _ _ _ (up15 _ _ _), by decide, by decide, by decide, by decide, by decide +kernel,
    arrives2 _ _ _ _ _ _ (up15 _ _ _), by decide, right5.1, by unfold SignalRight; decide⟩

theorem witness_SessionsReceive_probe :
    NctArrives (sSess (sess2 .up) [] []) (udp 15) (sealed 4 0 []) (opened 4 0 []) 4 2 (sess2 .up) ∧
    NctArrives (sSess (sess2 .up) [reqNak] []) (udp 15) (sealed 5 0 []) (opened 5 0 []) 5 2 (sess2 .up) ∧
    reqNak.sess? = some 2 ∧ reqNak.msgid = (sealed 5 0 []).msgid ∧ reqNak.by' = .program :=
  ⟨arrives2 _ _ _ _ _ _ (up15 _ _ _), arrives2 _ _ _ _ _ _ (up15 _ _ _), by decide, rfl, by decide⟩

/-- Packets of another generation and with a bad tag, and a packet that arrives while the mesh stands. -/
theorem witness_SessionsReceive_checks :
    (let s : State := { sUp with glob := { sUp.glob with meshRun := false } }
     FabOn s ∧ pathIs s 15 ≠ .down ∧ s.glob.meshRun = false) ∧
    NctComes (sSess (sess2 .up) [] []) (udp 15) { pkt 0 0 [] with pgen := 2 } 0 2 ∧ (2 : BitVec 16) ≠ (sess2 .up).pgen ∧
    NctComes (sSess (sess2 .up) [] []) (udp 15) (pkt 0 0 []) 0 2 ∧ (sess2 .up).key false = some 5 ∧
    nctOpen 5 (pkt 0 0 []) = none :=
  ⟨⟨fabOn _ rfl rfl rfl, by unfold pathIs; decide, rfl⟩,
    comes2 _ _ _ _ _ _ (up15 _ _ _) rfl rfl rfl (.inr (by rw [sess_is]; rfl)), by decide,
    comes2 _ _ _ _ _ _ (up15 _ _ _) rfl rfl rfl (.inr (by rw [sess_is]; rfl)), rfl, by decide +kernel⟩

/-- The ACK of the PROBE of a session that is CONNECTING. -/
def sessConn : Sess := { (sess2 .connecting) with out := [{ late0 with path := 0 }] }

theorem witness_SessionsReceive_ack : NctComes (sSess sessConn [] []) (udp 15) (sealed 1 0 []) 1 2 ∧
    (sSess sessConn [] []).sess 2 = sessConn ∧ (∃ k q, sessConn.key (sealed 1 0 []).kepoch = some k ∧
      nctOpen k (sealed 1 0 []) = some q) ∧ (pkt 4 0 []).psn.toNat < (sealed 1 0 []).cum.toNat ∧
    pathIs (sSess sessConn [] []) (Fin.ofNat 16 0) = .up ∧ (sealed 1 0 []).newc = 0 ∧
    (sSess sessConn [] []).fab.reqs = [] :=
  ⟨comes2 _ _ _ _ _ _ (up15 _ _ _) rfl rfl rfl (.inl (by rw [sess_is]; rfl)), sess_is _ _ _,
    ⟨5, opened 1 0 [], rfl, nctOpen_nctSeal _ _⟩, by decide +kernel, by unfold pathIs; decide +kernel, rfl, rfl⟩

/-! ### Transit -/

/-- The job of context 1: this is site 1 and site 2 is the coordinator, WINDOW 32, job 7, slice 0. One block; every region
lies at DVA 0; key 5 is in slot 0; route 0 is UP. -/
def trJob : Transit :=
  { Transit.reset with
    cfg := 0x8041020020000007, sites := 6, blocks := 0x0000000100000001, slot0 := { key := some 5, probes := 0, steps := [], spent := [] }
    routes := Transit.reset.routes.set 0 ⟨0x8000000000000001, true, 80, 0, 0 - 10000000⟩ }

/-- The job as given over UP paths; site 2 has an address on each plane (its table at DPA 0), and DVA 0 holds these words. -/
def sTr (t : Transit) (ws : List Word) : State :=
  withLines { sUp with tr := t } [(0, 0, List.replicate 16 0 ++ [1, 2, 3, 4, 0x8000000000000000]), (0x4000, 3, ws), (0x4001, 3, []), (0x4002, 3, []),
    (0x4003, 3, [])]

/-- A TRANSIT.out for step 3 that listens, or contributes one step of training; DEADLINE 10. -/
def outDesc (listen : Bool) : List Word :=
  [if listen then 0x2080000000000000 else 0x0080000000000001, 3, 0x0007000000000000, 10, 0, 0, 0x100, 0]
def pullDesc : List Word := [0x0080000000000000, 0x40, 0, 0, 0, 0, 0, 0]

theorem sTr_host (t : Transit) (ws : List Word) : (sTr t ws).host = s0.host := rfl
theorem sTr_cores (t : Transit) (ws : List Word) : (sTr t ws).cores = s0.cores := rfl

theorem transit_ready (i : Instr) (t : Transit) (ws : List Word)
    (h : (presents p0 i (sTr t ws) && !((sTr t ws).cores[p0.core]).anyPending p0.stream (streamOf (sTr t ws) p0).seqNo &&
      ((sTr t ws).blockRead .transit 1 0 64).2.isOk) = true) :
    PortReady .transit p0 port0 i (sTr t ws) (portDesc (sTr t ws) .transit).1 5 1 (portDesc (sTr t ws) .transit).2 := by
  simp only [Bool.and_eq_true, Bool.not_eq_true'] at h
  exact ready_of _ _ _ h.1.1 h.1.2 (by rw [sTr_cores]; rfl) (by rw [sTr_host]; rfl) (by rw [sTr_host]; rfl)
    (by have h := reg0; unfold regOf at h ⊢; rwa [sTr_cores]) h.2

theorem witness_Exchanges_out : (∀ b : Bool,
      PortReady .transit p0 port0 (.transitOut p0 port0) (sTr trJob (outDesc b)) (portDesc (sTr trJob (outDesc b)) .transit).1 5 1
        (portDesc (sTr trJob (outDesc b)) .transit).2 ∧
      OutPasses (portDesc (sTr trJob (outDesc b)) .transit).1 1 (portDesc (sTr trJob (outDesc b)) .transit).2 ∧
      (ew (portDesc (sTr trJob (outDesc b)) .transit).2 0).getLsbD 61 = b) ∧
    ((openedFor (portDesc (sTr trJob (outDesc false)) .transit).1 (exchangeOf (outDesc false) 5 8 0)).blockWrite .transit 1 0
      (leBytes 8 0x0007000000000000)).2.isOk = true ∧
    PortReady .transit p0 port0 (.transitOut p0 port0) (sTr Transit.reset (outDesc true))
      (portDesc (sTr Transit.reset (outDesc true)) .transit).1 5 1 (portDesc (sTr Transit.reset (outDesc true)) .transit).2 ∧
    (portDesc (sTr Transit.reset (outDesc true)) .transit).1.tr.valid = false := by
  have h : ∀ b : Bool, (presents p0 (.transitOut p0 port0) (sTr trJob (outDesc b)) &&
      !((sTr trJob (outDesc b)).cores[p0.core]).anyPending p0.stream (streamOf (sTr trJob (outDesc b)) p0).seqNo &&
      ((sTr trJob (outDesc b)).blockRead .transit 1 0 64).2.isOk) = true ∧
      (let d := portDesc (sTr trJob (outDesc b)) .transit
       outFormat d.2 = true ∧ d.1.tr.valid = true ∧ d.1.tr.ctx = 1 ∧ (ew d.2 4).getLsbD 63 = false ∧ outParams d.2 = true ∧
       d.1.tr.behind (ew d.2 2) = false ∧ d.1.tr.disorder (ew d.2 1) (ew d.2 2) = false ∧
       d.1.tr.fits ((ew d.2 0 >>> 62).truncate 2) = true ∧ d.1.tr.pull = none ∧ d.1.tr.rejoin = false ∧ d.1.tr.exch = [] ∧
       d.1.tr.rx = [] ∧ (ew d.2 0).getLsbD 61 = b) := by decide +kernel
  refine ⟨fun b => ⟨transit_ready _ _ _ (h b).1, ?_, (h b).2.2.2.2.2.2.2.2.2.2.2.2.2⟩, by decide +kernel,
    transit_ready _ _ _ (by decide +kernel), by decide +kernel⟩
  obtain ⟨-, a, b1, c, d, e, f, g, i, j, k, l, m, -⟩ := h b
  exact ⟨a, b1, c, d, e, f, g, i, j, k, l, fun r hr => by rw [m] at hr; cases hr⟩

/-- The exchange of step 3, accepted 2 × DEADLINE ago, in each phase. -/
def exch (p : ExPhase) : Exchange :=
  { exchangeOf (outDesc false) 5 8 (0 - 500000) with
    phase := p, keep := [false], stream := List.replicate 8 0, toSend := allFrags 8 1 0 }
def sEx (x : Exchange) : State := sTr { trJob with exch := [x] } []

/-- The three reads of the first pass's block, each after the one before; every word is zero. -/
def blockL : State × Option (List W32) := (sEx (exch .pass1)).trBlock 0 0
def blockB : State × Option (List W32) := blockL.1.trBlock (baseReg (exch .pass1).baseacc) 0
def blockE : State × Option (List W32) := blockB.1.trBlock 5 0
def zeros : List W32 := List.replicate 256 0

theorem witness_Exchanges_pass1_reads : blockL.2 = some zeros ∧ blockB.2 = some zeros ∧ blockE.2 = some zeros :=
  ⟨by decide +kernel, by decide +kernel, by decide +kernel⟩

theorem witness_Exchanges_pass1 : FabOn (sEx (exch .pass1)) ∧ (sEx (exch .pass1)).tr.exch = [exch .pass1] ∧
    (exch .pass1).snap = none ∧ (sEx (exch .pass1)).tr.nblocks = 1 ∧ zeros.length = 256 ∧
    (List.zipWith sub32 zeros zeros).all finite32 = true ∧ blockE.1.tr = (sEx (exch .pass1)).tr ∧
    (List.zipWith add32 (List.zipWith sub32 zeros zeros) zeros).all finite32 = true ∧
    (blockE.1.putBlock 6 0 (List.zipWith sub32 zeros zeros)).2 = true ∧
    (blockE.1.putBlock 6 0 (List.zipWith sub32 zeros zeros)).1.tr = (sEx (exch .pass1)).tr :=
  ⟨fabOn _ rfl rfl rfl, by decide +kernel, by decide, by decide, by decide +kernel, by decide +kernel, by decide +kernel,
    by decide +kernel, by decide +kernel, by decide +kernel⟩

theorem witness_Exchanges_sent : FabOn (sEx (exch .pass2)) ∧ (exch .pass2).mergeParts = 0 ∧
    (let r := (sEx (exch .pass2)).pass2 (exch .pass2)
     r.2.2 = none ∧
       (let w := (r.1.reuseSlot 3).trWrite (r.1.tr.rxSlot 3 r.1.tr.site) (bitmapBytes (exch .pass2).keep ++ r.2.1)
        w.2 = true ∧ w.1.tr.exch = [exch .pass2])) ∧ pathOpen (sEx (exch .sent)) .host :=
  ⟨fabOn _ rfl rfl rfl, by decide, by decide +kernel, open0 _ _ rfl rfl Nat.zero_lt_two rfl⟩

/-- An exchange that contributed, and one in its second pass, 20 ms after its acceptance and without a MERGE. -/
theorem witness_Exchanges_unmerged : (∀ x ∈ [{ (exch .sent) with contributed := true }, exch .pass2], x.phase ≠ .finished ∧ x.mergeParts = 0 ∧
      x.mergeAt = none ∧ (sEx x).tr.exch = [x] ∧ 50000 * x.deadline ≤ (s0.glob.tick - x.accepted).toNat ∧
      (let r := (sEx x).residual x add32 fun _ => x.contributed
       r.2 = none ∧ r.1.tr.exch = [x] ∧
         (let w := r.1.trWrite x.result.toNat (unmergedRecord r.1 x)
          w.2 = true ∧ w.1.tr.exch = [x]))) ∧ ∀ x, FabOn (sEx x) :=
  ⟨each _ (by decide +kernel), fun _ => fabOn _ rfl rfl rfl⟩

/-- A pull over session 2 is asked for; one has compared its two readings. -/
def sPull : State :=
  { (sTr trJob pullDesc) with fab := { sUp.fab with sess := [(2, sess2 .up)] } }
def pullRun (b : Word) : Pull := { sess := 2, result := 0x40, fence := 5, value := 9, stage := 4, first := 1, second := b, accepted := 0 }
def sPulled (b : Word) : State := sTr { trJob with pull := some (pullRun b) } []

theorem sPull_host : sPull.host = s0.host := rfl
theorem sPull_cores : sPull.cores = s0.cores := rfl

theorem witness_Exchanges_pull : PortReady .transit p0 port0 (.transitPull p0 port0) sPull (portDesc sPull .transit).1 5 1
      (portDesc sPull .transit).2 ∧
    (let d := portDesc sPull .transit
     pullFormat d.2 = true ∧ d.1.tr.valid = true ∧ d.1.tr.ctx = 1 ∧ (ew d.2 0 >>> 54).truncate 10 = (2 : BitVec 10) ∧
       (d.1.sess 2) = sess2 .up ∧ d.1.tr.exch = [] ∧ d.1.tr.pull = none) ∧ (sess2 .up).ctx = 1 ∧
    (∀ b, FabOn (sPulled b) ∧ (sPulled b).tr.pull = some (pullRun b) ∧ (pullRun b).stage = 4) ∧ (sPulled 2).tr.err = 0 ∧
    (pullRun 2).second ≠ (pullRun 2).first :=
  ⟨ready_of _ _ _ (by decide +kernel) (by decide +kernel) (by rw [sPull_cores]; rfl) (by rw [sPull_host]; rfl)
      (by rw [sPull_host]; rfl) (by have h := reg0; unfold regOf at h ⊢; rwa [sPull_cores]) (by decide +kernel), by decide +kernel, by decide,
    fun _ => ⟨fabOn _ rfl rfl rfl, rfl, rfl⟩, rfl, by decide⟩

theorem siteAddr_of (s : State) (path : Nat) (d : BitVec 6) (hp : s.trPath = some path) (hh : s.fab.held path = false)
    (h : (s.tableAddr .transit s.tr.sitebase d.toNat (path / 8)).2.1.isSome = true)
    (hb : (s.tableAddr .transit s.tr.sitebase d.toNat (path / 8)).2.2 = false) : ∃ dst, SiteAddr s path d dst := by
  obtain ⟨dst, h⟩ := Option.isSome_iff_exists.mp h
  exact ⟨dst, hp, hh, Prod.ext h hb⟩

/-- Site 2's address is at entry 2 of the table: at DPA 0x80, the words above. -/
theorem witness_TransitTraffic_send : FabOn (sEx (exch .sent)) ∧ (exch .sent).toSend = [(0, 0)] ∧
    (sEx (exch .sent)).tr.left = [] ∧ (sEx (exch .sent)).tr.routesUp = [0] ∧ mayNumber (sEx (exch .sent)) 3 ∧
    (sEx (exch .sent)).tr.siteList.filter (fun p => p ≠ (sEx (exch .sent)).tr.site) = [2] ∧
    (∃ dst, SiteAddr (sEx (exch .sent)) 0 2 dst) ∧ (trJob.routes[(0 : Fin 8)]).cfg.getLsbD 63 = true ∧
    trJob.sites.getLsbD 2 = true :=
  ⟨fabOn _ rfl rfl rfl, by decide +kernel, by decide, by decide +kernel,
    ⟨show (trJob.slot trJob.txSlot).key.isSome = true by decide, fun _ h => absurd (show _ ∈ ([] : List Word) from h) List.not_mem_nil,
      fun _ h => absurd (show _ ∈ ([] : List (BitVec 6 × BitVec 8 × Word)) from h) List.not_mem_nil⟩,
    by decide +kernel, siteAddr_of _ _ _ (by decide +kernel) (by decide +kernel) (by decide +kernel) (by decide +kernel), by decide,
    by decide⟩

/-- A packet of site 2 for this site about a step, as its sender sealed it and as it opens. -/
def trPkt (typ : BitVec 4) (k : Word) : TrPkt :=
  { ver := 1, typ := typ, kslot := false, job := 7, src := 2, dst := 1, slice := 0, route := 0, ostep := k, known := true,
    listen := false, group := 0, fidx := 1, k := 2, m := 0, qfmt := 0, nsteps := 1, ngroups := 1, len := 8200, acc := 0,
    payload := List.replicate 8192 0, tag := [] }
def trSealed (typ : BitVec 4) (k : Word) : TrPkt := trSeal 5 (trPkt typ k)
def trOpened (typ : BitVec 4) (k : Word) : TrPkt := { trPkt typ k with tag := (trSealed typ k).tag }
/-- A frame on path 15, to TRPORT, without CE. -/
def udpTr : Udp := ⟨15, 0xC5E9, false⟩

theorem trComes (t : Transit) (p : TrPkt) (typ : BitVec 4) (ht : t.net = Transit.reset.net) (hp : p.typ = typ) :
    TrComes (sTr t []) udpTr p typ :=
  ⟨fabOn _ rfl rfl rfl, rfl, by simp [pathIs, sTr, withLines, sUp, sPaths, pathAs],
    by change _ = (t.net >>> 48).truncate 16; rw [ht]; decide, hp⟩

theorem trArrives (t : Transit) (typ : BitVec 4) (k : Word) (ht : t.net = Transit.reset.net)
    (h : t.cfg.getLsbD 63 = true ∧ t.job = 7 ∧ t.site = 1 ∧ t.sliceNo = 0 ∧ (t.slot false).key = some 5) :
    TrArrives (sTr t []) udpTr (trSealed typ k) (trOpened typ k) typ :=
  ⟨trComes _ _ _ ht rfl, h.1, ⟨rfl, h.2.1.symm, h.2.2.1.symm, h.2.2.2.1.symm⟩, ⟨5, h.2.2.2.2, trOpen_trSeal _ _⟩⟩

/-- This site coordinates. -/
def trCoord : Transit := { trJob with cfg := 0x8041010020000007 }

theorem witness_TransitTraffic_arrivals : (∀ e ∈ [((0 : BitVec 4), (3 : Word)), (0, 5), (2, 3), (3, 3)],
      TrArrives (sEx (exch .pass1)) udpTr (trSealed e.1 e.2) (trOpened e.1 e.2) e.1) ∧ (exch .pass1).step = 3 ∧
    3 + 1 < (5 : Word).toNat ∧ (trPkt 0 3).fidx.toNat < (trPkt 0 3).k.toNat ∧
    (sEx (exch .pass1)).glob.tick.toNat < (exch .pass1).accepted.toNat + 25000 * (exch .pass1).deadline ∧
    ((trCounted (sEx (exch .pass1)) udpTr).trWrite ((sEx (exch .pass1)).tr.rxSlot 3 2 + 8192)
      ((List.replicate 8192 0).take 8)).2 = true ∧
    (sEx { (exch .pass1) with deadline := 0, accepted := 0 }).glob.tick.toNat ≥ 0 + 25000 * 0 :=
  ⟨fun _ _ => trArrives _ _ _ rfl (by decide), by decide, by decide, by decide, by decide, by decide +kernel, by decide⟩

theorem witness_TransitTraffic_ack : trCoord.coord = trCoord.site ∧ trJob.coord ≠ trJob.site ∧
    (trPkt 3 3).src = trJob.coord ∧ (trPkt 3 3).src ≠ trCoord.coord ∧
    TrArrives (sTr { trCoord with exch := [exch .sent] } []) udpTr (trSealed 2 3) (trOpened 2 3) 2 ∧
    trCoord.decided = [] ∧ trCoord.acks = [] ∧ trCoord.rx = [] ∧ (exch .pass1).merged = false ∧ (exch .pass1).merge = [] :=
  ⟨by decide, by decide, by decide, by decide, trArrives _ _ _ rfl (by decide), rfl, rfl, rfl, rfl, rfl⟩

/-- Packets of another job and with a bad tag, and a packet that arrives while the mesh stands. -/
theorem witness_TransitTraffic_checks :
    (let s : State := { sUp with glob := { sUp.glob with meshRun := false } }
     FabOn s ∧ pathIs s 15 ≠ .down ∧ s.glob.meshRun = false) ∧
    TrComes (sTr Transit.reset []) udpTr (trPkt 0 3) 0 ∧ (trPkt 0 3).job ≠ Transit.reset.job ∧
    TrComes (sTr trJob []) udpTr { trPkt 0 3 with payload := [] } 0 ∧
    ∀ k, (trJob.slot false).key = some k → trOpen k { trPkt 0 3 with payload := [] } = none :=
  ⟨⟨fabOn _ rfl rfl rfl, by unfold pathIs; decide, rfl⟩, trComes _ _ _ rfl rfl, by decide, trComes _ _ _ rfl rfl,
    fun k h => by cases h; decide +kernel⟩

/-- PROBE 9 of route 3 is outstanding. -/
def trProbed : Transit := { trJob with probes := [(false, 9, 3)] }
/-- The only peer's stream has been decoded. -/
def rxDone : RxStep :=
  ⟨3, [{ site := 2, len := 8, nsteps := 1, baseacc := 0, qfmt := 0, ngroups := 1, m := 0, got := [0], parts := [], decoded := [0], data := [0] }],
    0, false, false⟩
def sDeadline (acked : Bool) (t : Transit) : State := sTr { t with exch := [{ (exch .sent) with acked := acked, contributed := true }] } []

theorem witness_TransitTraffic_probes : TrArrives (sTr trJob []) udpTr (trSealed 4 9) (trOpened 4 9) 4 ∧
    (∃ dst, SiteAddr (sTr trJob []) 0 2 dst) ∧ TrArrives (sTr trProbed []) udpTr (trSealed 5 9) (trOpened 5 9) 5 ∧
    (trJob.slot trJob.txSlot).key.isSome = true ∧ (trJob.slot trJob.txSlot).probes < 2 ^ 32 ∧
    Tbl.get none trJob.probed (64 * 0 + 2) = none ∧ (2 : BitVec 6) ≠ trJob.site ∧ (trJob.routes[(0 : Fin 8)]).up = true ∧
    100000 * nfld trJob.net 16 16 ≤ (s0.glob.tick - (trJob.routes[(0 : Fin 8)]).echoAt).toNat :=
  ⟨trArrives _ _ _ rfl (by decide), siteAddr_of _ _ _ (by decide +kernel) (by decide +kernel) (by decide +kernel) (by decide +kernel),
    trArrives _ _ _ rfl (by decide), by decide, by decide, by decide, by decide, by decide, by decide⟩

theorem witness_TransitTraffic_rest : FabOn (sDeadline true trJob) ∧ (exch .sent).failed = false ∧
    (sDeadline true trJob).allDecoded 3 = false ∧ (sDeadline true trJob).tr.rx = [] ∧
    25000 * (exch .sent).deadline ≤ (s0.glob.tick - (exch .sent).accepted).toNat ∧
    (sDeadline false { trJob with rx := [rxDone], routes := Transit.reset.routes }).allDecoded 3 = true ∧
    ((sDeadline true { trJob with rx := [rxDone], routes := Transit.reset.routes }).ackPackets
      { (exch .sent) with acked := false, contributed := true }).2.toOption.isSome = true ∧
    ({ trJob with routes := Transit.reset.routes } : Transit).routesUp = [] ∧ trJob.siteList ≠ [] ∧
    (sDeadline true trCoord).tr.valid = true ∧ (sDeadline true trCoord).tr.decided = [] ∧
    accJob (sDeadline true trCoord).tr.seen ≠ (sDeadline true trCoord).tr.job ∧
    31250 * (exch .sent).deadline ≤ (s0.glob.tick - (exch .sent).accepted).toNat :=
  ⟨fabOn _ rfl rfl rfl, by decide, by decide +kernel, by decide, by decide, by decide +kernel, by decide +kernel,
    by decide +kernel, by decide +kernel, by decide, by decide, by decide, by decide⟩

theorem witness_TransitTraffic_keys : pathOpen (sTr trJob []) .host ∧ trJob.held = [] ∧
    (({ trJob with slot1 := { key := some 6, probes := 0, steps := [], spent := [] } } : Transit).slot true).key.isSome = true ∧
    (trJob.slot true).key = none ∧ trJob.exch = [] :=
  ⟨open0 _ _ rfl rfl Nat.zero_lt_two rfl, rfl, by decide, by decide, rfl⟩

/-! ### The vault -/

/-- The vault of context 1 with four pages, over UP session 2, in state v; DVA 0 holds these words. -/
def sVault (v : Vault) (en : Bool) (ws : List Word) : State :=
  withLines { s0 with
    vault := v, mem := { s0.mem with vaultEn := en, vaultPages := 4 }
    fab := { sUp.fab with sess := [(2, sess2 .up)] } } [(0x4000, 3, ws)]

def vault1 : Vault := { Vault.reset with vctx := 1 }

theorem sVault_host (v : Vault) (en : Bool) (ws : List Word) : (sVault v en ws).host = s0.host := rfl
theorem sVault_cores (v : Vault) (en : Bool) (ws : List Word) : (sVault v en ws).cores = s0.cores := rfl

theorem vault_ready (i : Instr) (v : Vault) (en : Bool) (ws : List Word)
    (h : (presents p0 i (sVault v en ws) && !((sVault v en ws).cores[p0.core]).anyPending p0.stream (streamOf (sVault v en ws) p0).seqNo &&
      ((sVault v en ws).blockRead .vault 1 0 64).2.isOk) = true) :
    PortReady .vault p0 port0 i (sVault v en ws) (portDesc (sVault v en ws) .vault).1 5 1 (portDesc (sVault v en ws) .vault).2 := by
  simp only [Bool.and_eq_true, Bool.not_eq_true'] at h
  exact ready_of _ _ _ h.1.1 h.1.2 (by rw [sVault_cores]; rfl) (by rw [sVault_host]; rfl) (by rw [sVault_host]; rfl)
    (by have h := reg0; unfold regOf at h ⊢; rwa [sVault_cores]) h.2

/-- A shard of 64 bytes at DVA 0, for accession 9; a commit of n shards; a restore of the vault's or of staged images; a
drain over session 2. -/
def shard0 : List Word := [0x0000000168000000, 0x0000000100000040, 1, 64, 0, 64]
def saveDesc : List Word := shard0 ++ [9, 0]
def commitDesc (n : Word) : List Word := [n, 9, 0, 0, 0, 0, 0, 0]
def restoreDesc (staged : Bool) : List Word :=
  [if staged then 0xC000000000010001 else 0x10000, 0, 0, 0, 1, 0x40, 0, 0]
def drainDesc (start : Bool) : List Word := [if start then 0xC020000000000000 else 0x4020000000000000, 0x10000, 0, 0, 0, 0, 0, 0]

/-- Generation A holds that shard, OPEN or committed. -/
def genA (done : Bool) : Gener :=
  { Gener.empty with isOpen := !done, committed := done, acc := 9, used := 1, shards := [⟨shard0, 1, 1, []⟩] }
def vaultOf (done : Bool) : Vault := { vault1 with gens := Vector.replicate 2 Gener.empty |>.set 0 (genA done), key0 := some 5 }

theorem witness_VaultRequests_refused : ∀ e ∈ vaultOps [], ∃ ws, e.2 ws = true ∧
    (∃ s', PortReady .vault p0 port0 (e.1 p0 port0) (sVault vault1 false ws) s' 5 1 ws ∧ s'.mem.vaultEn = false) ∧
    ∃ s', PortReady .vault p0 port0 (e.1 p0 port0) (sVault Vault.reset true ws) s' 5 1 ws ∧ s'.mem.vaultEn = true ∧ s'.vault.vctx ≠ 1 := by
  have h (i : Instr) (ws : List Word) (v : Vault) (en : Bool)
      (h : (presents p0 i (sVault v en ws) && !((sVault v en ws).cores[p0.core]).anyPending p0.stream (streamOf (sVault v en ws) p0).seqNo &&
        ((sVault v en ws).blockRead .vault 1 0 64).2.isOk) = true) (he : (portDesc (sVault v en ws) .vault).2 = ws) :
      PortReady .vault p0 port0 i (sVault v en ws) (portDesc (sVault v en ws) .vault).1 5 1 ws := by
    have := vault_ready i v en ws h
    rwa [he] at this
  simp only [vaultOps, List.forall_mem_cons, List.not_mem_nil, false_implies, implies_true, and_true]
  exact ⟨⟨saveDesc, by decide, ⟨_, h _ _ _ _ (by decide +kernel) (by decide +kernel), by decide +kernel⟩,
      ⟨_, h _ _ _ _ (by decide +kernel) (by decide +kernel), by decide +kernel, by decide +kernel⟩⟩,
    ⟨commitDesc 1, by decide, ⟨_, h _ _ _ _ (by decide +kernel) (by decide +kernel), by decide +kernel⟩,
      ⟨_, h _ _ _ _ (by decide +kernel) (by decide +kernel), by decide +kernel, by decide +kernel⟩⟩,
    ⟨drainDesc true, by decide, ⟨_, h _ _ _ _ (by decide +kernel) (by decide +kernel), by decide +kernel⟩,
      ⟨_, h _ _ _ _ (by decide +kernel) (by decide +kernel), by decide +kernel, by decide +kernel⟩⟩,
    ⟨restoreDesc false, by decide, ⟨_, h _ _ _ _ (by decide +kernel) (by decide +kernel), by decide +kernel⟩,
      ⟨_, h _ _ _ _ (by decide +kernel) (by decide +kernel), by decide +kernel, by decide +kernel⟩⟩⟩

/-- The second of two one-page shards fits while generation A is OPEN with no page taken; nothing is OPEN. -/
def vaultHalf : Vault := { vault1 with gens := vault1.gens.set 0 { Gener.empty with isOpen := true, acc := 9 } }

theorem witness_VaultRequests_save : (∀ v ∈ [vaultHalf, vault1],
      PortReady .vault p0 port0 (.vaultSave p0 port0) (sVault v true saveDesc) (portDesc (sVault v true saveDesc) .vault).1 5 1
        (portDesc (sVault v true saveDesc) .vault).2 ∧
      (let d := portDesc (sVault v true saveDesc) .vault
       d.2 = saveDesc ∧ saveFormat d.2 = true ∧ d.1.mem.vaultEn = true ∧ d.1.vault = v ∧ d.1.mem.vaultPages = 4 ∧ shardRanges d.2 = true ∧
       (d.1.anySealed (shSrc d.2) (shLen d.2)).2 = false ∧ (d.1.anySealed (shSrc d.2) (shLen d.2)).1.vault = v)) ∧
    touched (shSrc saveDesc) (shLen saveDesc) = 1 ∧ vaultHalf.openGen = some false ∧ vaultHalf.busy = false ∧
    vault1.openGen = none ∧ vault1.busy = false ∧ vault1.jobs = [] ∧ vault1.drain = none ∧ ((0 : Fin 2) == 1) = false ∧
    (vaultHalf.gens[(0 : Fin 2)]).acc = ew saveDesc 6 ∧ (vaultHalf.gens[(0 : Fin 2)]).used + 1 + 1 ≤ (4 : BitVec 18).toNat / 2 := by
  have h := (each _ (by decide +kernel) : ∀ v ∈ [vaultHalf, vault1],
    (presents p0 (.vaultSave p0 port0) (sVault v true saveDesc) && !((sVault v true saveDesc).cores[p0.core]).anyPending p0.stream
        (streamOf (sVault v true saveDesc) p0).seqNo && ((sVault v true saveDesc).blockRead .vault 1 0 64).2.isOk) = true ∧
      (let d := portDesc (sVault v true saveDesc) .vault
       d.2 = saveDesc ∧ saveFormat d.2 = true ∧ d.1.mem.vaultEn = true ∧ d.1.vault = v ∧ d.1.mem.vaultPages = 4 ∧ shardRanges d.2 = true ∧
       (d.1.anySealed (shSrc d.2) (shLen d.2)).2 = false ∧ (d.1.anySealed (shSrc d.2) (shLen d.2)).1.vault = v))
  exact ⟨fun v m => ⟨vault_ready _ _ _ _ (h v m).1, (h v m).2⟩, by decide +kernel⟩

/-- A restore runs. -/
def vaultBusy : Vault := { (vaultOf true) with jobs := [.restore 5 1 (restoreDesc false) [] 0] }

/-- A commit finds its one shard, or another number, or nothing OPEN; a restore finds a committed generation or none, or
takes staged images. -/
theorem witness_VaultRequests_commit : (∀ e ∈ [(vaultOf false, (1 : Word)), (vaultOf false, 2), (vault1, 1)],
      PortReady .vault p0 port0 (.vaultCommit p0 port0) (sVault e.1 true (commitDesc e.2)) (portDesc (sVault e.1 true (commitDesc e.2)) .vault).1
        5 1 (portDesc (sVault e.1 true (commitDesc e.2)) .vault).2 ∧
      (let d := portDesc (sVault e.1 true (commitDesc e.2)) .vault
       d.2 = commitDesc e.2 ∧ commitFormat d.2 = true ∧ d.1.mem.vaultEn = true ∧ d.1.vault = e.1)) ∧
    (∀ e ∈ [(vaultOf true, false), (vault1, false), (vault1, true), (vaultBusy, false)],
      PortReady .vault p0 port0 (.vaultRestore p0 port0 []) (sVault e.1 true (restoreDesc e.2))
        (portDesc (sVault e.1 true (restoreDesc e.2)) .vault).1 5 1 (portDesc (sVault e.1 true (restoreDesc e.2)) .vault).2 ∧
      (let d := portDesc (sVault e.1 true (restoreDesc e.2)) .vault
       d.2 = restoreDesc e.2 ∧ restoreFormat d.2 = true ∧ d.1.mem.vaultEn = true ∧ d.1.vault = e.1)) ∧
    (vaultOf false).openGen = some false ∧ (vaultOf false).busy = false ∧ vault1.openGen = none ∧ (vaultOf true).openGen = none ∧
    (vaultOf true).anyCommit = true ∧ vault1.anyCommit = false ∧ (vaultOf true).busy = false ∧ vaultBusy.busy = true ∧
    vault1.busy = false ∧ ew (restoreDesc true) 0 >>> 62 = 3 := by
  have hc := (each _ (by decide +kernel) : ∀ e ∈ [(vaultOf false, (1 : Word)), (vaultOf false, 2), (vault1, 1)],
    (presents p0 (.vaultCommit p0 port0) (sVault e.1 true (commitDesc e.2)) && !((sVault e.1 true (commitDesc e.2)).cores[p0.core]).anyPending
        p0.stream (streamOf (sVault e.1 true (commitDesc e.2)) p0).seqNo && ((sVault e.1 true (commitDesc e.2)).blockRead .vault 1 0 64).2.isOk) = true ∧
      (let d := portDesc (sVault e.1 true (commitDesc e.2)) .vault
       d.2 = commitDesc e.2 ∧ commitFormat d.2 = true ∧ d.1.mem.vaultEn = true ∧ d.1.vault = e.1))
  have hr := (each _ (by decide +kernel) : ∀ e ∈ [(vaultOf true, false), (vault1, false), (vault1, true), (vaultBusy, false)],
    (presents p0 (.vaultRestore p0 port0 []) (sVault e.1 true (restoreDesc e.2)) && !((sVault e.1 true (restoreDesc e.2)).cores[p0.core]).anyPending
        p0.stream (streamOf (sVault e.1 true (restoreDesc e.2)) p0).seqNo && ((sVault e.1 true (restoreDesc e.2)).blockRead .vault 1 0 64).2.isOk) = true ∧
      (let d := portDesc (sVault e.1 true (restoreDesc e.2)) .vault
       d.2 = restoreDesc e.2 ∧ restoreFormat d.2 = true ∧ d.1.mem.vaultEn = true ∧ d.1.vault = e.1))
  exact ⟨fun e m => ⟨vault_ready _ _ _ _ (hc e m).1, (hc e m).2⟩, fun e m => ⟨vault_ready _ _ _ _ (hr e m).1, (hr e m).2⟩, by decide⟩

/-- A drain starts; START 0 stops one that runs. -/
def vaultDrain0 : Vault := { (vaultOf true) with drain := some ⟨6, 1, false, false, 0x10000, 65537⟩ }

theorem witness_VaultRequests_drain : (∀ e ∈ [(vaultOf true, true), (vaultDrain0, false), (vaultBusy, true)],
      PortReady .vault p0 port0 (.vaultDrain p0 port0) (sVault e.1 true (drainDesc e.2)) (portDesc (sVault e.1 true (drainDesc e.2)) .vault).1
        5 1 (portDesc (sVault e.1 true (drainDesc e.2)) .vault).2 ∧
      (let d := portDesc (sVault e.1 true (drainDesc e.2)) .vault
       d.2 = drainDesc e.2 ∧ drainFormat d.2 = true ∧ d.1.mem.vaultEn = true ∧ d.1.vault = e.1 ∧ d.1.drainMine d.2 = true)) ∧
    (let d := portDesc (sVault (vaultOf true) true (drainDesc true)) .vault
     let r := d.1.drainImage false
     r.2.2.held = false ∧ r.2.2.poison = false ∧ r.1.drainUp d.2 = true ∧ r.1.vault = d.1.vault) ∧
    (vaultOf true).key (vaultOf true).txSlot = some 5 ∧ (vaultOf true).drain = none ∧
    vaultBusy.key vaultBusy.txSlot = some 5 := by
  have h := (each _ (by decide +kernel) : ∀ e ∈ [(vaultOf true, true), (vaultDrain0, false), (vaultBusy, true)],
    (presents p0 (.vaultDrain p0 port0) (sVault e.1 true (drainDesc e.2)) && !((sVault e.1 true (drainDesc e.2)).cores[p0.core]).anyPending
        p0.stream (streamOf (sVault e.1 true (drainDesc e.2)) p0).seqNo && ((sVault e.1 true (drainDesc e.2)).blockRead .vault 1 0 64).2.isOk) = true ∧
      (let d := portDesc (sVault e.1 true (drainDesc e.2)) .vault
       d.2 = drainDesc e.2 ∧ drainFormat d.2 = true ∧ d.1.mem.vaultEn = true ∧ d.1.vault = e.1 ∧ d.1.drainMine d.2 = true))
  exact ⟨fun e m => ⟨vault_ready _ _ _ _ (h e m).1, (h e m).2⟩, by decide +kernel, by decide, by decide, by decide⟩

/-- The region takes 2 pages at least and 196,608 at most. -/
theorem witness_VaultRequests_enable : pathOpen s0 .host ∧ s0.mem.vaultEn = false ∧
    (∀ v ∈ [(0x8040000200000000 : Word), 0x8043000000000000], v.getLsbD 63 = true ∧
      ((v >>> 32).truncate 18 : BitVec 18).toNat % 2 = 0 ∧ 2 ≤ ((v >>> 32).truncate 18 : BitVec 18).toNat ∧
      ((v >>> 32).truncate 18 : BitVec 18).toNat ≤ 196608) ∧
    pathOpen (sVault (vaultOf true) true []) .host ∧ (sVault (vaultOf true) true []).mem.vaultEn = true ∧
    ({ vault1 with jobs := [.save 5 1 false 0] } : Vault).drain = none :=
  ⟨open0 _ _ rfl rfl Nat.zero_lt_two rfl, by decide, each _ (by decide +kernel), open0 _ _ rfl rfl Nat.zero_lt_two rfl, rfl, rfl⟩

/-! ### The vault's work -/

/-- Generation A's one data page holds a poisoned line. -/
def sPoisoned (v : Vault) : State :=
  let s := sVault v true []
  let l := copyLine 0x4000 393213
  { s with mem := { s.mem with slice := (cacheFill 16 s.mem.slice (sliceSet l) l ⟨zeroLine, 3, true, false⟩).1 } }

/-- Generation A with its shard's pages copied; its shard's source without a translation. -/
def genCopied (broken : Bool) : Gener := { (genA false) with broken := broken, shards := [⟨shard0, 1, 1, [2]⟩] }
def genAway : Gener := { (genA false) with shards := [⟨shard0.set 4 0x200000, 1, 1, []⟩] }
def vaultJob (g : Gener) (j : VaultJob) : Vault := { vault1 with gens := vault1.gens.set 0 g, jobs := [j] }
def saveJob : VaultJob := .save 5 1 false 0
def commitJob : VaultJob := .commit 5 1 false (commitDesc 1)

theorem witness_VaultCompletes_save : (∀ e ∈ [(genA false, true), (genAway, false)],
      let s := sVault (vaultJob e.1 saveJob) true []
      let x : Shard := e.1.shards.getD 0 ⟨[], 0, 0, []⟩
      e.1.shards[0]? = some x ∧ (s.saveCopy false x).2.isSome = e.2 ∧ (s.saveCopy false x).1.vault = s.vault ∧ s.vault.err = 0 ∧
      s.glob.stackRun = true ∧ s.vault.gens[(0 : Fin 2)] = e.1) ∧
    ((0 : Fin 2) == 1) = false ∧ ∀ v, FabOn (sVault v true []) :=
  ⟨each _ (by decide +kernel), by decide, fun _ => fabOn _ rfl rfl rfl⟩

theorem witness_VaultCompletes_commit :
    (let s := sVault (vaultJob (genCopied true) commitJob) true []
     (s.vault.gens[(0 : Fin 2)]).broken = true ∧ s.vault.err = 0 ∧ s.vault.jobs = [commitJob]) ∧
    (let s := sVault (vaultJob (genCopied false) commitJob) true []
     (s.vault.gens[(0 : Fin 2)]).broken = false ∧ (s.digests false).2.2 = none ∧ (s.digests false).1.vault = s.vault ∧
       ({ s with reg := { s.reg with idReady := true } }.digests false).1.reg.idReady = true) ∧
    (let s := sPoisoned (vaultJob (genCopied false) commitJob)
     (s.digests false).2.2 = some (0, false) ∧ (s.digests false).1.vault = s.vault ∧ s.vault.err = 0) := by decide +kernel

/-- Both chunks of an image of 65,537 bytes are acknowledged. -/
def chunkReq (k : Nat) : Req := { reqNone with by' := .drain, done := 1, total := 1, raddr := 0x10000 + BitVec.ofNat 64 (65552 * k) }

theorem witness_VaultCompletes_drain : FabOn (sVault vaultDrain0 true []) ∧
    (let s := { sVault vaultDrain0 true [] with fab := { sUp.fab with reqs := [chunkReq 0, chunkReq 1] } }
     s.vault.drain = some ⟨6, 1, false, false, 0x10000, 65537⟩ ∧
       (s.fab.reqs.filter fun (r : Req) => r.by' == .drain && r.done == r.total).length = (65537 + 65535) / 65536) :=
  ⟨fabOn _ rfl rfl rfl, by decide +kernel⟩

/-- The committed generation's records are not there: nothing is chosen. -/
def sRestore (g : Gener) : State := sVault (vaultJob g (.restore 5 8 (restoreDesc false) [] 0)) true []
def planR : State × Except BlockErr (List (List Word) × List (BitVec 256)) := (sRestore (genA true)).readPlan (restoreDesc false)
def candR : State × Except BlockErr (List Candidate × Choice) := planR.1.candidates (restoreDesc false) []

def planOf : List (List Word) × List (BitVec 256) := planR.2.toOption.getD ([], [])
def candOf : List Candidate × Choice := candR.2.toOption.getD ([], ⟨none, 0, none⟩)
def choiceR : State × Choice := candR.1.choose planOf.2 planOf.1 candOf.1 candOf.2
def recordR : State × Except BlockErr Unit :=
  choiceR.1.blockWrite .vault choiceR.1.vault.vctx 0x40 (wordBytes [0x4000000000000000, 0, 0, BitVec.ofNat 64 choiceR.2.bad,
    BitVec.ofNat 64 (choiceR.2.first.getD 0), 0, choiceR.1.glob.tick - 0, 0])

theorem witness_VaultCompletes_noset : FabOn (sRestore (genA true)) ∧ planR.2.isOk = true ∧ candR.2.isOk = true ∧
    (∀ e ∈ planOf.1, (shFmt e).isSome = true) ∧ choiceR.2.set.isSome = false ∧ choiceR.2.bad = 1 ∧ choiceR.2.first = some 0 ∧ recordR.1.vault = (sRestore (genA true)).vault :=
  ⟨fabOn _ rfl rfl rfl, by decide +kernel, by decide +kernel, each _ (by decide +kernel), by decide +kernel, by decide +kernel,
    by decide +kernel, by decide +kernel⟩

/-- The placement's one entry names the reserved format 0x10. -/
def sReserved : State := sVault (vaultJob (genA true) (.restore 5 8 (restoreDesc false) [] 0)) true [0x80000000]

theorem witness_VaultCompletes_reserved : FabOn sReserved ∧ sReserved.vault.err = 0 ∧
    (let r := sReserved.readPlan (restoreDesc false)
     (∃ es keys, r.2 = .ok (es, keys) ∧ ∃ e ∈ es, shFmt e = none) ∧
       (r.1.blockWrite .vault r.1.vault.vctx 0x40 (wordBytes [0xC000000000000000, 0, 0, 0, 0, 0, r.1.glob.tick - 0, 0])).1.vault =
         sReserved.vault) :=
  ⟨fabOn _ rfl rfl rfl, rfl,
    ⟨[[0x80000000, 0, 0, 0, 0, 0, 0, 0]], [BitVec.ofNat 256 (2 ^ 231)], by decide +kernel, [0x80000000, 0, 0, 0, 0, 0, 0, 0], List.mem_singleton.mpr rfl, by decide⟩,
    by decide +kernel⟩

/-- One second has passed since EN: the due record is off, or written at DVA 8. -/
theorem witness_VaultCompletes_due : ∀ e ∈ [(0 : Addr), 8],
    let s := { sVault { vault1 with period := 1, dueaddr := e } true [] with glob := { s0.glob with tick := 25000000 } }
    FabOn s ∧ s.mem.vaultEn = true ∧ s.vault.fired = false ∧ s.vault.period ≠ 0 ∧
      s.vault.period.toNat * 25000000 ≤ (s.glob.tick - s.vault.since).toNat ∧ s.vault.dueaddr = e := by
  intro e h
  refine ⟨fabOn _ rfl rfl rfl, rfl, rfl, (by decide : (1 : BitVec 32) ≠ 0), (by decide : (1 : BitVec 32).toNat * 25000000 ≤ ((25000000 : Word) - 0).toNat), rfl⟩

/-! ### A restore that chooses a set

The vault's lines stand in the slices: generation A holds a commit record and a manifest of no shard, signed under
this module's identity key, which is the one trusted key. -/

/-- Reads leave a memory that has nothing in DRAM and no waiting write as it is, but for the slices' replacement state. -/
structure Quiet (m n : Mem) : Prop where
  side : n.side = []
  parts : n.parts = []
  halt : n.haltStage = m.haltStage
  pages : n.vaultPages = m.vaultPages
  en : n.vaultEn = m.vaultEn
  measured : n.measured = m.measured
  find : ∀ l, n.sliceFind l = m.sliceFind l
  reach : ∀ x w l, n.reaches x w l = m.reaches x w l

theorem Quiet.refl {m : Mem} (hs : m.side = []) (hp : m.parts = []) : Quiet m m := ⟨hs, hp, rfl, rfl, rfl, rfl, fun _ => rfl, fun _ _ _ => rfl⟩

theorem Quiet.trans {a b c : Mem} (h : Quiet a b) (k : Quiet b c) : Quiet a c :=
  ⟨k.side, k.parts, k.halt.trans h.halt, k.pages.trans h.pages, k.en.trans h.en, k.measured.trans h.measured, fun l => (k.find l).trans (h.find l),
    fun x w l => (k.reach x w l).trans (h.reach x w l)⟩

theorem touch_find {α : Type} (x : CSet α) (t u : Nat) : (x.touch t).find? u = x.find? u := by
  unfold CSet.touch CSet.find?
  split <;> rfl

theorem touch_cacheFind {α : Type} [DecidableEq α] (t : Tbl (CSet α)) (a b set tag : Nat) :
    cacheFind 16 (cacheTouch 16 t a b) set tag = cacheFind 16 t set tag := by
  unfold cacheFind cacheTouch Tbl.modify
  by_cases h : set = a
  · subst h; rw [Tbl.get_set_self, touch_find]
  · rw [Tbl.get_set_ne _ _ _ _ _ h]

theorem settle_quiet {m : Mem} (h : m.parts = []) (l : Nat) (e : BurstErr) (t : Word) : m.settle l e t = m := by
  cases m; simp only at h; subst h; rfl

theorem readLine_quiet {m : Mem} (hs : m.side = []) (hp : m.parts = []) (mst : Master) (l : Nat) (r : Option (BitVec 4)) (t : Word) :
    Quiet m (m.readLine mst l r t).1 := by
  unfold Mem.readLine
  split
  · exact .refl hs hp
  · split
    · exact ⟨hs, hp, rfl, rfl, rfl, rfl, fun _ => rfl, fun _ _ _ => rfl⟩
    · simp only [settle_quiet hp]
      split
      · split
        · exact ⟨hs, hp, rfl, rfl, rfl, rfl, fun _ => rfl, fun _ _ _ => rfl⟩
        · exact ⟨hs, hp, rfl, rfl, rfl, rfl, fun _ => touch_cacheFind _ _ _ _ _, fun _ _ _ => rfl⟩
      · have : (m.side1 l).written = false := by unfold Mem.side1; rw [hs]; rfl
        rw [this]
        exact .refl hs hp

theorem readBytes_quiet {m : Mem} (hs : m.side = []) (hp : m.parts = []) (mst : Master) (r : Option (BitVec 4)) (a n : Nat) (t : Word) :
    Quiet m (m.readBytes mst r a n t).1 := by
  unfold Mem.readBytes
  refine List.foldlRecOn (motive := fun (x : Mem × List Byte × Bool) => Quiet m x.1) _ _ (Quiet.refl hs hp) fun x h e _ => ?_
  exact h.trans (readLine_quiet h.side h.parts _ _ _ _)

/-- A state after such reads. -/
structure Calm (s t : State) : Prop where
  mem : Quiet s.mem t.mem
  rest : t = { s with mem := t.mem }

theorem Calm.trans {a b c : State} (h : Calm a b) (k : Calm b c) : Calm a c :=
  ⟨h.mem.trans k.mem, by rw [k.rest, h.rest]⟩

theorem Calm.read {s t : State} (h : Calm s t) (mst : Master) (r : Option (BitVec 4)) (a n : Nat) (w : Word) :
    Calm s { t with mem := (t.mem.readBytes mst r a n w).1 } :=
  h.trans ⟨readBytes_quiet h.mem.side h.mem.parts _ _ _ _ _, rfl⟩

theorem readTable_calm {s t : State} (h : Calm s t) (a : Nat) : Calm s (t.readTable a).1 := h.read _ _ _ _ _

theorem xlate_calm {s t : State} (h : Calm s t) (c : BitVec 9) (a : Nat) (on : (Tbl.find? s.host.ctxs c.toNat).isSome = true) :
    Calm s (t.xlate c a).1 := by
  have h0 : t.loadCtx c = t := by
    unfold State.loadCtx
    rw [show t.host = s.host by rw [h.rest]]
    obtain ⟨e, he⟩ := Option.isSome_iff_exists.mp on
    rw [he]
  unfold State.xlate State.walk State.walk2 State.walk3
  simp only [h0]
  split
  · exact h
  · split
    · exact readTable_calm h _
    · split
      · exact readTable_calm (readTable_calm h _) _
      · exact readTable_calm (readTable_calm (readTable_calm h _) _) _

theorem blockPages_calm {s t : State} (h : Calm s t) (c : BitVec 9) (w : Bool) (a n : Nat)
    (on : (Tbl.find? s.host.ctxs c.toNat).isSome = true) : Calm s (t.blockPages c w a n).1 := by
  unfold State.blockPages
  refine List.foldlRecOn (motive := fun (x : State × Except BlockErr (List (Nat × Nat × Leaf))) => Calm s x.1) _ _ h fun x k e _ => ?_
  have hx := xlate_calm k c e.1 on
  rcases he : x.1.xlate c e.1 with ⟨u, f⟩
  rw [he] at hx
  split
  · exact k
  · split
    · exact k
    · simp only
      split
      · exact hx
      · split <;> exact hx

/-- A block's write changes no more of the vault than its reads do. -/
theorem blockWrite_vault {s t : State} (h : Calm s t) (mst : Master) (c : BitVec 9) (a : Nat) (bs : List Byte)
    (on : (Tbl.find? s.host.ctxs c.toNat).isSome = true) : (t.blockWrite mst c a bs).1.vault = s.vault := by
  have hp := blockPages_calm h c true a bs.length on
  have hv : (t.blockPages c true a bs.length).1.vault = s.vault := by rw [show (t.blockPages c true a bs.length).1 = _ from hp.rest]
  unfold State.blockWrite
  split
  · simpa [*] using hv
  · rename_i u ps he
    rw [he] at hv
    exact List.foldlRecOn (motive := fun (x : State × List Byte) => x.1.vault = s.vault) _ _ hv fun _ k _ _ => k

theorem blockRead_calm {s t : State} (h : Calm s t) (mst : Master) (c : BitVec 9) (a n : Nat)
    (on : (Tbl.find? s.host.ctxs c.toNat).isSome = true) : Calm s (t.blockRead mst c a n).1 := by
  have hp := blockPages_calm h c false a n on
  unfold State.blockRead
  split
  · simpa [*] using hp
  · rename_i u ps he
    rw [he] at hp
    refine List.foldlRecOn (motive := fun (x : State × Except BlockErr (List Byte)) => Calm s x.1) _ _ hp fun x k e _ => ?_
    split
    · exact k
    · exact k.read _ _ _ _ _

theorem readPlan_calm {s : State} (hs : s.mem.side = []) (hp : s.mem.parts = []) (ws : List Word)
    (on : (Tbl.find? s.host.ctxs s.vault.vctx.toNat).isSome = true) : Calm s (s.readPlan ws).1 := by
  have h0 : Calm s s := ⟨.refl hs hp, rfl⟩
  have h1 := blockRead_calm h0 .vault s.vault.vctx (nfld (ew ws 2) 0 48) (64 * nfld (ew ws 0) 16 16) on
  unfold State.readPlan
  simp only
  split
  · simpa [*] using h1
  · rename_i u ps he
    rw [he] at h1
    have hv : u.vault.vctx = s.vault.vctx := by rw [show u = _ from h1.rest]
    have h2 := blockRead_calm h1 .vault u.vault.vctx (nfld (ew ws 3) 0 48) (32 * nfld (ew ws 4) 0 16) (by rw [hv]; exact on)
    simp only at h2
    split
    · rename_i v e he'
      rwa [he'] at h2
    · rename_i v ks he'
      rwa [he'] at h2

/-! The vault's lines -/

theorem vaultLine_hit {m : Mem} (ho : m.stopped = false) (hp : m.parts = []) {l a : Nat} {t : Word} {x : SliceLine}
    (hf : m.sliceFind l = some x) (hx : x.poison = false) : m.vaultLine l a t = (m, .data x.data false) := by
  unfold Mem.vaultLine
  simp [ho, settle_quiet hp, hf, hx]

/-- What the lines of some runs hold. -/
def dataOf (D : Nat → Line) (rs : List (Nat × List (Nat × Byte))) : List Byte :=
  rs.flatMap fun r => r.2.map fun o => (D r.1).getD o.1 0

theorem vaultRun_hits {m : Mem} (ho : m.stopped = false) (hp : m.parts = []) (D : Nat → Line) (a n : Nat) (t : Word)
    (h : ∀ r ∈ runsOf a (List.replicate n 0), ∃ x, m.sliceFind r.1 = some x ∧ x.poison = false ∧ x.data = D r.1) :
    m.vaultRun id a n t VGot.none' = (m, ⟨dataOf D (runsOf a (List.replicate n 0)), false, false⟩) := by
  have key : ∀ (rs : List (Nat × List (Nat × Byte))) (f : Mem × VGot → Nat × List (Nat × Byte) → Mem × VGot) (g : VGot),
      (∀ r ∈ rs, ∀ g : VGot, f (m, g) r = (m, ⟨g.bytes ++ r.2.map (fun o => (D r.1).getD o.1 0), g.poison, g.held⟩)) →
      rs.foldl f (m, g) = (m, ⟨g.bytes ++ dataOf D rs, g.poison, g.held⟩) := by
    intro rs f
    induction rs with
    | nil => intro g _; simp [dataOf]
    | cons r rs ih =>
      intro g h
      rw [List.foldl_cons, h r List.mem_cons_self, ih _ fun r h' => h r (List.mem_cons_of_mem _ h')]
      simp [dataOf]
  unfold Mem.vaultRun
  rw [key]
  · simp [VGot.none']
  · intro r hr g
    obtain ⟨x, hf, hx, hd⟩ := h r hr
    simp [vaultLine_hit ho hp hf hx, LineRes.line, hd]

/-- Line j of some bytes. -/
def lineAt (bs : List Byte) (j : Nat) : Line := Vector.ofFn fun i => bs.getD (256 * j + i.val) 0

theorem lineAt_getD (bs : List Byte) (j o : Nat) (h : o < 256) : (lineAt bs j).getD o 0 = bs.getD (256 * j + o) 0 := by
  simp [lineAt, Vector.getD, h]

theorem lineAt_map (bs : List Byte) (j n : Nat) (h : n ≤ 256) (hl : 256 * j + n ≤ bs.length) :
    (List.range n).map (fun o => (lineAt bs j).getD o 0) = (bs.drop (256 * j)).take n := by
  apply List.ext_getElem
  · simp; omega
  · intro i h1 h2
    simp at h1 h2
    simp only [List.getElem_map, List.getElem_range, List.getElem_take, List.getElem_drop]
    rw [lineAt_getD bs j i (by omega), List.getD_eq_getElem?_getD, List.getElem?_eq_getElem (by omega)]
    rfl

theorem lineAt_all (bs : List Byte) (n : Nat) (hl : 256 * n ≤ bs.length) :
    (List.range n).flatMap (fun j => (List.range 256).map fun o => (lineAt bs j).getD o 0) = bs.take (256 * n) := by
  induction n with
  | zero => rfl
  | succ n ih =>
    rw [List.range_succ (n := n), List.flatMap_append, ih (by omega)]
    simp only [List.flatMap_cons, List.flatMap_nil, List.append_nil]
    rw [lineAt_map _ _ _ (Nat.le_refl _) (by omega), show 256 * (n + 1) = 256 * n + 256 by omega, List.take_add]

/-- A cache whose values come from numbers. -/
def mapSet (f : Nat → SliceLine) (x : CSet Nat) : CSet SliceLine :=
  ⟨x.ways.map fun w => w.map fun y => ⟨y.tag, f y.val⟩, x.plru⟩
def mapCache (f : Nat → SliceLine) (t : Tbl (CSet Nat)) : Tbl (CSet SliceLine) := t.map fun e => (e.1, mapSet f e.2)

theorem mapSet_find (f : Nat → SliceLine) (x : CSet Nat) (t : Nat) : (mapSet f x).find? t = (x.find? t).map f := by
  unfold mapSet CSet.find?
  induction x.ways with
  | nil => rfl
  | cons w ws ih =>
    cases w with
    | none => simpa using ih
    | some y => by_cases h : y.tag = t <;> simp [h, ih]

theorem mapCache_find (f : Nat → SliceLine) (t : Tbl (CSet Nat)) (a b : Nat) :
    cacheFind 16 (mapCache f t) a b = (cacheFind 16 t a b).map f := by
  unfold cacheFind
  rw [← mapSet_find]
  congr 1
  induction t with
  | nil => rfl
  | cons e t ih => obtain ⟨k, v⟩ := e; by_cases h : a = k <;> simp [mapCache, Tbl.get, h] ; simpa [mapCache] using ih

/-- The accession record of accession 9: module 0 of 1, no shard, IDKEY. -/
def accBytes : List Byte := wordBytes [9, 0, 0x0001000000000000, 0] ++ keyBytes identityKey
def manifest0 : List Byte := accBytes ++ slhSig accBytes
def commit0 : List Byte := wordBytes [0x8000000000000000, 9, 17152, 1] ++ keyBytes (sha256 manifest0)

/-- The first line of generation A. -/
def genLine : Nat := 393212 * 8192

/-- What stands in a line: the trusted key at DVA 0x100, the commit record, the manifest from 4 KiB on, or the context's
tables. -/
def lineOf0 (l : Nat) : SliceLine :=
  if l = 0x4001 then ⟨lineAt (keyBytes identityKey) 0, 3, false, false⟩
  else if l = genLine then ⟨lineAt commit0 0, 0, false, false⟩
  else if genLine < l then ⟨lineAt manifest0 (l - genLine - 16), 0, false, false⟩
  else ⟨lineOfWords ((tables.find? fun e => e.1 == l).elim [] fun e => e.2.2), 0, false, false⟩

/-- The lines the slices hold. -/
def lines0 : List Nat := [0x10, 0x20, 0x30, 0x4001, genLine] ++ (List.range 67).map fun j => genLine + 16 + j
def cache0 : Tbl (CSet Nat) := lines0.foldl (fun t l => (cacheFill 16 t (sliceSet l) l l).1) []

/-- One trusted key, at DVA 0x100. -/
def restoreKey : List Word := [0x10000, 0, 0, 0x100, 1, 0x40, 0, 0]

def sChosen : State :=
  let s := sVault (vaultJob (genA true) (.restore 5 8 restoreKey [] 0)) true []
  { s with mem := { s.mem with slice := mapCache lineOf0 cache0 } }

theorem cache0_find : ∀ l ∈ lines0, cacheFind 16 cache0 (sliceSet l) l = some l := each _ (by decide +kernel)

theorem sChosen_slice : sChosen.mem.slice = mapCache lineOf0 cache0 := by
  simp only [sChosen]

theorem sChosen_find {l : Nat} (h : l ∈ lines0) : sChosen.mem.sliceFind l = some (lineOf0 l) := by
  unfold Mem.sliceFind
  rw [sChosen_slice, mapCache_find, cache0_find l h, Option.map_some]

theorem accBytes_length : accBytes.length = 64 := by decide +kernel

theorem manifest0_length : manifest0.length = 17152 :=
  (List.length_append (as := accBytes)).trans (by rw [accBytes_length, (slhVerify_slhSig _).1])

theorem commit0_length : commit0.length = 64 := by decide +kernel

theorem keyOf_identity : keyOf (keyBytes identityKey) = identityKey := by
  unfold keyOf
  rw [List.take_of_length_le (by simp [keyBytes, beBytes_length])]
  rw [show keyBytes identityKey = slhIdentity.pkSeed ++ slhIdentity.root from
    keyBytes_pk slhIdentity (by simp [slhIdentity, shaBytes_length])]
  rfl

/-- A read within one line that the slices hold. -/
theorem readBytes_hit {m : Mem} {mst : Master} {req : Option (BitVec 4)} {a n l : Nat} {t : Word} {x : SliceLine} (ho : m.stopped = false)
    (hr : m.reaches mst false l = true) (hp : m.parts = []) (hf : m.sliceFind l = some x) (hx : x.poison = false)
    (hown : ownerOk x.owner req = true)
    (hl : runsOf a (List.replicate n 0) = [(l, (List.range n).map fun o => (o, 0))]) :
    (m.readBytes mst req a n t).2 = ((List.range n).map fun o => x.data.getD o 0, false) := by
  unfold Mem.readBytes Mem.readLine
  rw [hl]
  simp [ho, hr, settle_quiet hp, hf, hx, hown, LineRes.line, LineRes.bad, Function.comp_def]

/-- The plan's entry and what stands at the keys' address. -/
def placeC : State × Except BlockErr (List Byte) := sChosen.blockRead .vault sChosen.vault.vctx 0 64
def pagesC : State × Except BlockErr (List (Nat × Nat × Leaf)) := placeC.1.blockPages sChosen.vault.vctx false 0x100 32

theorem placeC_calm : Calm sChosen placeC.1 := blockRead_calm ⟨.refl rfl rfl, rfl⟩ _ _ _ _ (by decide +kernel)
theorem pagesC_calm : Calm sChosen pagesC.1 := blockPages_calm placeC_calm _ _ _ _ (by decide +kernel)

theorem placeC_ok : placeC.2.toOption = some (List.replicate 64 0) := by decide +kernel
theorem pagesC_ok : pagesC.2.toOption = some [(0x100, 32, leaf0)] := by decide +kernel

theorem eq_ok {ε α : Type} {x : Except ε α} {a : α} (h : x.toOption = some a) : x = .ok a := by
  cases x with
  | error e => cases h
  | ok b => exact congrArg _ (Option.some.inj h)

theorem pair_eq {α β : Type} {x : α × β} {b : β} (h : x.2 = b) : x = (x.1, b) := Prod.ext rfl h

/-- A result that is good, with its state. -/
theorem pair_ok {ε α : Type} {x : State × Except ε α} {a : α} (h : x.2.toOption = some a) : x = (x.1, .ok a) :=
  Prod.ext rfl (eq_ok h)

theorem pagesC_eq : placeC.1.blockPages sChosen.vault.vctx false 0x100 32 = (pagesC.1, .ok [(0x100, 32, leaf0)]) := by
  show pagesC = _
  exact pair_ok pagesC_ok

theorem placeC_eq : sChosen.blockRead .vault sChosen.vault.vctx 0 64 = (placeC.1, .ok (List.replicate 64 0)) := by
  show placeC = _
  exact pair_ok placeC_ok

theorem keysC : (placeC.1.blockRead .vault sChosen.vault.vctx 0x100 32).2 = .ok (keyBytes identityKey) := by
  have hc := pagesC_calm.mem
  have ho : pagesC.1.mem.stopped = false := by unfold Mem.stopped; rw [hc.halt]; rfl
  have hf : pagesC.1.mem.sliceFind 0x4001 = some (lineOf0 0x4001) := (hc.find _).trans (sChosen_find (by decide +kernel))
  have hb := readBytes_hit (mst := .vault) (req := some leaf0.owner) (a := leafDpa leaf0 0x100) (n := 32) (t := pagesC.1.tick) ho
    ((hc.reach _ _ _).trans (by decide +kernel)) hc.parts hf rfl (by decide +kernel) (by decide +kernel)
  have hk : (List.range 32).map (fun o => (lineOf0 0x4001).data.getD o 0) = keyBytes identityKey := by
    have := lineAt_map (keyBytes identityKey) 0 32 (by decide) (by simp [keyBytes, beBytes_length])
    rw [List.drop_zero, List.take_of_length_le (by simp [keyBytes, beBytes_length])] at this
    exact this
  unfold State.blockRead
  rw [pagesC_eq]
  simp only [List.foldl_cons, List.foldl_nil, hb, hk, List.nil_append, Bool.false_eq_true, if_false]

def planC : State × Except BlockErr (List (List Word) × List (BitVec 256)) := sChosen.readPlan restoreKey

theorem planC_calm : Calm sChosen planC.1 := readPlan_calm rfl rfl _ (by decide +kernel)

theorem planC_ok : planC.2 = .ok ([List.replicate 8 0], [identityKey]) := by
  have hv : placeC.1.vault.vctx = sChosen.vault.vctx := by rw [show placeC.1 = _ from placeC_calm.rest]
  unfold planC State.readPlan
  simp only [show nfld (ew restoreKey 0) 16 16 = 1 from rfl, show nfld (ew restoreKey 4) 0 16 = 1 from rfl,
    show nfld (ew restoreKey 2) 0 48 = 0 from rfl, show nfld (ew restoreKey 3) 0 48 = 0x100 from rfl]
  rw [show 64 * 1 = 64 from rfl, show 32 * 1 = 32 from rfl, placeC_eq]
  simp only [hv]
  have hk := keysC
  generalize placeC.1.blockRead .vault sChosen.vault.vctx 0x100 32 = r at hk
  obtain ⟨u, r⟩ := r
  simp only at hk
  subst hk
  simp only [show List.range 1 = [0] from rfl, List.map_cons, List.map_nil, Nat.mul_zero, List.drop_zero, keyOf_identity]
  exact congrArg _ (Prod.ext (by decide +kernel) rfl)

/-- The image as the vault gives it. -/
def image0 : VImage :=
  { index := 0, cr := leWords 8 commit0, mdigest := keyBytes (sha256 manifest0), manifest := manifest0, gen := some false, bytes := [] }

theorem vaultOwn_hits {s : State} (h : Calm sChosen s) (off n j : Nat) (bs : List Byte)
    (hr : runsOf (0x200000 * 393212 + off) (List.replicate n 0) =
      (List.range j).map fun i => (genLine + off / 256 + i, (List.range (Min.min 256 (n - 256 * i))).map fun o => (o, 0)))
    (hl : ∀ i < j, genLine + off / 256 + i ∈ lines0 ∧ (lineOf0 (genLine + off / 256 + i)).data = lineAt bs i) :
    s.vaultOwn false off n = (s, ⟨(List.range j).flatMap (fun i => (List.range (Min.min 256 (n - 256 * i))).map fun o => (lineAt bs i).getD o 0),
      false, false⟩) := by
  have hg : s.mem.genDpa false off = 0x200000 * 393212 + off := by
    unfold Mem.genDpa Mem.genPage; rw [h.mem.pages]; rfl
  have ho : s.mem.stopped = false := by unfold Mem.stopped; rw [h.mem.halt]; rfl
  have hp (l : Nat) : (lineOf0 l).poison = false := by unfold lineOf0; (repeat' split) <;> rfl
  unfold State.vaultOwn
  rw [hg, vaultRun_hits ho h.mem.parts (fun l => (lineOf0 l).data), hr]
  · refine congrArg (fun b => (s, (⟨b, false, false⟩ : VGot))) ?_
    rw [dataOf, List.flatMap_map]
    refine List.flatMap_congr fun i hi => ?_
    have hd := (hl i (List.mem_range.mp hi)).2
    generalize genLine + off / 256 + i = l at hd
    rw [← hd, List.map_map]
    exact List.map_congr_left fun o _ => by rfl
  · rw [hr]
    intro r hm
    obtain ⟨i, hi, rfl⟩ := List.mem_map.mp hm
    exact ⟨_, (h.mem.find _).trans (sChosen_find (hl i (List.mem_range.mp hi)).1), hp _, rfl⟩

theorem runs_commit : runsOf (0x200000 * 393212 + 0) (List.replicate 64 0) =
    (List.range 1).map fun i => (genLine + 0 / 256 + i, (List.range (Min.min 256 (64 - 256 * i))).map fun o => (o, 0)) := by decide +kernel

theorem runs_manifest : runsOf (0x200000 * 393212 + 0x1000) (List.replicate 17152 0) =
    (List.range 67).map fun i => (genLine + 0x1000 / 256 + i, (List.range (Min.min 256 (17152 - 256 * i))).map fun o => (o, 0)) := by
  decide +kernel

theorem manifestLen0 : manifestLen (leWords 8 commit0) = 17152 := by decide +kernel

theorem lines0_manifest : ∀ i ∈ List.range 67, genLine + 0x1000 / 256 + i ∈ lines0 := each _ (by decide +kernel)

theorem commit0_drop : commit0.drop 32 = keyBytes (sha256 manifest0) := by
  unfold commit0
  exact List.drop_left' (by decide +kernel)

theorem vaultImage0 {s : State} (h : Calm sChosen s) : s.vaultImage false = (s, image0, ⟨[], false, false⟩) := by
  have h1 := vaultOwn_hits h 0 64 1 commit0 runs_commit fun i hi => by
    obtain rfl : i = 0 := by omega
    exact ⟨by decide +kernel, rfl⟩
  have b1 : (List.range 1).flatMap (fun i => (List.range (Min.min 256 (64 - 256 * i))).map fun o => (lineAt commit0 i).getD o 0) =
      commit0 := by
    have := lineAt_map commit0 0 64 (by decide) (by rw [commit0_length])
    rw [List.drop_zero, List.take_of_length_le (by rw [commit0_length])] at this
    have one : ∀ f : Nat → List Byte, (List.range 1).flatMap f = f 0 := fun f => by simp
    rw [one, show Min.min 256 (64 - 256 * 0) = 64 from by decide]
    exact this
  have h2 := vaultOwn_hits h 0x1000 17152 67 manifest0 runs_manifest fun i hi =>
    ⟨lines0_manifest i (List.mem_range.mpr hi), by
      unfold lineOf0
      have hg : genLine = 3221192704 := by decide
      rw [if_neg (by omega), if_neg (by omega), if_pos (by omega), show genLine + 0x1000 / 256 + i - genLine - 16 = i by omega]⟩
  have b2 : (List.range 67).flatMap (fun i => (List.range (Min.min 256 (17152 - 256 * i))).map fun o => (lineAt manifest0 i).getD o 0) =
      manifest0 := by
    have := lineAt_all manifest0 67 (by rw [manifest0_length])
    rw [List.take_of_length_le (by rw [manifest0_length])] at this
    rw [← this]
    refine List.flatMap_congr fun i hi => ?_
    rw [Nat.min_eq_left (by have := List.mem_range.mp hi; omega)]
    rw [this]
  unfold State.vaultImage
  rw [h1, b1]
  simp only [manifestLen0]
  rw [h2, b2, commit0_drop]
  simp only [image0, Bool.or_self]

theorem records0 : image0.records = [] := by
  have hl : image0.manifest.length = 17152 := manifest0_length
  unfold VImage.records
  rw [hl]
  simp

theorem image0_good : image0.good [identityKey] = true := by
  have hk : image0.idkey = identityKey := by
    have h : image0.manifest.drop 32 = keyBytes identityKey ++ slhSig accBytes := by
      have e : image0.manifest = wordBytes [9, 0, 0x0001000000000000, 0] ++ (keyBytes identityKey ++ slhSig accBytes) := by
        simp only [image0, manifest0, accBytes, List.append_assoc]
      rw [e]
      exact List.drop_left' (by decide)
    have t : (keyBytes identityKey ++ slhSig accBytes).take 32 = keyBytes identityKey :=
      List.take_left' (by simp [keyBytes, beBytes_length])
    have k := keyOf_identity
    unfold keyOf at k
    rw [List.take_of_length_le (by simp [keyBytes, beBytes_length])] at k
    unfold VImage.idkey keyOf
    rw [h, t, k]
  have hm : image0.manifest = manifest0 := by simp only [image0]
  have hd : image0.manifest.drop (image0.manifest.length - 17088) = slhSig accBytes := by
    rw [hm, manifest0_length]
    unfold manifest0
    exact List.drop_left' accBytes_length
  have ht : image0.manifest.take (image0.manifest.length - 17088) = accBytes := by
    rw [hm, manifest0_length]
    unfold manifest0
    exact List.take_left' accBytes_length
  have hv : (ew image0.cr 0).getLsbD 63 = true := by decide +kernel
  have hl : image0.manifest.length = 17152 := by rw [hm, manifest0_length]
  unfold VImage.good
  have hg : image0.mdigest = keyBytes (sha256 image0.manifest) := by simp only [image0]
  rw [hd, ht, hk, hv, records0, hl, hg]
  simp only [(slhVerify_slhSig accBytes).2, beq_self_eq_true, List.length_nil, List.all_nil, Nat.mul_zero, Nat.add_zero, List.contains_cons, Bool.true_or,
    decide_true, Bool.and_self]

def cand0 : Candidate := { images := [image0], whole := true, count := 1, first := 0 }

theorem vaultSets0 {s : State} (h : Calm sChosen s) : s.vaultSets 0 = (s, [cand0]) := by
  have hv : s.vault = vaultJob (genA true) (.restore 5 8 restoreKey [] 0) := by rw [h.rest]; rfl
  unfold State.vaultSets
  rw [show sortBy (fun a b => decide ((s.gen a).acc.toNat ≥ (s.gen b).acc.toNat))
    ([false, true].filter fun g => (s.gen g).committed && (0 == 0 || 0 == (genIdx g).val + 1)) = [false] by
      simp only [State.gen, hv]; rfl]
  simp only [List.foldl_cons, List.foldl_nil, vaultImage0 h, List.nil_append]
  have : (s.gen false).shards.length = 1 := by simp only [State.gen, hv]; rfl
  rw [this]; rfl

theorem candC : planC.1.candidates restoreKey [] = (planC.1, .ok ([cand0], ⟨none, 0, none⟩)) := by
  unfold State.candidates
  rw [if_neg (by decide), show nfld (ew restoreKey 0) 62 2 = 0 by decide, vaultSets0 planC_calm]

/-- The first of whole, good candidates that loads is chosen. -/
theorem choose_one (s : State) (keys : List (BitVec 256)) (es : List (List Word)) (x : Candidate) (hw : x.whole = true)
    (hg : (x.images.all fun y => y.good keys) = true) (hl : s.loadSet x.images es = (s, .ok [])) :
    s.choose keys es [x] ⟨none, 0, none⟩ = (s, ⟨some (x, []), 0, none⟩) := by
  simp only [State.choose, List.foldl_cons, List.foldl_nil, hw, hg, hl, Bool.and_true, Bool.not_true, Bool.false_eq_true, if_false]

theorem choiceC (s : State) (es : List (List Word)) :
    s.choose [identityKey] es [cand0] ⟨none, 0, none⟩ = (s, ⟨some (cand0, []), 0, none⟩) := by
  refine choose_one s [identityKey] es cand0 rfl ?_ ?_
  · simp only [cand0, List.all_cons, List.all_nil, image0_good, Bool.and_true]
  · unfold State.loadSet
    simp only [cand0, List.flatMap_cons, List.flatMap_nil, records0, List.zipIdx_nil, List.map_nil, List.append_nil,
      List.foldl_nil]

/-- The result record of the chosen set. -/
def recordC : State × Except BlockErr Unit :=
  planC.1.blockWrite .vault planC.1.vault.vctx 0x40 (wordBytes [0, 9, 0, 0, 0, 0, 0, 0])

theorem recordC_vault : recordC.1.vault = sChosen.vault := by
  have hv : planC.1.vault = sChosen.vault := by rw [show planC.1 = _ from planC_calm.rest]
  unfold recordC
  refine blockWrite_vault planC_calm _ _ _ _ ?_
  rw [hv]
  decide +kernel

theorem placeSet_none (s : State) : s.placeSet [] [List.replicate 8 0] = (s, true) := rfl

theorem planC_eq : sChosen.readPlan restoreKey = (planC.1, .ok ([List.replicate 8 0], [identityKey])) := by
  show planC = _
  exact pair_eq planC_ok

theorem witness_VaultCompletes_chosen : FabOn sChosen ∧ sChosen.glob.stackRun = true ∧
    sChosen.vault.jobs = [.restore 5 8 restoreKey [] 0] ∧
    sChosen.readPlan restoreKey = (planC.1, .ok ([List.replicate 8 0], [identityKey])) ∧
    (∀ e ∈ [List.replicate 8 (0 : Word)], (shFmt e).isSome = true) ∧
    planC.1.candidates restoreKey [] = (planC.1, .ok ([cand0], ⟨none, 0, none⟩)) ∧
    planC.1.choose [identityKey] [List.replicate 8 0] [cand0] ⟨none, 0, none⟩ = (planC.1, ⟨some (cand0, []), 0, none⟩) ∧
    planC.1.placeSet [] [List.replicate 8 0] = (planC.1, true) ∧ recordC.1.vault = sChosen.vault :=
  ⟨fabOn _ rfl rfl rfl, by decide +kernel, by decide +kernel, planC_eq, each _ (by decide +kernel), candC,
    choiceC _ _, placeSet_none _, recordC_vault⟩

/-! ### The registrar

The mailbox is page 3, within the curator's window; fence 4 is LIVE and belongs to context 0; context 2 is DEAD. -/

def fence4 : List Word := [7, 0x8000000080000000, 0, 0]

/-- The slot at HEAD holds these words; leaf 0 of context 1 is as given. The input of OPEN names class 1 and key 7. -/
def sBox (r : Registrar) (leaf : Word) (ws : List Word) : State :=
  { s0 with
    host := { s0.host with ctxs := [(0, ctx1), (1, ctx1), (2, ctx2)], fences := [(4, fence4), (5, fence5)] }
    reg := { r with mbox := 0x600001, tail := 1 }
    mem := { s0.mem with
      curwin := s0.mem.curwin.set 0 0x0010000000600007
      slice := slices [(0x10, 0, [0x2001]), (0x20, 0, [0x3001]), (0x30, 0, [leaf]), (0x6000, 0, ws), (0x4000, 3, []),
        (0x6014, 0, [0, 0, 0, 0, 0, 0, 0, 0, 1, 0, 0, 0, 0x0700000000000000])] } }

/-- A request: kind, context and fence 4; value 9; input of this length and output from the page's lines 16 and 1 on;
session n. -/
def slotIn (len kind ctx cap n : Word) : List Word :=
  [kind <<< 56 ||| ctx <<< 42 ||| 4, 9, len <<< 32 ||| 0x1000, cap <<< 32 ||| 0x100, n, 0, 0x100, 0]
def slot (kind ctx cap n : Word) : List Word := slotIn 32 kind ctx cap n

/-- What Boxed asks of the slot and the fence, as a test. -/
def boxedB (s : State) (ws : List Word) : Bool :=
  s.reg.mbox.getLsbD 0 && decide (s.reg.head ≠ s.reg.tail) &&
    decide (ws = leWords 8 ((awake s).mboxRead (64 * (s.reg.head.toNat % 64)) 64).2) &&
    decide (Tbl.find? s.host.fences ((ew ws 0).toNat % 2 ^ 14) = some fence4)

theorem read_slot {ws : List Word} (r : State × List Byte) (h : ws = leWords 8 r.2) :
    ∃ bs, r = (r.1, bs) ∧ ws = leWords 8 bs := ⟨r.2, rfl, h⟩

/-- The state a request finds after its slot is read. -/
def boxRead (s : State) : State := ((awake s).mboxRead (64 * (s.reg.head.toNat % 64)) 64).1

theorem boxed_of {s : State} {ws : List Word} (hf : FabOn s) (h : boxedB s ws = true) : Boxed s (boxRead s) ws := by
  unfold boxedB at h
  rw [Bool.and_eq_true, Bool.and_eq_true, Bool.and_eq_true, decide_eq_true_eq, decide_eq_true_eq, decide_eq_true_eq] at h
  obtain ⟨⟨⟨h1, h2⟩, h3⟩, h4⟩ := h
  have h5 : fLive fence4 = true ∧ fOwner fence4 = 0 := by decide
  exact ⟨hf, h1, h2, read_slot _ h3, fence4, h4, h5⟩

theorem atHead_of (r : Registrar) (leaf : Word) (ws : List Word) (kind : Nat) (bad : Bool)
    (h : (boxedB (sBox r leaf ws) ws && r.opened.isNone && decide ((ew ws 0 >>> 56).toNat = kind) && decide (badRequest ws = bad)) = true) :
    AtHead (sBox r leaf ws) (boxRead (sBox r leaf ws)) kind bad ws := by
  simp only [Bool.and_eq_true, decide_eq_true_eq, Option.isNone_iff_eq_none] at h
  exact { boxed_of (fabOn (sBox r leaf ws) rfl rfl rfl) h.1.1.1 with closed := h.1.1.2, kind := h.1.2, bad := h.2 }

/-- What a request's input of n bytes is, and the state its read leaves. -/
def inputRead (s : State) (ws : List Word) (n : Nat) : State × List Byte :=
  s.mboxRead ((ew ws 2).toNat % 2 ^ 21) (Min.min n ((ew ws 2 >>> 32).toNat % 2 ^ 21))
def inputBytes (s : State) (ws : List Word) (n : Nat) : List Byte := ((inputRead s ws n).2 ++ List.replicate n 0).take n

theorem inputIs (s : State) (ws : List Word) (n : Nat) : InputIs s (inputRead s ws n).1 ws n (inputBytes s ws n) :=
  ⟨(inputRead s ws n).2, rfl, rfl⟩

/-- The registrar is ready; context 1 is not FINAL. -/
def reg0' : Registrar := { Registrar.reset with idReady := true, cert := List.replicate 17168 1 }
def sBox0 (ws : List Word) : State := sBox reg0' 0x40030B ws

theorem witness_MailboxRequests_tail : pathOpen s0 .host ∧ ((64 : BitVec 32) - s0.reg.head).toNat ≤ 64 ∧
    64 < ((65 : BitVec 32) - s0.reg.head).toNat := ⟨open0 _ _ rfl rfl Nat.zero_lt_two rfl, by decide, by decide⟩

/-- A reserved bit of word 4 is set; the kind is 0, or 9. -/
theorem witness_MailboxRequests_bad : (∀ k ∈ [(1 : Word), 2, 3, 4, 5, 6, 7, 8],
      AtHead (sBox0 (slot k 1 0 0x400)) (boxRead (sBox0 (slot k 1 0 0x400))) k.toNat true (slot k 1 0 0x400)) ∧
    (∀ k ∈ [(0 : Word), 9], Boxed (sBox0 (slot k 1 0 0)) (boxRead (sBox0 (slot k 1 0 0))) (slot k 1 0 0)) ∧ reg0'.opened = none ∧
    ew (slot 0 1 0 0) 0 >>> 56 = 0 ∧ 8 < (ew (slot 9 1 0 0) 0 >>> 56).toNat :=
  ⟨fun k h => atHead_of _ _ _ _ _ ((each _ (by decide +kernel) : ∀ k ∈ [(1 : Word), 2, 3, 4, 5, 6, 7, 8],
      (boxedB (sBox0 (slot k 1 0 0x400)) (slot k 1 0 0x400) && reg0'.opened.isNone && decide ((ew (slot k 1 0 0x400) 0 >>> 56).toNat = k.toNat) &&
        decide (badRequest (slot k 1 0 0x400) = true)) = true) k h),
    fun k h => boxed_of (fabOn _ rfl rfl rfl)
      ((each _ (by decide +kernel) : ∀ k ∈ [(0 : Word), 9], boxedB (sBox0 (slot k 1 0 0)) (slot k 1 0 0) = true) k h),
    rfl, by decide, by decide⟩

theorem witness_MailboxRequests_cert : (∀ cap ∈ [(0x4400 : Word), 0x430F],
      AtHead (sBox0 (slot 1 1 cap 0)) (boxRead (sBox0 (slot 1 1 cap 0))) 1 false (slot 1 1 cap 0)) ∧
    (∀ k ∈ [(1 : Word), 3], AtHead (sBox Registrar.reset 0x40030B (slot k 1 0x4800 0)) (boxRead (sBox Registrar.reset 0x40030B (slot k 1 0x4800 0)))
      k.toNat false (slot k 1 0x4800 0)) ∧
    reg0'.idReady = true ∧ reg0'.cert.length ≤ outSpace (slot 1 1 0x4400 0) ∧ outSpace (slot 1 1 0x430F 0) < reg0'.cert.length ∧
    Registrar.reset.idReady = false ∧
    AtHead (sBox0 (slot 2 1 1184 0)) (boxRead (sBox0 (slot 2 1 1184 0))) 2 false (slot 2 1 1184 0) :=
  ⟨fun k h => atHead_of _ _ _ _ _ ((each _ (by decide +kernel) : ∀ k ∈ [(0x4400 : Word), 0x430F],
      (boxedB (sBox0 (slot 1 1 k 0)) (slot 1 1 k 0) && reg0'.opened.isNone && decide ((ew (slot 1 1 k 0) 0 >>> 56).toNat = 1) &&
        decide (badRequest (slot 1 1 k 0) = false)) = true) k h),
    fun k h => atHead_of _ _ _ _ _ ((each _ (by decide +kernel) : ∀ k ∈ [(1 : Word), 3],
      (boxedB (sBox Registrar.reset 0x40030B (slot k 1 0x4800 0)) (slot k 1 0x4800 0) && Registrar.reset.opened.isNone &&
        decide ((ew (slot k 1 0x4800 0) 0 >>> 56).toNat = k.toNat) && decide (badRequest (slot k 1 0x4800 0) = false)) = true) k h),
    rfl, by unfold reg0'; rw [List.length_replicate]; decide, by unfold reg0'; rw [List.length_replicate]; decide, rfl,
    atHead_of _ _ _ _ _ (by decide +kernel)⟩

/-- A report of the module and of context 1, and one of a DEAD context. -/
theorem witness_MailboxRequests_report : (∀ c ∈ [(0 : Word), 1, 2],
      AtHead (sBox0 (slot 3 c 0x4800 0)) (boxRead (sBox0 (slot 3 c 0x4800 0))) 3 false (slot 3 c 0x4800 0)) ∧
    (∀ s ws, InputIs s (inputRead s ws 32).1 ws 32 (inputBytes s ws 32)) ∧
    ReqCtx (sBox0 (slot 3 1 0x4800 0)) (slot 3 1 0x4800 0) 1 ctx1 ∧ ReqCtx (sBox0 (slot 3 0 0x4800 0)) (slot 3 0 0x4800 0) 0 ctx1 ∧
    ReqCtx (sBox0 (slot 3 2 0x4800 0)) (slot 3 2 0x4800 0) 2 ctx2 ∧ ctxState ctx1 = 1 ∧ ctxState ctx2 ≠ 1 :=
  ⟨fun c h => atHead_of _ _ _ _ _ ((each _ (by decide +kernel) : ∀ c ∈ [(0 : Word), 1, 2],
      (boxedB (sBox0 (slot 3 c 0x4800 0)) (slot 3 c 0x4800 0) && reg0'.opened.isNone && decide ((ew (slot 3 c 0x4800 0) 0 >>> 56).toNat = 3) &&
        decide (badRequest (slot 3 c 0x4800 0) = false)) = true) c h),
    fun s ws => inputIs s ws 32, ⟨by decide, rfl⟩, ⟨by decide, rfl⟩, ⟨by decide, rfl⟩, by decide, by decide⟩

/-- OPEN for class 1 with key 7; class 1 is free, bound to this key or to another, or the context is FINAL without it; a
STAGED image and a trial. -/
def sOpen (r : Registrar) (ws : List Word) : State := sBox r 0x40030B ws
def regBound (k : BitVec 256) : Registrar := { reg0' with ctxs := [(1, { CtxSec.none with bound := [(1, k)] })] }
def regFinal : Registrar := { reg0' with ctxs := [(1, { CtxSec.none with final := true, bound := [(2, 8)], owners := [2] })] }
def slotOpen (c : Word) : List Word := slotIn 1128 4 c 24 0
def slotZero : List Word := slotIn 1088 4 1 24 0
def openInput (r : Registrar) (ws : List Word) : List Byte := inputBytes (boxRead (sOpen r ws)) ws 18216
def clsOf (bs : List Byte) : Nat := leNat ((bs.drop 1088).take 8)
def tenant1 : Tenant := ⟨1, 1, 3, 0, 1⟩

theorem witness_MailboxRequests_open : (∀ r ∈ [reg0', regBound 7, regBound 8, regFinal, { reg0' with staged := true }, { reg0' with trial := true }],
      AtHead (sOpen r (slotOpen 1)) (boxRead (sOpen r (slotOpen 1))) 4 false (slotOpen 1) ∧ clsOf (openInput r (slotOpen 1)) = 1 ∧
        keyOf ((openInput r (slotOpen 1)).drop 1096) = 7) ∧
    (∀ c ∈ [(0 : Word), 2], AtHead (sOpen reg0' (slotOpen c)) (boxRead (sOpen reg0' (slotOpen c))) 4 false (slotOpen c) ∧
      clsOf (openInput reg0' (slotOpen c)) = 1) ∧
    AtHead (sOpen reg0' slotZero) (boxRead (sOpen reg0' slotZero)) 4 false slotZero ∧ clsOf (openInput reg0' slotZero) = 0 ∧
    (∀ s ws, InputIs s (inputRead s ws 18216).1 ws 18216 (inputBytes s ws 18216)) ∧
    ReqCtx (sOpen reg0' (slotOpen 1)) (slotOpen 1) 1 ctx1 ∧ ReqCtx (sOpen reg0' (slotOpen 0)) (slotOpen 0) 0 ctx1 ∧
    ReqCtx (sOpen reg0' (slotOpen 2)) (slotOpen 2) 2 ctx2 ∧ reg0'.tenants = [] ∧ reg0'.staged = false ∧ reg0'.trial = false ∧
    ((sOpen reg0' (slotOpen 1)).sec 1).final = false ∧ byClass ((sOpen reg0' (slotOpen 1)).sec 1).bound 1 = none ∧
    byClass ((sOpen (regBound 7) (slotOpen 1)).sec 1).bound 1 = some 7 ∧ byClass ((sOpen (regBound 8) (slotOpen 1)).sec 1).bound 1 = some 8 ∧
    ((sOpen (regBound 8) (slotOpen 1)).sec 1).final = false ∧ ((sOpen regFinal (slotOpen 1)).sec 1).final = true ∧
    byClass ((sOpen regFinal (slotOpen 1)).sec 1).bound 1 = none := by
  have h : ∀ r ∈ [reg0', regBound 7, regBound 8, regFinal, { reg0' with staged := true }, { reg0' with trial := true }],
      ((boxedB (sOpen r (slotOpen 1)) (slotOpen 1) && r.opened.isNone && decide ((ew (slotOpen 1) 0 >>> 56).toNat = 4) &&
        decide (badRequest (slotOpen 1) = false)) && decide (clsOf (openInput r (slotOpen 1)) = 1) &&
        decide (keyOf ((openInput r (slotOpen 1)).drop 1096) = 7)) = true := each _ (by decide +kernel)
  have h' : ∀ c ∈ [(0 : Word), 2], ((boxedB (sOpen reg0' (slotOpen c)) (slotOpen c) && reg0'.opened.isNone &&
      decide ((ew (slotOpen c) 0 >>> 56).toNat = 4) && decide (badRequest (slotOpen c) = false)) &&
        decide (clsOf (openInput reg0' (slotOpen c)) = 1)) = true := each _ (by decide +kernel)
  refine ⟨fun r hr => ?_, fun c hc => ?_, atHead_of _ _ _ _ _ (by decide +kernel), by decide +kernel, fun s ws => inputIs s ws 18216,
    ⟨by decide, rfl⟩, ⟨by decide, rfl⟩, ⟨by decide, rfl⟩, rfl, rfl, rfl, by decide +kernel, by decide +kernel, by decide +kernel,
    by decide +kernel, by decide +kernel, by decide +kernel, by decide +kernel⟩
  · have := h r hr
    rw [Bool.and_eq_true, Bool.and_eq_true, decide_eq_true_eq, decide_eq_true_eq] at this
    exact ⟨atHead_of _ _ _ _ _ this.1.1, this.1.2, this.2⟩
  · have := h' c hc
    rw [Bool.and_eq_true, decide_eq_true_eq] at this
    exact ⟨atHead_of _ _ _ _ _ this.1, this.2⟩

/-- Session 0 is open for class 1 of context 1. -/
def regTenant : Registrar := { reg0' with tenants := [(0, tenant1)] }
def sTenant (ws : List Word) : State := sBox regTenant 0x40030B ws

theorem witness_MailboxRequests_msg : (∀ k ∈ [(5 : Word), 6], ∀ e ∈ [((1 : Word), (0 : Word)), (0, 0), (2, 0), (1, 9)],
      AtHead (sTenant (slot k e.1 32 e.2)) (boxRead (sTenant (slot k e.1 32 e.2))) k.toNat false (slot k e.1 32 e.2)) ∧
    (∀ s ws, InputIs s (inputRead s ws 80).1 ws 80 (inputBytes s ws 80)) ∧
    (∀ k ∈ [(5 : Word), 6], ReqCtx (sTenant (slot k 1 32 0)) (slot k 1 32 0) 1 ctx1 ∧ ReqCtx (sTenant (slot k 0 32 0)) (slot k 0 32 0) 0 ctx1 ∧
      ReqCtx (sTenant (slot k 2 32 0)) (slot k 2 32 0) 2 ctx2 ∧ ReqCtx (sTenant (slot k 1 32 9)) (slot k 1 32 9) 1 ctx1 ∧
      Tbl.find? (sTenant (slot k 1 32 0)).reg.tenants ((ew (slot k 1 32 0) 4).toNat % 2 ^ 10) = some tenant1 ∧
      Tbl.find? (sTenant (slot k 1 32 9)).reg.tenants ((ew (slot k 1 32 9) 4).toNat % 2 ^ 10) = none) ∧
    tenant1.ctx = 1 ∧ ctxState ctx1 = 1 ∧ ctxState ctx2 ≠ 1 := by
  have h : ∀ k ∈ [(5 : Word), 6], ∀ e ∈ [((1 : Word), (0 : Word)), (0, 0), (2, 0), (1, 9)],
      (boxedB (sTenant (slot k e.1 32 e.2)) (slot k e.1 32 e.2) && regTenant.opened.isNone &&
        decide ((ew (slot k e.1 32 e.2) 0 >>> 56).toNat = k.toNat) && decide (badRequest (slot k e.1 32 e.2) = false)) = true := by
    simp only [List.forall_mem_cons, List.not_mem_nil, false_implies, implies_true, and_true]
    decide +kernel
  refine ⟨fun k hk e he => atHead_of _ _ _ _ _ (h k hk e he), fun s ws => inputIs s ws 80, ?_, rfl, by decide, by decide⟩
  simp only [List.forall_mem_cons, List.not_mem_nil, false_implies, implies_true, and_true]
  exact ⟨⟨⟨by decide, rfl⟩, ⟨by decide, rfl⟩, ⟨by decide, rfl⟩, ⟨by decide, rfl⟩, by decide +kernel, by decide +kernel⟩,
    ⟨by decide, rfl⟩, ⟨by decide, rfl⟩, ⟨by decide, rfl⟩, ⟨by decide, rfl⟩, by decide +kernel, by decide +kernel⟩

/-! ### Operations of an opened message, measurement, firmware registers -/

def msg1 (op : BitVec 8) : TenantMsg := { op := op, arg := 0x402, key := 11 }

/-- MSG of session 0 has opened a message with this operation; context 1 is in this state, and owns session 2, the transit
job and the vault, whose key slots hold `now`. -/
def sMsg (op : BitVec 8) (x : CtxSec) (now : Option (BitVec 256)) (staged : Bool) : State :=
  let s := sBox { regTenant with opened := some (0, msg1 op), ctxs := [(1, x)], staged := staged } 0x40030B (slot 5 1 32 0)
  { s with
    fab := { sUp.fab with sess := [(2, { (sess2 .up) with key1 := now })] }
    tr := { trJob with slot0 := { key := now, probes := 0, steps := [], spent := [] } }
    vault := { vault1 with key0 := now } }

theorem openedMsg (op : BitVec 8) (x : CtxSec) (now : Option (BitVec 256)) (staged : Bool)
    (h : boxedB (sMsg op x now staged) (slot 5 1 32 0) = true) :
    OpenedMsg (sMsg op x now staged) (boxRead (sMsg op x now staged)) (slot 5 1 32 0) 0 (msg1 op) tenant1 :=
  { boxed_of (fabOn (sMsg op x now staged) rfl rfl rfl) h with msg := rfl, tenant := rfl }

/-- Context 1 FINAL with these owner classes and pending submissions. -/
def secOf (owners : List Nat) (pend : List (Nat × Nat × Nat × BitVec 256)) : CtxSec :=
  { CtxSec.none with final := true, owners := owners, pend := pend }

theorem witness_TenantOperations_refused : (∀ e ∈ msgOps,
      OpenedMsg (sMsg (BitVec.ofNat 8 e.2) CtxSec.none none false) (boxRead (sMsg (BitVec.ofNat 8 e.2) CtxSec.none none false)) (slot 5 1 32 0) 0
        (msg1 (BitVec.ofNat 8 e.2)) tenant1 ∧
      OpenedMsg (sMsg (BitVec.ofNat 8 e.2) (secOf [1] []) none true) (boxRead (sMsg (BitVec.ofNat 8 e.2) (secOf [1] []) none true)) (slot 5 1 32 0) 0
        (msg1 (BitVec.ofNat 8 e.2)) tenant1 ∧
      (msg1 (BitVec.ofNat 8 e.2)).op.toNat = e.2) ∧
    CtxSec.none.final = false ∧ (secOf [1] []).final = true := by
  have h : ∀ e ∈ msgOps, boxedB (sMsg (BitVec.ofNat 8 e.2) CtxSec.none none false) (slot 5 1 32 0) = true ∧
      boxedB (sMsg (BitVec.ofNat 8 e.2) (secOf [1] []) none true) (slot 5 1 32 0) = true ∧
      (BitVec.ofNat 8 e.2).toNat = e.2 := each _ (by decide +kernel)
  exact ⟨fun e m => ⟨openedMsg _ _ _ _ (h e m).1, openedMsg _ _ _ _ (h e m).2.1, (h e m).2.2⟩, rfl, rfl⟩

theorem witness_TenantOperations_own : (∀ op ∈ [(1 : BitVec 8), 2],
      OpenedMsg (sMsg op (secOf [1] []) none false) (boxRead (sMsg op (secOf [1] []) none false)) (slot 5 1 32 0) 0 (msg1 op) tenant1) ∧
    Tbl.find? (sMsg 1 (secOf [1] []) none false).host.ctxs tenant1.ctx.toNat = some ctx1 :=
  ⟨fun op m => openedMsg _ _ _ _ ((each _ (by decide +kernel) : ∀ op ∈ [(1 : BitVec 8), 2],
    boxedB (sMsg op (secOf [1] []) none false) (slot 5 1 32 0) = true) op m), by decide +kernel⟩

/-- The joint keys 3, 4 and 5 with their targets: session 2 slot 1, slot 0, slot 0. -/
def joint : List (Nat × Nat) := [(3, 5), (4, 0), (5, 0)]

/-- Each joint key stands, is new to the one owner, is sent by the first and by the second of two, and differs. -/
theorem witness_TenantOperations_joint : ∀ e ∈ joint, ∀ c ∈ [(some (11 : BitVec 256), secOf [1] []), (none, secOf [1] []), (none, secOf [1, 2] []),
      (none, secOf [2, 1] [(e.1, e.2, 2, 11)]), (none, secOf [1, 2] [(e.1, e.2, 2, 12)])],
    OpenedMsg (sMsg (BitVec.ofNat 8 e.1) c.2 c.1 false) (boxRead (sMsg (BitVec.ofNat 8 e.1) c.2 c.1 false)) (slot 5 1 32 0) 0
      (msg1 (BitVec.ofNat 8 e.1)) tenant1 := by
  have h : ∀ e ∈ joint, ∀ c ∈ [(some (11 : BitVec 256), secOf [1] []), (none, secOf [1] []), (none, secOf [1, 2] []),
      (none, secOf [2, 1] [(e.1, e.2, 2, 11)]), (none, secOf [1, 2] [(e.1, e.2, 2, 12)])],
      boxedB (sMsg (BitVec.ofNat 8 e.1) c.2 c.1 false) (slot 5 1 32 0) = true := by
    simp only [joint, List.forall_mem_cons, List.not_mem_nil, false_implies, implies_true, and_true]
    decide +kernel
  exact fun e he c hc => openedMsg _ _ _ _ (h e he c hc)

/-- Of the two owners the other has sent the same key, another key, or none. -/
theorem witness_TenantOperations_waiting : ∀ e ∈ joint,
    let waiting (x : CtxSec) := x.pend.filter fun y => y.1 = e.1 ∧ y.2.1 = e.2
    (∃ y ∈ waiting (secOf [1, 2] [(e.1, e.2, 2, 12)]), y.2.2.2 ≠ (11 : BitVec 256)) ∧
    (∀ y ∈ waiting (secOf [2, 1] [(e.1, e.2, 2, 11)]), y.2.2.2 = (11 : BitVec 256)) ∧
    (∀ k ∈ [2, 1], k = tenant1.cls ∨ ∃ y ∈ waiting (secOf [2, 1] [(e.1, e.2, 2, 11)]), y.2.2.1 = k) ∧
    waiting (secOf [1, 2] []) = [] ∧ (2 : Nat) ≠ tenant1.cls := by
  simp only [joint, List.forall_mem_cons, List.not_mem_nil, false_implies, implies_true, and_true]
  decide +kernel

theorem witness_TenantOperations_free (x : CtxSec) (now : Option (BitVec 256)) : ∀ op ∈ [(3 : BitVec 8), 4, 5],
    ∃ e ∈ jointKeys (sMsg op x now false) 1 (msg1 op), (msg1 op).op.toNat = e.op ∧ e.free ∧ e.now = now ∧ (e.op, e.target) ∈ joint := by
  simp only [List.forall_mem_cons, List.not_mem_nil, false_implies, implies_true, and_true]
  exact ⟨⟨_, List.mem_cons_self, rfl, ⟨(by show (sess2 .up).ctx = 1; decide), Bool.false_ne_true⟩, rfl, (by decide : (3, 5) ∈ joint)⟩,
    ⟨_, List.mem_cons_of_mem _ List.mem_cons_self, rfl, (by show trJob.ctx = 1; decide), rfl, (by decide : (4, 0) ∈ joint)⟩,
    ⟨_, List.mem_cons_of_mem _ (List.mem_cons_of_mem _ List.mem_cons_self), rfl, (show (sMsg 5 x now false).vault.vctx = 1 from rfl), rfl, (by decide : (5, 0) ∈ joint)⟩⟩

/-- The targets belong to context 0, or the session sends under the slot. -/
def sAway (op : BitVec 8) (x : Sess) : State :=
  { sMsg op (secOf [1] []) none false with fab := { sUp.fab with sess := [(2, x)] }, tr := Transit.reset, vault := Vault.reset }

theorem witness_TenantOperations_away : (∀ op ∈ [(3 : BitVec 8), 4, 5], ∀ x ∈ [Sess.reset, { (sess2 .up) with txSlot := true }],
      OpenedMsg (sAway op x) (boxRead (sAway op x)) (slot 5 1 32 0) 0 (msg1 op) tenant1) ∧ Sess.reset.ctx ≠ 1 ∧ (sess2 .up).ctx = 1 ∧
    (0x402 : BitVec 56).getLsbD 10 = true ∧ Transit.reset.ctx ≠ 1 ∧ Vault.reset.vctx ≠ 1 := by
  have h : ∀ op ∈ [(3 : BitVec 8), 4, 5], ∀ x ∈ [Sess.reset, { (sess2 .up) with txSlot := true }],
      boxedB (sAway op x) (slot 5 1 32 0) = true := by
    simp only [List.forall_mem_cons, List.not_mem_nil, false_implies, implies_true, and_true]
    decide +kernel
  exact ⟨fun op ho x hx => { boxed_of (fabOn (sAway op x) rfl rfl rfl) (h op ho x hx) with msg := rfl, tenant := rfl }, by decide⟩

/-! What a walk of the tables finds does not change while they are read. -/

theorem readLine_value {m n : Mem} (h : Quiet m n) (hs : m.side = []) (hp : m.parts = []) (mst : Master) (l : Nat) (t : Word) :
    (n.readLine mst l none t).2 = (m.readLine mst l none t).2 := by
  have hw (k : Mem) (hk : k.side = []) : (k.side1 l).written = false := by unfold Mem.side1; rw [hk]; rfl
  unfold Mem.readLine Mem.stopped
  rw [h.halt, h.reach]
  split
  · rfl
  · split
    · rfl
    · simp only [settle_quiet hp, settle_quiet h.parts, h.find, hw m hs, hw n h.side]
      split
      · split <;> rfl
      · rfl

theorem readBytes_value {m n : Mem} (h : Quiet m n) (hs : m.side = []) (hp : m.parts = []) (mst : Master) (a k : Nat) (t : Word) :
    (n.readBytes mst none a k t).2 = (m.readBytes mst none a k t).2 := by
  unfold Mem.readBytes
  generalize ([], false) = b
  generalize runsOf a (List.replicate k 0) = rs
  induction rs generalizing m n b with
  | nil => rfl
  | cons r rs ih =>
    simp only [List.foldl_cons, readLine_value h hs hp]
    have hm := readLine_quiet hs hp mst r.1 none t
    have hn := readLine_quiet h.side h.parts mst r.1 none t
    exact ih ⟨hn.side, hn.parts, hn.halt.trans (h.halt.trans hm.halt.symm), hn.pages.trans (h.pages.trans hm.pages.symm), hn.en.trans (h.en.trans hm.en.symm),
      hn.measured.trans (h.measured.trans hm.measured.symm),
      fun l => (hn.find l).trans ((h.find l).trans (hm.find l).symm),
      fun x w l => (hn.reach x w l).trans ((h.reach x w l).trans (hm.reach x w l).symm)⟩ hm.side hm.parts _

theorem readTable_value {s t : State} (h : Calm s t) (hs : s.mem.side = []) (hp : s.mem.parts = []) (a : Nat) :
    (t.readTable a).2 = (s.readTable a).2 := by
  unfold State.readTable
  simp only
  rw [show t.tick = s.tick by rw [h.rest]; rfl, readBytes_value h.mem hs hp]

/-- The scan of a table begins with its first entry where that is valid. -/
theorem tableScan_head {α : Type} {s t : State} (h : Calm s t) (hs : s.mem.side = []) (hp : s.mem.parts = []) (a : Nat) (f : Word → Option α)
    (x : α) (hx : (s.readTable a).2.bind f = some x) :
    Calm s (t.tableScan a f).1 ∧ ∃ l, (t.tableScan a f).2 = x :: l := by
  unfold State.tableScan
  rw [show List.range 512 = 0 :: (List.range 511).map Nat.succ from List.range_succ_eq_map, List.foldl_cons]
  refine List.foldlRecOn (motive := fun (y : State × List α) => Calm s y.1 ∧ ∃ l, y.2 = x :: l) _ _ ?_ fun y hy i _ => ?_
  · refine ⟨readTable_calm h _, [], ?_⟩
    show (match (t.readTable (a + 8 * 0)).2.bind f with
      | some x => [] ++ [x]
      | none => []) = _
    rw [readTable_value h hs hp, Nat.mul_zero, Nat.add_zero, hx]
    rfl
  · obtain ⟨hc, l, hl⟩ := hy
    refine ⟨readTable_calm hc _, ?_⟩
    show ∃ l', (match (y.1.readTable (a + 8 * i)).2.bind f with
      | some x => y.2 ++ [x]
      | none => y.2) = x :: l'
    split
    · exact ⟨l ++ [_], by rw [hl, List.cons_append]⟩
    · exact ⟨l, hl⟩

theorem tableScan_calm {α : Type} {s t : State} (h : Calm s t) (a : Nat) (f : Word → Option α) : Calm s (t.tableScan a f).1 := by
  unfold State.tableScan
  exact List.foldlRecOn (motive := fun (y : State × List α) => Calm s y.1) _ _ h fun y hy i _ => readTable_calm hy _

theorem fold_head {α : Type} {s : State} {x : α} (g : State → Nat → State × List α) (hg : ∀ t i, Calm s t → Calm s (g t i).1)
    (as : List Nat) (y : State × List α) (hc : Calm s y.1) (hl : ∃ l, y.2 = x :: l) :
    Calm s (as.foldl (fun a t => ((g a.1 t).1, a.2 ++ (g a.1 t).2)) y).1 ∧
      ∃ l, (as.foldl (fun a t => ((g a.1 t).1, a.2 ++ (g a.1 t).2)) y).2 = x :: l := by
  induction as generalizing y with
  | nil => exact ⟨hc, hl⟩
  | cons t as ih =>
    obtain ⟨l, hl⟩ := hl
    exact ih _ (hg _ _ hc) ⟨l ++ (g y.1 t).2, by simp only [hl, List.cons_append]⟩

theorem tablesScan_head {α : Type} {s t : State} (h : Calm s t) (hs : s.mem.side = []) (hp : s.mem.parts = []) (a : Nat) (as : List Nat)
    (f : Word → Option α) (x : α) (hx : (s.readTable a).2.bind f = some x) :
    Calm s (t.tablesScan (a :: as) f).1 ∧ ∃ l, (t.tablesScan (a :: as) f).2 = x :: l := by
  have h0 := tableScan_head h hs hp a f x hx
  have hg : ∀ t i, Calm s t → Calm s ((fun (u : State) i => u.tableScan i f) t i).1 := fun t i h => tableScan_calm h i f
  unfold State.tablesScan
  rw [List.foldl_cons]
  generalize hf : (fun (u : State) i => u.tableScan i f) = g at hg
  have he (u : State) (i : Nat) : u.tableScan i f = g u i := by rw [← hf]
  simp only [he] at h0 ⊢
  exact fold_head g hg as _ h0.1 (by rw [List.nil_append]; exact h0.2)

theorem tablesScan_calm {α : Type} {s t : State} (h : Calm s t) (as : List Nat) (f : Word → Option α) : Calm s (t.tablesScan as f).1 := by
  unfold State.tablesScan
  exact List.foldlRecOn (motive := fun (y : State × List α) => Calm s y.1) _ _ h fun y hy i _ => by
    have hc := tableScan_calm hy i f
    revert hc
    generalize y.1.tableScan i f = r
    exact fun hc => hc

theorem loadCtx_here {s t : State} (h : Calm s t) (c : BitVec 9) {e : List Word} (on : Tbl.find? s.host.ctxs c.toNat = some e) :
    t.loadCtx c = t ∧ t.ctxE c = s.ctxE c := by
  have hh : t.host = s.host := by rw [h.rest]
  unfold State.loadCtx State.ctxE
  rw [hh, on]
  exact ⟨rfl, rfl⟩

theorem allLeaves_calm {s t : State} (h : Calm s t) (c : BitVec 9) {e : List Word} (on : Tbl.find? s.host.ctxs c.toNat = some e) :
    Calm s (t.allLeaves c).1 := by
  unfold State.allLeaves
  simp only [(loadCtx_here h c on).1]
  split
  · exact h
  · exact tablesScan_calm (tablesScan_calm (tableScan_calm h _ _) _ _) _ _

theorem measuredPages_calm {s t : State} (h : Calm s t) (c : BitVec 9) (dva len : Nat) (on : (Tbl.find? s.host.ctxs c.toNat).isSome = true) :
    Calm s (t.measuredPages c dva len).1 := by
  unfold State.measuredPages
  refine List.foldlRecOn (motive := fun (x : State × Option (List (Nat × Nat × Leaf))) => Calm s x.1) _ _ h fun x k e _ => ?_
  have hx := xlate_calm k c e.1 on
  rcases he : x.1.xlate c e.1 with ⟨u, f⟩
  rw [he] at hx
  split
  · exact k
  · have hr : Calm s (if e.1 < 2 ^ 48 then (u, f) else (x.1, none)).1 := by split; exacts [hx, k]
    generalize (if e.1 < 2 ^ 48 then (u, f) else (x.1, none)) = r at hr
    obtain ⟨v, g⟩ := r
    cases g with
    | none => exact hr
    | some g => simp only; split <;> exact hr

theorem measuredBytes_calm {s t : State} (h : Calm s t) (ps : List (Nat × Nat × Leaf)) : Calm s (t.measuredBytes ps).1 := by
  unfold State.measuredBytes
  exact List.foldlRecOn (motive := fun (x : State × Option (List Byte)) => Calm s x.1) _ _ h fun x k e _ => k.read _ _ _ _ _

theorem boxRead_calm {s : State} (hm : s.glob.meshRun = true) (hs : s.mem.side = []) (hp : s.mem.parts = []) : Calm s (boxRead s) := by
  have ha : awake s = s := if_pos hm
  unfold boxRead
  rw [ha]
  exact Calm.read (t := s) ⟨.refl hs hp, rfl⟩ _ _ _ _ _

theorem Calm.regs {s t : State} (h : Calm s t) : t.reg = s.reg ∧ t.host.fences = s.host.fences := by rw [h.rest]; exact ⟨rfl, rfl⟩

/-- MEASURE of 256 bytes at DVA 0, whose page has R and X, or also W; its line may be poisoned. -/
def sMeasure (leaf : Word) (x : CtxSec) (poison : Bool) : State :=
  let s := sBox { reg0' with ctxs := [(1, x)] } leaf (slot 7 1 0 0)
  { s with mem := { s.mem with slice := if poison then
    (cacheFill 16 s.mem.slice (sliceSet 0x4000) 0x4000 ⟨lineOfWords [], 3, true, false⟩).1 else s.mem.slice } }

def pagesM (leaf : Word) (poison : Bool) : State × Option (List (Nat × Nat × Leaf)) :=
  (boxRead (sMeasure leaf CtxSec.none poison)).measuredPages 1 0 0x100
def bytesM (poison : Bool) : State × Option (List Byte) := (pagesM 0x40030B poison).1.measuredBytes ((pagesM 0x40030B poison).2.getD [])

theorem pagesM_calm (leaf : Word) (p : Bool) : Calm (sMeasure leaf CtxSec.none p) (pagesM leaf p).1 :=
  measuredPages_calm (boxRead_calm rfl rfl rfl) 1 0 0x100 rfl
theorem bytesM_calm (p : Bool) : Calm (sMeasure 0x40030B CtxSec.none p) (bytesM p).1 := measuredBytes_calm (pagesM_calm _ _) _

theorem witness_TenantOperations_measure :
    (∀ e ∈ [((0x40030B : Word), CtxSec.none, false), (0x40030F, CtxSec.none, false), (0x40030B, CtxSec.none, true), (0x40030B, secOf [1] [], false)],
      AtHead (sMeasure e.1 e.2.1 e.2.2) (boxRead (sMeasure e.1 e.2.1 e.2.2)) 7 false (slot 7 1 0 0)) ∧
    (∀ a x p, ReqCtx (sMeasure a x p) (slot 7 1 0 0) 1 ctx1) ∧ ctxState ctx1 = 1 ∧ ((sMeasure 0x40030B (secOf [1] []) false).sec 1).final = true ∧
    (∀ a p, ((sMeasure a CtxSec.none p).sec 1).final = false) ∧
    (pagesM 0x40030F false).2 = none ∧ (pagesM 0x40030F false).1.host.fences = (sMeasure 0x40030F CtxSec.none false).host.fences ∧
    (∀ p, (pagesM 0x40030B p).2.isSome = true) ∧ (bytesM true).2 = none ∧
    (bytesM true).1.host.fences = (sMeasure 0x40030B CtxSec.none true).host.fences ∧ (bytesM false).2.isSome = true ∧
    (bytesM false).1.reg = (sMeasure 0x40030B CtxSec.none false).reg := by
  have h : ∀ e ∈ [((0x40030B : Word), CtxSec.none, false), (0x40030F, CtxSec.none, false), (0x40030B, CtxSec.none, true), (0x40030B, secOf [1] [], false)],
      boxedB (sMeasure e.1 e.2.1 e.2.2) (slot 7 1 0 0) = true := each _ (by decide +kernel)
  refine ⟨fun e he => { boxed_of (fabOn (sMeasure e.1 e.2.1 e.2.2) rfl rfl rfl) (h e he) with
      closed := rfl, kind := by decide, bad := by decide }, fun a x p => ⟨by decide, rfl⟩, by decide, by decide +kernel, fun a p => rfl,
    by decide +kernel, (pagesM_calm _ _).regs.2, ?_, by decide +kernel, (bytesM_calm _).regs.2, by decide +kernel, (bytesM_calm _).regs.1⟩
  simp only [Bool.forall_bool]
  decide +kernel

/-- FINALIZE: no class is bound; a leaf with X stands over a page that was not measured; a leaf with W over one that was. -/
def sFinalize (leaf : Word) (pages : List Nat) (bound : List (Nat × BitVec 256)) : State :=
  let s := sBox { reg0' with ctxs := [(1, { CtxSec.none with pages := pages, bound := bound })] } leaf (slot 8 1 0 0)
  { s with mem := { s.mem with measured := [(2, 1)] } }

def leafX : Leaf := ⟨2, 3, false, false, true, false, true⟩
def leafW : Leaf := ⟨2, 3, false, false, true, true, true⟩

/-- The first leaf of context 1. -/
theorem leaves_head {s t : State} (f : Leaf) (h : Calm s t) (hs : s.mem.side = []) (hp : s.mem.parts = [])
    (on : Tbl.find? s.host.ctxs (1 : BitVec 9).toNat = some ctx1) (hg : s.ctxE 1 = ctx1)
    (h1 : (s.readTable 0x1000).2.bind tableEntry = some 0x2000) (h2 : (s.readTable 0x2000).2.bind tableEntry = some 0x3000)
    (h3 : (s.readTable 0x3000).2.bind (leafEntry s.mem (s.isFinal 1)) = some f) : ∃ l, (t.allLeaves 1).2 = f :: l := by
  have he : ctxRoot (t.ctxE 1) = 0x1000 := by
    rw [(loadCtx_here h 1 on).2, hg]
    decide
  obtain ⟨c1, l1, e1⟩ := tableScan_head h hs hp 0x1000 _ _ h1
  rcases hr1 : t.tableScan 0x1000 tableEntry with ⟨u1, r1⟩
  rw [hr1] at c1 e1
  obtain rfl : r1 = 0x2000 :: l1 := e1
  obtain ⟨c2, l2, e2⟩ := tablesScan_head c1 hs hp 0x2000 l1 _ _ h2
  rcases hr2 : u1.tablesScan (0x2000 :: l1) tableEntry with ⟨u2, r2⟩
  rw [hr2] at c2 e2
  obtain rfl : r2 = 0x3000 :: l2 := e2
  have hl : leafEntry u2.mem (u2.isFinal 1) = leafEntry s.mem (s.isFinal 1) := by
    have : u2.isFinal 1 = s.isFinal 1 := by rw [show u2 = _ from c2.rest]; rfl
    funext w
    unfold leafEntry Mem.vaultPage
    rw [this, c2.mem.en, c2.mem.pages]
  obtain ⟨-, l3, e3⟩ := tablesScan_head c2 hs hp 0x3000 l2 _ _ h3
  unfold State.allLeaves
  simp only [(loadCtx_here h 1 on).1, he, hr1, hr2, hl]
  exact ⟨l3, e3⟩

/-- What FINALIZE finds. -/
def leavesF (leaf : Word) (pages : List Nat) (bound : List (Nat × BitVec 256)) : State × List Leaf :=
  (boxRead (sFinalize leaf pages bound)).allLeaves 1

theorem leavesF_calm (leaf : Word) (pages : List Nat) (bound : List (Nat × BitVec 256)) : Calm (sFinalize leaf pages bound) (leavesF leaf pages bound).1 :=
  allLeaves_calm (boxRead_calm rfl rfl rfl) 1 rfl

theorem witness_TenantOperations_finalize :
    (∀ e ∈ [((0x40030B : Word), ([] : List Nat), ([] : List (Nat × BitVec 256))), (0x40030B, [], [(1, 7)]), (0x40030F, [2], [(1, 7)])],
      AtHead (sFinalize e.1 e.2.1 e.2.2) (boxRead (sFinalize e.1 e.2.1 e.2.2)) 8 false (slot 8 1 0 0)) ∧
    (∀ a p b, ReqCtx (sFinalize a p b) (slot 8 1 0 0) 1 ctx1 ∧ ((sFinalize a p b).sec 1).final = false ∧
      (leavesF a p b).1.reg = (sFinalize a p b).reg ∧ (leavesF a p b).1.host.fences = (sFinalize a p b).host.fences ∧
      ((sFinalize a p b).sec 1).bound = b ∧ ((sFinalize a p b).sec 1).pages = p) ∧
    (∃ l, (leavesF 0x40030B [] [(1, 7)]).2 = leafX :: l) ∧ leafX.x = true ∧ leafX.page.toNat ∉ ([] : List Nat) ∧
    (∃ l, (leavesF 0x40030F [2] [(1, 7)]).2 = leafW :: l) ∧ leafW.w = true ∧
    0 < Tbl.get 0 (leavesF 0x40030F [2] [(1, 7)]).1.mem.measured leafW.page.toNat := by
  have h : ∀ e ∈ [((0x40030B : Word), ([] : List Nat), ([] : List (Nat × BitVec 256))), (0x40030B, [], [(1, 7)]), (0x40030F, [2], [(1, 7)])],
      boxedB (sFinalize e.1 e.2.1 e.2.2) (slot 8 1 0 0) = true := each _ (by decide +kernel)
  refine ⟨fun e he => { boxed_of (fabOn (sFinalize e.1 e.2.1 e.2.2) rfl rfl rfl) (h e he) with
      closed := rfl, kind := by decide, bad := by decide }, fun a p b => ⟨⟨by decide, rfl⟩, rfl, (leavesF_calm a p b).regs.1, (leavesF_calm a p b).regs.2, rfl, rfl⟩,
    leaves_head _ (boxRead_calm rfl rfl rfl) rfl rfl rfl rfl (by decide +kernel) (by decide +kernel) (by decide +kernel), rfl, List.not_mem_nil,
    leaves_head _ (boxRead_calm rfl rfl rfl) rfl rfl rfl rfl (by decide +kernel) (by decide +kernel) (by decide +kernel), rfl, ?_⟩
  rw [(leavesF_calm _ _ _).mem.measured]
  exact (by decide : 0 < Tbl.get 0 [(2, 1)] leafW.page.toNat)

/-- A context whose ROOT lies beyond memory has no leaf: it becomes FINAL. -/
def sNoRoot : State :=
  let s := sFinalize 0x40030B [] [(1, 7)]
  { s with host := { s.host with ctxs := [(1, ctx1.set 1 0xC000000000)] } }

/-- A context whose root lies beyond memory has no leaf. -/
theorem allLeaves_none (s : State) (n : BitVec 9) (h : s.loadCtx n = s) (hr : ctxRoot (s.ctxE n) ≥ 0xC000000000) :
    s.allLeaves n = (s, []) := by
  unfold State.allLeaves
  simp only [h, if_pos hr]

theorem noRoot_root : ctxRoot (sNoRoot.ctxE 1) ≥ 0xC000000000 := by decide +kernel

theorem witness_TenantOperations_final : AtHead sNoRoot (boxRead sNoRoot) 8 false (slot 8 1 0 0) ∧
    ReqCtx sNoRoot (slot 8 1 0 0) 1 (ctx1.set 1 0xC000000000) ∧ ctxState (ctx1.set 1 0xC000000000) = 1 ∧ (sNoRoot.sec 1).final = false ∧
    (sNoRoot.sec 1).bound ≠ [] ∧ (boxRead sNoRoot).allLeaves 1 = (boxRead sNoRoot, []) ∧ (boxRead sNoRoot).reg = sNoRoot.reg ∧
    (boxRead sNoRoot).host.fences = sNoRoot.host.fences := by
  have h : boxedB sNoRoot (slot 8 1 0 0) = true := by decide +kernel
  refine ⟨{ boxed_of (fabOn sNoRoot rfl rfl rfl) h with closed := rfl, kind := by decide, bad := by decide }, ⟨by decide, rfl⟩, by decide,
    rfl, List.cons_ne_nil _ _, ?_, (boxRead_calm rfl rfl rfl).regs⟩
  have hc := loadCtx_here (boxRead_calm (s := sNoRoot) rfl rfl rfl) 1 (e := ctx1.set 1 0xC000000000) rfl
  exact allLeaves_none _ 1 hc.1 (by rw [hc.2]; exact noRoot_root)

theorem witness_TenantOperations_firmware : pathOpen s0 .curator ∧ (∀ v ∈ [(0x12 : Word), 0x1F], v.getLsbD 4 = true ∧ 2 ≤ v.toNat % 16) ∧
    (0x11 : Word).getLsbD 4 = true ∧ (0x11 : Word).toNat % 16 < 2 ∧ ({ Registrar.reset with trial := true } : Registrar).trial = true :=
  ⟨open0 _ _ rfl rfl Nat.zero_lt_two rfl, each _ (by decide +kernel), by decide, by decide, rfl⟩

/-! ### Resets and start-up -/

/-- Nothing is written anywhere: every line reads as zero, and so does every catalogue entry that is not on chip. -/
theorem readLine_empty {m : Mem} (hs : m.side = []) (hp : m.parts = []) (hl : m.slice = []) (mst : Master) (l : Nat) (r : Option (BitVec 4)) (t : Word) :
    (m.readLine mst l r t).2.line = zeroLine ∧ (m.readLine mst l r t).1.slice = [] := by
  unfold Mem.readLine
  split
  · exact ⟨rfl, hl⟩
  · split
    · exact ⟨rfl, hl⟩
    · have hf : m.sliceFind l = none := by unfold Mem.sliceFind cacheFind; rw [hl]; rfl
      have hw : (m.side1 l).written = false := by unfold Mem.side1; rw [hs]; rfl
      simp only [settle_quiet hp, hf, hw]
      exact ⟨rfl, hl⟩

theorem readBytes_empty {m : Mem} (hs : m.side = []) (hp : m.parts = []) (hl : m.slice = []) (mst : Master) (r : Option (BitVec 4)) (a n : Nat) (t : Word) :
    ∀ b ∈ (m.readBytes mst r a n t).2.1, b = 0 := by
  unfold Mem.readBytes
  refine (List.foldlRecOn (motive := fun (x : Mem × List Byte × Bool) => Quiet m x.1 ∧ x.1.slice = [] ∧ ∀ b ∈ x.2.1, b = 0) _ _
    ⟨Quiet.refl hs hp, hl, by simp⟩ fun x h e _ => ?_).2.2
  obtain ⟨hq, hx, hb⟩ := h
  have h0 := readLine_empty hq.side hq.parts hx mst e.1 r t
  refine ⟨hq.trans (readLine_quiet hq.side hq.parts _ _ _ _), h0.2, fun b hm => ?_⟩
  obtain h | h := List.mem_append.mp hm
  · exact hb b h
  · rw [h0.1] at h
    obtain ⟨o, -, rfl⟩ := List.mem_map.mp h
    by_cases ho : o.1 < 256 <;> simp [zeroLine, Vector.getD, ho]

theorem leNat_zero (l : List Byte) (h : ∀ b ∈ l, b = 0) : leNat l = 0 := by
  induction l with
  | nil => rfl
  | cons b l ih => rw [leNat, h b List.mem_cons_self, ih fun b hb => h b (List.mem_cons_of_mem _ hb)]; rfl

theorem leWords_zero (n : Nat) (l : List Byte) (h : ∀ b ∈ l, b = 0) : ∀ w ∈ leWords n l, w = 0 := by
  induction n generalizing l with
  | zero => intro w hw; cases hw
  | succ n ih =>
    intro w hw
    obtain rfl | hw := List.mem_cons.mp hw
    · rw [leNat_zero _ fun b hb => h b (List.mem_of_mem_take hb)]; rfl
    · exact ih _ (fun b hb => h b (List.mem_of_mem_drop hb)) w hw

theorem readBytes_slice {m : Mem} (hs : m.side = []) (hp : m.parts = []) (hl : m.slice = []) (mst : Master) (r : Option (BitVec 4)) (a n : Nat) (t : Word) :
    (m.readBytes mst r a n t).1.slice = [] := by
  unfold Mem.readBytes
  exact (List.foldlRecOn (motive := fun (x : Mem × List Byte × Bool) => Quiet m x.1 ∧ x.1.slice = []) _ _
    ⟨Quiet.refl hs hp, hl⟩ fun x h e _ =>
      ⟨h.1.trans (readLine_quiet h.1.side h.1.parts _ _ _ _), (readLine_empty h.1.side h.1.parts h.2 mst e.1 r t).2⟩).2

theorem readEntry_empty {s t : State} (h : Calm s t) (hl : t.mem.slice = []) (b : Word) (n c : Nat) :
    Calm s (t.readEntry b n c).1 ∧ (t.readEntry b n c).1.mem.slice = [] ∧ ctxState (t.readEntry b n c).2 = 0 := by
  have h1 := h.read .catalogue (some 0) (entryDpa b n c) (8 * n) t.tick
  have h2 := readBytes_slice h.mem.side h.mem.parts hl .catalogue (some 0) (entryDpa b n c) (8 * n) t.tick
  have h0 := readBytes_empty h.mem.side h.mem.parts hl .catalogue (some 0) (entryDpa b n c) (8 * n) t.tick
  unfold State.readEntry
  generalize t.mem.readBytes .catalogue (some 0) (entryDpa b n c) (8 * n) t.tick = r at h0 h1 h2 ⊢
  refine ⟨h1, h2, ?_⟩
  have hz := leWords_zero n _ h0
  show ctxState (leWords n r.2.1) = 0
  generalize leWords n r.2.1 = e at hz ⊢
  have he : ew e 6 = 0 := by
    unfold ew
    rw [List.getD_eq_getElem?_getD]
    cases hg : e[6]? with
    | none => rfl
    | some w => rw [hz w (List.mem_of_getElem? hg)]; rfl
  unfold ctxState
  rw [he]; rfl

theorem ctxStateV_empty {s t : State} (h : Calm s t) (hl : t.mem.slice = []) (hc : s.host.ctxs = []) (c : Nat) :
    Calm s (t.ctxStateV c).1 ∧ (t.ctxStateV c).1.mem.slice = [] ∧ (t.ctxStateV c).2 = 0 := by
  have hr := readEntry_empty h hl t.host.ctxbase 32 c
  unfold State.ctxStateV
  rw [show t.host.ctxs = [] by rw [h.rest]; exact hc]
  generalize t.readEntry t.host.ctxbase 32 c = r at hr
  exact hr

/-- A scan of entries that nothing was written to finds every context FREE. -/
theorem ctxScan_empty {s : State} (hs : s.mem.side = []) (hp : s.mem.parts = []) (hl : s.mem.slice = []) (hc : s.host.ctxs = []) :
    ∀ n ∈ s.ctxScan.2, n = 0 := by
  unfold State.ctxScan
  refine (List.foldlRecOn (motive := fun (x : State × List Nat) => Calm s x.1 ∧ x.1.mem.slice = [] ∧ ∀ n ∈ x.2, n = 0) _ _
    ⟨⟨.refl hs hp, rfl⟩, hl, by simp⟩ fun x h i _ => ?_).2.2
  have k := ctxStateV_empty h.1 h.2.1 hc (i + 1)
  rcases hr : x.1.ctxStateV (i + 1) with ⟨u, n⟩
  rw [hr] at k
  refine ⟨k.1, k.2.1, fun m hm => ?_⟩
  obtain hm | hm := List.mem_append.mp hm
  · exact h.2.2 m hm
  · exact (List.mem_singleton.mp hm).trans k.2.2

theorem scan_free {s : State} (hs : s.mem.side = []) (hp : s.mem.parts = []) (hl : s.mem.slice = []) (hc : s.host.ctxs = []) (n : Nat) (hn : n ≠ 0) :
    n ∉ s.ctxScan.2 := fun h => hn (ctxScan_empty hs hp hl hc n h)

/-- No context lives and every core is GATED. -/
def sQuiet : State := { sGated with host := { sGated.host with ctxs := [] } }

theorem witness_Resets_idle : curatorUp sQuiet ∧ sQuiet.mem.haltStage < 2 ∧ sQuiet.glob.released = true ∧ sQuiet.cur.deepIdle = false ∧
    (∀ n ∈ [1, 2], n ∉ ({ sQuiet with cur := { sQuiet.cur with idleReq := true } } : State).ctxScan.2) ∧
    (∀ c : Fin 96, (sQuiet.cores[c]).mode = .gated ∨ (sQuiet.cores[c]).mode = .retired) ∧
    curatorUp s0 ∧ s0.mem.haltStage < 2 ∧ (s0.cores[(95 : Fin 96)]).mode = .active ∧ s0.cur.deepIdle = false ∧
    (let s := { s0 with cur := { s0.cur with deepIdle := true } }
     curatorUp s ∧ s.mem.haltStage < 2 ∧ s.cur.deepIdle = true ∧ s.mem.halted = false) :=
  ⟨⟨rfl, rfl⟩, Nat.zero_lt_two, rfl, rfl, fun n h => scan_free rfl rfl rfl rfl n (by rintro rfl; revert h; decide), by decide +kernel, ⟨rfl, rfl⟩,
    Nat.zero_lt_two, by decide +kernel, rfl, ⟨rfl, rfl⟩, Nat.zero_lt_two, rfl, by decide +kernel⟩

/-- RESETGEN stands below its reservation. -/
def sResv (k : Core) : State :=
  let s := run k
  { s with alm := { Almanac.factory with resv := 256 } }

theorem witness_Resets_core : (∀ k, pathOpen (sResv k) .curator ∧ (sResv k).mem.haltStage < 2) ∧
    ((sResv { (coreWith st0) with mode := .quarantined, ctx := none }).cores[(95 : Fin 96)]).mode = .quarantined ∧
    ((sResv { (coreWith st0) with mode := .quarantined, ctx := none }).cores[(95 : Fin 96)]).ctx = none ∧
    (sResv (coreWith st0)).reg.resetgen + 1 ≠ (sResv (coreWith st0)).alm.resv ∧ (s0.cores[(0 : Fin 96)]).mode ≠ .quarantined :=
  ⟨fun _ => ⟨open0 _ _ rfl rfl Nat.zero_lt_two rfl, Nat.zero_lt_two⟩, by decide +kernel, by decide +kernel, by decide +kernel, by decide +kernel⟩

/-- The firmware runs, or its restart does. -/
theorem witness_Resets_chip : pathOpen (sResv (coreWith st0)) .curator ∧ (sResv (coreWith st0)).cur.fwrun = true ∧
    (sResv (coreWith st0)).reg.resetgen + 1 ≠ (sResv (coreWith st0)).alm.resv ∧
    (let s := { s0 with cur := { s0.cur with fwrun := false } }
     pathOpen s .curator ∧ s.cur.fwrun = false) :=
  ⟨open0 _ _ rfl rfl Nat.zero_lt_two rfl, rfl, by decide +kernel, open0 _ _ rfl rfl Nat.zero_lt_two rfl, rfl⟩

def sPower (p : PowerMode) (n : Bool) : State := { s0 with sup := { s0.sup with power := p, resetN := n } }

theorem witness_Resets_module : pathOpen s0 .curator ∧ (∀ p ∈ [PowerMode.running, .ramping], (sPower p true).sup.resetN = true ∧ (sPower p true).sup.power = p) ∧
    (∀ p ∈ [PowerMode.held, .ramping], (sPower p false).sup.resetN = false ∧ (sPower p false).sup.power = p) ∧ (sPower .off true).sup.power = .off ∧
    (sPower .supplyReset true).sup.power = .supplyReset ∧ (sPower .tripped true).sup.power ≠ .off :=
  ⟨open0 _ _ rfl rfl Nat.zero_lt_two rfl, each _ (by decide +kernel), each _ (by decide +kernel), rfl, rfl, nofun⟩

/-- TIMEOUT is 25,000,000 ticks; the latest restart lies WINDOW ticks back. -/
def sWdog (t : Word) (r : Option Word) : State :=
  { s0 with cur := { s0.cur with lastRestart := r }, glob := { s0.glob with tick := t } }

theorem witness_Resets_watchdog : curatorUp (sWdog 25000000 none) ∧ (sWdog 25000000 none).cur.fwrun = true ∧
    (sWdog 25000000 none).cur.timeout.toNat ≤ ((sWdog 25000000 none).glob.tick - (sWdog 25000000 none).cur.lastKick).toNat ∧
    (sWdog 1500000000 (some 0)).cur.lastRestart = some 0 ∧ ((1500000000 : Word) - 0).toNat ≤ (sWdog 0 none).cur.window.toNat ∧
    (∀ l ∈ [[], [1999]], let s := { s0 with cur := { s0.cur with restarting := true, latched := l } }
      s.sup.power = .running ∧ s.cur.restarting = true ∧ s.cur.latched = l) :=
  ⟨⟨rfl, rfl⟩, rfl, by decide +kernel, rfl, by decide +kernel, fun _ _ => ⟨rfl, rfl, rfl⟩⟩

/-- What the flash device says of itself: SFDP 1.6 with a Basic Flash Parameter Table (4 KiB erase, 512 Mbit) and a 4-byte
Address Instruction Table (1-4-4 read and page program). -/
def sfdp0 : List Byte :=
  [0x50444653, 0xFF010106, 0x10010600, 0xFF000018, 0x02010084, 0xFF000020, 0x1, 0x1FFFFFFF, 0x60].flatMap (leBytes 4)

/-- The boot ROM before its choice: the ring's record, the device's answer, and the images. -/
def sBoot (dev : List Byte) (r : Option BootRec) (a b : List Byte) : State :=
  { s0 with
    cur := { Curator.reset with phase := 2 }, glob := Glob.reset
    reg := { Registrar.reset with fusesvn := 64 }
    alm := { Almanac.factory with sfdp := dev, ring := r.elim [] fun r => [(3, r)], imgA := a, imgB := b } }

/-- Boot A is active; an image is staged in boot B, and may have had its trial. -/
def bootRec (staged trial : Bool) : BootRec := BootRec.sealed ⟨7, 256, false, staged, trial, 0⟩

theorem bestBoot_one {a : Almanac} {x : Nat × BootRec} (h : a.ring = [x]) (hg : x.2.good = true) : a.bestBoot = some x := by
  unfold Almanac.bestBoot
  rw [h]
  simp [laterBoot, hg]

theorem read_one {a : Almanac} {x : Nat × BootRec} (h : a.ring = [x]) (hg : x.2.good = true) :
    a.read.staged = x.2.staged ∧ a.read.trial = x.2.trial ∧ a.read.active = x.2.active ∧ a.read.imgA = a.imgA ∧ a.read.imgB = a.imgB := by
  unfold Almanac.read Almanac.readBoot
  rw [bestBoot_one h hg]
  exact ⟨rfl, rfl, rfl, rfl, rfl⟩

/-- Whether the module can use a device rests on what it answers alone. -/
theorem usable_congr {a b : Almanac} (h : a.sfdp = b.sfdp) : a.usable = b.usable := by
  unfold Almanac.usable Almanac.sfdpOk Almanac.sfdpTable Almanac.basicOk Almanac.fourOk Almanac.sfdpWord
  rw [h]

theorem usable_sfdp0 : (sBoot sfdp0 none [] []).alm.usable = true := by decide +kernel

theorem sBoot_read (b : Bool) (x y : List Byte) : let a := (sBoot sfdp0 (some (bootRec true b)) x y).alm.read
    a.staged = true ∧ a.trial = b ∧ a.active = false ∧ a.imgA = x ∧ a.imgB = y := by
  have hg : BootRec.good (bootRec true b) = true := by revert b; decide +kernel
  have h := read_one (a := (sBoot sfdp0 (some (bootRec true b)) x y).alm) (x := (3, bootRec true b)) rfl hg
  exact ⟨h.1, h.2.1, h.2.2.1, h.2.2.2.1, h.2.2.2.2⟩

theorem sBoot_usable (r : Option BootRec) (a b : List Byte) : (sBoot sfdp0 r a b).alm.usable = true :=
  (usable_congr rfl).trans usable_sfdp0

/-- Whether an image is bootable rests on the firmware key in the boot ROM, which the spec does not give: where there is a
bootable one it may stand in either bank. An empty bank holds none. -/
theorem witness_StartUp_boot : (∀ n : Bool, (sPower .ramping n).sup.power = .ramping ∧ (sPower .ramping n).sup.resetN = n) ∧
    (∀ r a b, let s := sBoot sfdp0 r a b
      s.sup.power = .running ∧ s.cur.phase = 2 ∧ s.alm.usable = true ∧ s.cur.fwrun = false ∧ s.glob.released = false) ∧
    (∀ img, bootable 64 img = true →
      (let a := (sBoot sfdp0 (some (bootRec true false)) [] img).alm.read
       a.staged = true ∧ a.trial = false ∧ bootable 64 a.otherImg = true) ∧
      (let a := (sBoot sfdp0 (some (bootRec true true)) img []).alm.read
       a.staged = true ∧ a.trial = true ∧ bootable 64 a.activeImg = true)) ∧
    (∀ r a b, (sBoot sfdp0 r a b).reg.fusesvn = 64) ∧ bootable 64 (sBoot sfdp0 none [] []).alm.read.activeImg = false ∧
    (sBoot [] none [] []).alm.usable = false := by
  refine ⟨fun _ => ⟨rfl, rfl⟩, fun r a b => ⟨rfl, rfl, sBoot_usable r a b, rfl, rfl⟩, fun img hi => ⟨?_, ?_⟩, fun _ _ _ => rfl,
    by decide +kernel, by decide +kernel⟩
  · obtain ⟨h1, h2, h3, -, h5⟩ := sBoot_read false [] img
    refine ⟨h1, h2, ?_⟩
    unfold Almanac.otherImg Almanac.bank
    rw [h3, h5]
    exact hi
  · obtain ⟨h1, h2, h3, h4, -⟩ := sBoot_read true img []
    refine ⟨h1, h2, ?_⟩
    unfold Almanac.activeImg Almanac.bank
    rw [h3, h4]
    exact hi

/-- A ring with a good record, with one whose digest fails, and with two. -/
theorem witness_StartUp_ring :
    (let a := { Almanac.factory with ring := [(3, bootRec true false), (4, { bootRec true true with bseq := 9 })] }
     (3, bootRec true false) ∈ a.ring ∧ (bootRec true false).good = true ∧
       ∀ y ∈ a.ring, y.2.good = true → y ≠ (3, bootRec true false) → y.2.bseq.toNat < (7 : Word).toNat) ∧
    (let a := { Almanac.factory with ring := [(4, { bootRec true true with bseq := 9 })] }
     ∀ x ∈ a.ring, x.2.good = false) := by
  have h0 : BootRec.good (bootRec true false) = true := by decide +kernel
  have h1 : BootRec.good { bootRec true true with bseq := 9 } = false := by decide +kernel
  refine ⟨⟨List.mem_cons_self, h0, fun y hy hg hne => ?_⟩, fun x hx => ?_⟩
  · simp only [List.mem_cons, List.not_mem_nil, or_false] at hy
    obtain rfl | rfl := hy
    · exact absurd rfl hne
    · rw [h1] at hg; cases hg
  · obtain rfl := List.mem_singleton.mp hx
    exact h1

/-- A settings record. -/
def setRec (typ inst : BitVec 16) (p : List Byte) : SettingRec :=
  let r : SettingRec := ⟨typ, inst, BitVec.ofNat 32 p.length, 1, 0, 0, 0, p⟩
  { r with digest := r.sha }

/-- The firmware runs in this phase; the settings in force; whether a chip reset started it; whether LOCK stands. -/
def sPhase (n : BitVec 4) (l : List SettingRec) (chip lock : Bool) : State :=
  { s0 with
    cur := { s0.cur with phase := n, inForce := l, chipStart := chip }, glob := { s0.glob with released := n == 9, ready := false }
    mem := { s0.mem with lock := lock }
    alm := { Almanac.factory with repair := [] }, fab := sUp.fab }

/-- The curator's windows; the host objects, with queue 2, one translation and queue pair 0, which is ON. -/
def winRec : SettingRec := setRec 5 1 (wordBytes [0x0010000000600007, 0, 0, 0, 0x600000])
def objRec : SettingRec := setRec 4 1 (wordBytes ([0x800000, 0xA00000, 0xC00000] ++ (List.replicate 32 0).set 1 0x1000 ++ [2] ++
  List.replicate 16 5 ++ [1, 0x3000, 0x40030F] ++ [0xE00000] ++ (List.replicate 16 0).set 0 (0x8000000000000000 : Word) ++ [4]))

theorem witness_StartUp_phases : (∀ n l a b, (sPhase n l a b).sup.power = .running ∧ (sPhase n l a b).cur.fwrun = true ∧
      (sPhase n l a b).cur.phase = n ∧ (sPhase n l a b).alm.repair = [] ∧ (sPhase n l a b).mem.haltStage < 2 ∧
      (sPhase n l a b).cur.inForce = l ∧ (sPhase n l a b).cur.chipStart = a ∧ (sPhase n l a b).mem.lock = b) ∧
    (0xFFFE : BitVec 16) ≠ BitVec.allOnes 16 ∧
    (∀ l a b, ∀ k : Fin 16, ((sPhase 7 l a b).mem.stk[k]).filling = false) ∧
    winRec.body = .curwin 0x0010000000600007 0 0 0 0x600000 ∧
    objRec.body = .hostobj 0x800000 0xA00000 0xC00000 ((List.replicate 32 0).set 1 0x1000) 2 (List.replicate 16 5) [(0x3000, 0x40030F)]
      0xE00000 ((List.replicate 16 0).set 0 0x8000000000000000) 4 ∧
    FabOn (sPhase 9 [] false false) ∧ (sPhase 9 [] false false).glob.released = true ∧
    (sPhase 9 [] false false).glob.ready = false ∧ ∀ p : Fin 8, (sPhase 9 [] false false).fab.waiting p = false :=
  ⟨fun _ _ _ _ => ⟨rfl, rfl, rfl, rfl, Nat.zero_lt_two, rfl, rfl, rfl⟩, by decide,
    fun l a b k => (by decide +kernel : ∀ k : Fin 16, ((sPhase 7 [] false false).mem.stk[k]).filling = false) k, by decide +kernel, by decide +kernel,
    fabOn _ rfl rfl rfl, by decide +kernel, rfl, by decide +kernel⟩

/-! ### Management -/

/-- A session's link: the counters stand at 5 and 6. -/
def link0 : MgmtLink := ⟨1, 2, 5, 6⟩
def asker (rights : Word) (only : Bool) : Asker := ⟨rights, 7, only, link0⟩

/-- The plaintext of request 9 with this OP, LEN and arguments; its frame; the request. -/
def reqBytes (op : BitVec 8) (len : Nat) (args : List Byte) : List Byte :=
  wordBytes [BitVec.ofNat 64 (op.toNat * 2 ^ 56 + 9 * 2 ^ 32 + len)] ++ args
def ask (op : BitVec 8) (args : List Byte) : List Byte := link0.frame (reqBytes op args.length args)
def req (op : BitVec 8) (args : List Byte) : MgmtReq := ⟨op, 9, args.length, args⟩

theorem reqBytes_read (op : BitVec 8) (len : Nat) (args : List Byte) (h : len < 2 ^ 32) : readReq (reqBytes op len args) = ⟨op, 9, len, args⟩ := by
  unfold reqBytes
  rw [readReq_append]
  have ho := op.isLt
  have h1 : (BitVec.ofNat 64 (op.toNat * 2 ^ 56 + 9 * 2 ^ 32 + len) >>> 56).setWidth 8 = op := by
    apply BitVec.eq_of_toNat_eq
    simp only [BitVec.toNat_setWidth, BitVec.toNat_ushiftRight, BitVec.toNat_ofNat, Nat.shiftRight_eq_div_pow]
    omega
  have h2 : (BitVec.ofNat 64 (op.toNat * 2 ^ 56 + 9 * 2 ^ 32 + len) >>> 32).setWidth 24 = BitVec.ofNat 24 9 := by
    apply BitVec.eq_of_toNat_eq
    simp only [BitVec.toNat_setWidth, BitVec.toNat_ushiftRight, BitVec.toNat_ofNat, Nat.shiftRight_eq_div_pow]
    omega
  have h3 : nfld (BitVec.ofNat 64 (op.toNat * 2 ^ 56 + 9 * 2 ^ 32 + len)) 0 32 = len := by
    unfold nfld
    rw [BitVec.toNat_ushiftRight, BitVec.toNat_ofNat, Nat.shiftRight_zero]
    omega
  rw [h1, h2, h3]
  rfl

theorem opens_len (op : BitVec 8) (len : Nat) (args : List Byte) (h : len < 2 ^ 32) (ha : args.length < 2 ^ 31) :
    link0.unseal (link0.frame (reqBytes op len args)) = some ⟨op, 9, len, args⟩ := by
  have hl : (reqBytes op len args).length = 8 + args.length := by
    unfold reqBytes
    rw [List.length_append]
    simp [wordBytes, leBytes_length]
  rw [unseal_frame _ _ (by omega) (by omega), reqBytes_read _ _ _ h]

/-- Session 3 is as given, in a module whose firmware runs. -/
def sMgmt (x : MgmtMode) (l : List SettingRec) : State :=
  { s0 with cur := { s0.cur with sessions := s0.cur.sessions.set 3 x, inForce := l } }
def sAsk (x : Asker) (l : List SettingRec) : State := sMgmt (x.mode 0 0) l

/-- An operator with every right. -/
def sHolds (l : List SettingRec) : State := sAsk (asker 0x7F false) l

theorem asks {s : State} (h : fwRuns s) (hs : s.cur.sessions[(3 : Fin 4)] = (asker 0x7F false).mode 0 0) (op : BitVec 8) (args : List Byte)
    (ha : args.length < 2 ^ 31) : Asks s 3 (ask op args) (asker 0x7F false) (req op args) :=
  ⟨h, hs, opens_len op _ args (by omega) ha⟩

theorem holdsAll : ∀ n ≤ 6, (asker 0x7F false).holds n := by
  intro n hn
  have : ∀ n ∈ List.range 7, (0x7F : Word).getLsbD n = true := by decide
  exact this n (List.mem_range.mpr (by omega))

theorem ofLen (op : BitVec 8) (args : List Byte) : OfLen (req op args) op.toNat args.length := ⟨rfl, rfl, rfl⟩

/-- A session without a right, one that may only ENROLL, and one with all; frames that do not open, whose LEN is wrong, and of a
reserved OP. -/
theorem witness_Management_right : (∀ r o l, fwRuns (sAsk (asker r o) l) ∧ (sAsk (asker r o) l).cur.sessions[(3 : Fin 4)] = (asker r o).mode 0 0 ∧
      (asker r o).link.unseal [] = none ∧ (∀ op, (asker r o).link.unseal (ask op []) = some (req op [])) ∧
      ∀ op, (asker r o).link.unseal (link0.frame (reqBytes op 5 [])) = some ⟨op, 9, 5, []⟩) ∧
    (∀ n, ¬ (asker 0 false).holds n) ∧ (∀ n, n ≠ 6 → ¬ (asker 0x7F true).holds n) ∧ (asker 0x7F true).holds 6 ∧
    (∀ n ≤ 6, (asker 0x7F false).holds n) ∧ ([] : List Byte).length ≠ 5 ∧ (req 0 []).op = 0 ∧ 13 < (req 14 []).op.toNat :=
  ⟨fun _ _ _ => ⟨⟨rfl, rfl, rfl⟩, rfl, rfl, fun op => opens_len op 0 [] (by decide) (by decide), fun op => opens_len op 5 [] (by decide) (by decide)⟩,
    fun n h => by
      have h : (0#64).getLsbD n = true := h
      simp at h,
    fun _ hn h => hn h, (rfl : (6 : Nat) = 6), holdsAll, by decide, rfl, by decide⟩

/-- The curator listens at the default port. -/
def netRec : SettingRec := setRec 3 1 (wordBytes [0x0018000000000000, 1, 0, 2, 0, 3])
/-- CLIENTHELLO: version 1 and its nonce. -/
def hello0 : List Byte := 1 :: List.replicate 63 0

def sHello (ok lock : Bool) (ss : Vector MgmtMode 4) : State :=
  { s0 with reg := { s0.reg with idReady := ok }, cur := { s0.cur with sessions := ss, lockout := lock, inForce := [netRec] } }

theorem witness_Management_hello : (∀ a b ss, fwRuns (sHello a b ss) ∧ (sHello a b ss).cur.inForce = [netRec] ∧
      (sHello a b ss).mem.haltStage < 2 ∧ (sHello a b ss).reg.idReady = a ∧ (sHello a b ss).cur.lockout = b ∧ (sHello a b ss).cur.failures = []) ∧
    netRec.body = .mgmtnet false (1 <<< 120) 24 (2 <<< 120) 6240 3 ∧ (true, (1 <<< 120 : BitVec 128), (6240 : BitVec 16)) ≠ (false, (1 <<< 120 : BitVec 128), (6240 : BitVec 16)) ∧
    (sHello true false (Vector.replicate 4 .closed)).cur.sessions[(0 : Fin 4)] = .closed ∧ hello0.length = 64 ∧
    hello0.take 32 = 1 :: List.replicate 31 0 ∧ ([] : List Byte).length ≠ 64 ∧
    (∀ i : Fin 4, ∃ y : Asker, (sHello true false (Vector.replicate 4 ((asker 0 false).mode 0 0))).cur.sessions[i] = y.mode 0 0) :=
  ⟨fun _ _ _ => ⟨⟨rfl, rfl, rfl⟩, rfl, Nat.zero_lt_two, rfl, rfl, rfl⟩, by decide +kernel, by decide, rfl, by decide, by decide, by decide,
    fun i => ⟨asker 0 false, Vector.getElem_replicate i.isLt⟩⟩

/-- The latest tick at which FINISH is in time, and the next one. -/
def sFinish (l : List SettingRec) (f : List Word) (late : Word) : State :=
  let s := sMgmt (.hello true 5 6 8 0) l
  { s with cur := { s.cur with failures := f }, glob := { s.glob with tick := 50000000 + late } }

/-- The record of an operator whose key is this module's identity key. -/
def opRec : SettingRec := setRec 2 7 (keyBytes identityKey ++ wordBytes [0x7F])

/-- FINISH: the ciphertext, the operator's key, and its signature over H2. -/
def finishHead : List Byte := List.replicate 1088 0 ++ keyBytes identityKey
def finishMsg : List Byte := finishHead ++ slhSig (keyBytes (sha256 (keyBytes 8 ++ finishHead)))

theorem finishHead_length : finishHead.length = 1120 := by
  unfold finishHead
  rw [List.length_append, List.length_replicate]
  simp [keyBytes, beBytes_length]

theorem opRec_body : opRec.body = .operator identityKey 0x7F := by
  have hk : keyOf opRec.payload = identityKey := by
    have : opRec.payload.take 32 = keyBytes identityKey := List.take_left' (by simp [keyBytes, beBytes_length])
    have k := keyOf_identity
    unfold keyOf at k ⊢
    rw [List.take_of_length_le (by simp [keyBytes, beBytes_length])] at k
    rw [this, k]
  have hr : ew (leWords ((opRec.payload.length + 7) / 8) opRec.payload) 4 = 0x7F := by
    have hl : opRec.payload.length = 40 := by
      show (keyBytes identityKey ++ wordBytes [0x7F]).length = 40
      simp [keyBytes, beBytes_length, wordBytes, leBytes_length]
    have hd : opRec.payload.drop 32 = wordBytes [0x7F] := List.drop_left' (by simp [keyBytes, beBytes_length])
    have h4 : ∀ p : List Byte, ew (leWords 5 p) 4 = BitVec.ofNat 64 (leNat ((p.drop 32).take 8)) := fun p => by
      simp [leWords, ew, List.drop_drop]
    rw [hl, h4, hd]
    decide
  unfold SettingRec.body
  show Setting.operator _ _ = _
  rw [hk, hr]

/-- A FINISH whose signature holds, of the operator in force. -/
theorem witness_Management_finish : (∀ l f t, fwRuns (sFinish l f t) ∧ (sFinish l f t).cur.sessions[(3 : Fin 4)] = .hello true 5 6 8 0 ∧
      (sFinish l f t).cur.inForce = l ∧ (sFinish l f t).cur.failures = f ∧ (sFinish l f t).glob.tick = 50000000 + t) ∧
    finishMsg.length = 18208 ∧ ((50000000 : Word) + 0 - 0).toNat ≤ 50000000 ∧ 50000000 < ((50000000 : Word) + 1 - 0).toNat ∧
    opRec.body = .operator identityKey 0x7F ∧ keyOf (finishMsg.drop 1088) = identityKey ∧
    slhVerify slh128f identityKey (keyBytes (sha256 (keyBytes 8 ++ finishMsg.take 1120))) (finishMsg.drop 1120) = true := by
  have hs := slhVerify_slhSig (keyBytes (sha256 (keyBytes 8 ++ finishHead)))
  have ht : finishMsg.take 1120 = finishHead := List.take_left' finishHead_length
  have hd : finishMsg.drop 1120 = slhSig (keyBytes (sha256 (keyBytes 8 ++ finishHead))) := List.drop_left' finishHead_length
  refine ⟨fun _ _ _ => ⟨⟨rfl, rfl, rfl⟩, rfl, rfl, rfl, rfl⟩, ?_, by decide, by decide, opRec_body, ?_, ?_⟩
  · unfold finishMsg
    rw [List.length_append, finishHead_length, hs.1]
  · have h1 : finishMsg.drop 1088 = keyBytes identityKey ++ slhSig (keyBytes (sha256 (keyBytes 8 ++ finishHead))) := by
      have : finishMsg = List.replicate 1088 0 ++ (keyBytes identityKey ++ slhSig (keyBytes (sha256 (keyBytes 8 ++ finishHead)))) := by
        conv_lhs => unfold finishMsg
        conv_lhs => arg 1; unfold finishHead
        rw [List.append_assoc]
      rw [this]
      exact List.drop_left' List.length_replicate
    have k := keyOf_identity
    unfold keyOf at k ⊢
    rw [List.take_of_length_le (by simp [keyBytes, beBytes_length])] at k
    rw [h1, List.take_left' (by simp [keyBytes, beBytes_length]), k]
  · rw [ht, hd]
    exact hs.2

/-- Reads: a register, a memory address, the last logbook slots there are, a record in force and none. -/
theorem witness_Management_reads : (∀ l op args, args.length < 2 ^ 31 → Asks (sHolds l) 3 (ask op args) (asker 0x7F false) (req op args)) ∧
    (∀ n ≤ 6, (asker 0x7F false).holds n) ∧ (∀ op args, OfLen (req op args) op.toNat args.length) ∧
    locate ((req 1 (wordBytes [0xFE0000000000])).word 0).toNat ≠ .memory ∧ locate ((req 1 (wordBytes [0])).word 0).toNat = .memory ∧
    (let q := req 3 (wordBytes [65537, 524287])
     32 * (q.word 1).toNat < 2 ^ 24 ∧ (q.word 0).toNat + (q.word 1).toNat ≤ 589824) ∧
    (let q := req 4 (wordBytes [0x0003000100000000])
     netRec.typ = (q.word 0 >>> 48).truncate 16 ∧ netRec.inst = (q.word 0 >>> 32).truncate 16) ∧
    (let q := req 2 (wordBytes [0xFE0000000030, 5])
     ((((heard (sHolds []) 3 (asker 0x7F false)).logAdd 0x0A 7 0xFE0000000030 (q.word 1)).busWrite .curator 0xFE0000000030 8
       (q.word 1)).cur.sessions[(3 : Fin 4)]) = (asker 0x7F false).mode 1 0) :=
  ⟨fun l op args h => asks ⟨rfl, rfl, rfl⟩ rfl op args h, holdsAll, ofLen, by decide +kernel, by decide +kernel, by decide +kernel,
    by decide +kernel, by decide +kernel⟩

/-- The live settings bank is empty. A TIMING record, and the operator with a key of ones, new and deleted. -/
def sBank : State := { sHolds [] with alm := { Almanac.factory with bank0 := [] } }
def timRec : SettingRec := setRec 6 1 (wordBytes [25000, 4000])
def keyRec : SettingRec := setRec 2 7 (List.replicate 32 0xFF ++ wordBytes [0x7F])
def delRec : SettingRec :=
  let r : SettingRec := ⟨2, 7, 0, 2, 1, 0, 0, []⟩
  { r with digest := r.sha }

theorem witness_Management_settings : (∀ op args, args.length < 2 ^ 31 → Asks sBank 3 (ask op args) (asker 0x7F false) (req op args)) ∧
    (∀ r ∈ [timRec, keyRec, delRec], r = readSetting (req 5 r.bytes).args ∧ 64 ≤ (req 5 r.bytes).len ∧ r.bytes.length < 2 ^ 31) ∧
    timRec.typ ≠ 2 ∧ keyRec.typ = 2 ∧ delRec.typ = 2 ∧ Appends sBank timRec ∧ Appends sBank keyRec ∧ delRec.good = true ∧
    delRec.deleted = true ∧ settingsInForce (sBank.alm.settings ++ [delRec]) = [] :=
  ⟨fun op args h => asks ⟨rfl, rfl, rfl⟩ rfl op args h, each _ (by decide +kernel), by decide, by decide, by decide,
    by unfold Appends; decide +kernel, by unfold Appends; decide +kernel, by decide +kernel, by decide +kernel, by decide +kernel⟩

/-- FWSTAGE in each state of the registers; the first part of an image, and a whole one of no body. Whether an image's
signature holds rests on the firmware key, which the spec does not give. -/
def sStage (staged trial idle : Bool) : State :=
  let s := sHolds []
  { s with reg := { s.reg with staged := staged, trial := trial, fusesvn := 64 }, cur := { s.cur with deepIdle := idle, fwParts := [1, 2, 3] } }
def stageReq (n : Nat) : MgmtReq := req 6 (wordBytes [0] ++ List.replicate n 0)

theorem witness_Management_stage : (∀ a b c op args, args.length < 2 ^ 31 → Asks (sStage a b c) 3 (ask op args) (asker 0x7F false) (req op args)) ∧
    (∀ a b c, (sStage a b c).reg.staged = a ∧ (sStage a b c).reg.trial = b ∧ (sStage a b c).cur.deepIdle = c) ∧
    (∀ n ∈ [10, 7920], (stageReq n).op = 6 ∧ (stageReq n).args.length = (stageReq n).len ∧ 8 < (stageReq n).len ∧ ((stageReq n).word 0).toNat = 0 ∧
      (stageReq n).args.drop 8 = List.replicate n 0) ∧
    (List.replicate 10 (0 : Byte)).length < 64 ∧ 64 ≤ (List.replicate 7920 (0 : Byte)).length ∧
    imgLen (List.replicate 7920 0) ≤ (List.replicate 7920 (0 : Byte)).length := by
  refine ⟨fun a b c op args h => asks ⟨rfl, rfl, rfl⟩ rfl op args h, fun _ _ _ => ⟨rfl, rfl, rfl⟩, fun n h => ?_, by decide, ?_, ?_⟩
  · have hl : (wordBytes [0] ++ List.replicate n (0 : Byte)).length = 8 + n := by
      rw [List.length_append, List.length_replicate]
      simp [wordBytes, leBytes_length]
    have hn : 0 < n := by
      simp only [List.mem_cons, List.not_mem_nil, or_false] at h
      omega
    refine ⟨rfl, rfl, ?_, ?_, ?_⟩
    · show 8 < (wordBytes [0] ++ List.replicate n (0 : Byte)).length
      omega
    · show ((leWords 1 (wordBytes [0] ++ List.replicate n 0)).headD 0).toNat = 0
      rw [leWords_one]
      rfl
    · exact List.drop_left' (by simp [wordBytes, leBytes_length])
  · rw [List.length_replicate]
    decide
  · rw [List.length_replicate]
    decide +kernel

/-- RESET of each KIND, of a core that is QUARANTINED and of one that is not. -/
def sReset (m : CoreMode) : State := { sHolds [] with cores := s0.cores.set 95 { (coreWith st0) with mode := m } }

theorem witness_Management_reset : (∀ m op args, args.length < 2 ^ 31 → Asks (sReset m) 3 (ask op args) (asker 0x7F false) (req op args)) ∧
    (∀ k : Word, OfLen (req 8 (wordBytes [0x5F00 ||| k])) 8 8) ∧
    (∀ k ∈ [(0 : Word), 1, 2, 3], ((req 8 (wordBytes [0x5F00 ||| k])).word 0).toNat % 4 = k.toNat ∧
      (((req 8 (wordBytes [0x5F00 ||| k])).word 0 >>> 8).truncate 7 : BitVec 7) = num7 95) ∧
    (∀ m ∈ [CoreMode.quarantined, .active], ((sReset m).cores[(95 : Fin 96)]).mode = m) ∧ (∀ m, (sReset m).mem.haltStage < 2) :=
  ⟨fun m op args h => asks ⟨rfl, rfl, rfl⟩ rfl op args h, fun k => ofLen 8 (wordBytes [0x5F00 ||| k]),
    each _ (by decide +kernel), each _ (by decide +kernel), fun _ => Nat.zero_lt_two⟩

/-- No context lives and no core runs; the same in deep idle. -/
def sMayIdle (idle : Bool) : State := { sQuiet with cur := { sQuiet.cur with sessions := (sHolds []).cur.sessions, deepIdle := idle } }

theorem mayIdle_of {s : State} (h : (s.on && s.live && s.glob.released && s.cores.toList.all fun k => k.mode != .active && k.mode != .quarantined) = true)
    (hs : s.mem.side = []) (hp : s.mem.parts = []) (hl : s.mem.slice = []) (hc : s.host.ctxs = []) : s.mayIdle = true := by
  unfold State.mayIdle State.idleTest
  rw [if_pos h]
  have k := ctxScan_empty hs hp hl hc
  generalize s.ctxScan = r at k ⊢
  obtain ⟨t, l⟩ := r
  simp only [Bool.not_eq_true', List.any_eq_false]
  intro n hn
  rw [k n hn]
  decide

theorem witness_Management_power : (∀ b op args, args.length < 2 ^ 31 → Asks (sMayIdle b) 3 (ask op args) (asker 0x7F false) (req op args)) ∧
    (∀ b : Bool, OfLen (req 0xA (wordBytes [if b then 1 else 0])) 0xA 8) ∧
    (∀ b : Bool, ((req 0xA (wordBytes [if b then 1 else 0])).word 0).getLsbD 0 = b) ∧
    (heard (sMayIdle false) 3 (asker 0x7F false)).mayIdle = true ∧ (∀ b, (sMayIdle b).cur.deepIdle = b) ∧
    (∀ b, ∃ u, exec .deepIdleEnter (heard (sMayIdle b) 3 (asker 0x7F false)) = .next u) ∧
    (∀ b, ∃ u, exec .deepIdleLeave (heard (sMayIdle b) 3 (asker 0x7F false)) = .next u) ∧
    (sHolds []).cur.deepIdle = false ∧ ((sHolds []).cores[(95 : Fin 96)]).mode = .active :=
  ⟨fun b op args h => asks ⟨rfl, rfl, rfl⟩ rfl op args h, fun b => ofLen 0xA (wordBytes [if b then 1 else 0]),
    by decide +kernel, mayIdle_of (by decide +kernel) rfl rfl rfl rfl, fun _ => rfl,
    fun _ => ⟨_, rfl⟩, fun _ => ⟨_, rfl⟩, rfl, by decide +kernel⟩

def sService (wanted safe : Bool) : State :=
  let s := sHolds []
  { s with host := { s.host with svcReq := wanted, svcSafe := safe } }

theorem witness_Management_service :
    (∀ a b op args, args.length < 2 ^ 31 → Asks (sService a b) 3 (ask op args) (asker 0x7F false) (req op args)) ∧
    (∀ a b, (sService a b).host.svcReq = a ∧ (sService a b).host.svcSafe = b) ∧
    (∀ b : Bool, OfLen (req 9 (wordBytes [if b then 1 else 0])) 9 8) ∧
    (∀ b : Bool, ((req 9 (wordBytes [if b then 1 else 0])).word 0).getLsbD 0 = b) ∧ OfLen (req 0xC []) 0xC 0 ∧ OfLen (req 7 []) 7 0 :=
  ⟨fun a b op args h => asks ⟨rfl, rfl, rfl⟩ rfl op args h, fun _ _ => ⟨rfl, rfl⟩, fun b => ofLen 9 (wordBytes [if b then 1 else 0]), by decide +kernel, ofLen 0xC [], ofLen 7 []⟩

/-- Context 1 consents to DEBUGMEM, or not. -/
def sDebug (c : BitVec 3) : State :=
  let s := withLines (sHolds []) [(0x4000, 3, [5])]
  { s with reg := { s.reg with ctxs := [(1, { CtxSec.none with final := true, owners := [1], consent := [(1, c)] })] } }

/-- DEBUGMEM of context 1 at a DVA: a write or a read of n bytes. -/
def debugReq (write : Bool) (a : Nat) (n : Word) (bs : List Byte) : MgmtReq :=
  req 0xB (wordBytes [BitVec.ofNat 64 ((if write then 2 ^ 63 else 0) + 2 ^ 48 + a), n] ++ bs)

theorem witness_Management_debug : (∀ c op args, args.length < 2 ^ 31 → Asks (sDebug c) 3 (ask op args) (asker 0x7F false) (req op args)) ∧
    (∀ c, FabOn (sDebug c)) ∧ ((sDebug 0).sec 1).inForce.getLsbD 2 = false ∧ ((sDebug 4).sec 1).inForce.getLsbD 2 = true ∧
    (∀ e ∈ [(false, 0, (8 : Word), ([] : List Byte)), (true, 0, 8, List.replicate 8 7), (false, 0x200000, 8, []), (false, 0, 4097, [])],
      let q := debugReq e.1 e.2.1 e.2.2.1 e.2.2.2
      q.op = 0xB ∧ q.args.length = q.len ∧ 16 ≤ q.len ∧ (q.word 0 >>> 48).truncate 9 = (1 : BitVec 9) ∧ (q.word 0).toNat % 2 ^ 48 = e.2.1 ∧
        (q.word 0).getLsbD 63 = e.1 ∧ q.word 1 = e.2.2.1 ∧ q.args.drop 16 = e.2.2.2) ∧
    (let h := awake (heard (sDebug 4) 3 (asker 0x7F false))
     (h.debugPages 1 false 0x200000 8).2 = false ∧ (h.debugPages 1 false 0 8).2 = true ∧
       ((h.debugPages 1 false 0 8).1.blockRead .debug 1 0 8).2.isOk = true ∧ (h.debugPages 1 true 0 8).2 = true ∧
       ((h.debugPages 1 true 0 8).1.blockWrite .debug 1 0 (List.replicate 8 7)).2.isOk = true) :=
  ⟨fun c op args h => asks ⟨rfl, rfl, rfl⟩ rfl op args h, fun _ => fabOn _ rfl rfl rfl, by decide +kernel, by decide +kernel,
    each _ (by decide +kernel), by decide +kernel⟩

/-- The latest lockout began a minute ago. -/
def sLocked : State := { s0 with cur := { s0.cur with lockout := true, lockoutSince := 0 - 1500000000 } }

theorem witness_Management_lockout : fwRuns sLocked ∧ sLocked.cur.lockout = true ∧
    1500000000 ≤ (sLocked.glob.tick - sLocked.cur.lockoutSince).toNat ∧
    (sFinish [] (List.replicate 7 50000001) 1).cur.failures = List.replicate 7 (sFinish [] [] 1).glob.tick :=
  ⟨⟨rfl, rfl, rfl⟩, rfl, by decide, by decide⟩

/-- The check value of the SMBus CRC-8: that of the digits 1 to 9. -/
theorem test_smbus_pec : pec [0x31, 0x32, 0x33, 0x34, 0x35, 0x36, 0x37, 0x38, 0x39] = 0xF4 := by decide +kernel

/-- SCANTICKS have passed since the latest scan. Nothing is due in a module that has just been filled; core 95 is RETIRED; a
tripped module shows its trip, a running one the governor's mark. -/
def scanAt (s : State) : State := { s with cur := { s.cur with lastScan := 0 - s.cur.scanticks.setWidth 64 } }
def sScan : State := scanAt s0
def sScanRet : State := scanAt { s0 with cores := s0.cores.set 95 { (coreWith st0) with mode := .retired } }
def sTrip : State := scanAt { s0 with sup := { s0.sup with power := .tripped, trip := true, supplyWarn := true } }
def sGov : State := scanAt { s0 with sup := { s0.sup with govPower := true } }

/-- The supply monitor's register is the list's last. -/
def supScan (s : State) : Scanned := scanOf 7 0 0xFE0700000000 0x78 s.supStatus
def chipScan (s : State) : List Scanned := s.scanAll.dropLast

theorem scanAll_sup (s : State) : s.scanAll = chipScan s ++ supScan s :: [] := by
  unfold chipScan State.scanAll
  rw [List.dropLast_concat]
  rfl

theorem witness_Management_scan : (∀ s ∈ [sScan, sScanRet, sTrip, sGov], s.cur.fwrun = true ∧ s.cur.restarting = false ∧
      s.cur.scanticks.toNat ≤ (s.glob.tick - s.cur.lastScan).toNat) ∧
    (∀ s ∈ [sScan, sScanRet], s.sup.power = .running ∧ s.cur.deepIdle = false ∧ (s.scanAll.all fun x => !x.due) = true ∧
      (∀ k g : Fin 16, ((s.mem.stk[k]).groups[g]).isDegraded = false) ∧ ∀ k : Fin 16, (s.mem.stk[k]).repairQ = []) ∧
    (∀ c : Fin 96, (sScan.cores[c]).mode ≠ .retired) ∧ (sScanRet.cores[(95 : Fin 96)]).mode = .retired ∧
    (95 : Nat) ∉ sScanRet.cur.retiredSeen ∧ sScanRet.alm.repair.length < 131071 ∧
    (∀ d : Fin 96, d ≠ 95 → (sScanRet.cores[d]).mode ≠ .retired) ∧
    (∀ s ∈ [sTrip, sGov], s.scanAll = chipScan s ++ supScan s :: [] ∧ (supScan s).due = true ∧
      Tbl.find? s.cur.logged (supScan s).dpa ≠ some (supScan s).value ∧
      ((chipScan s ++ []).all fun z => !z.due && z.dpa != (supScan s).dpa) = true ∧ s.alm.logPos < 589824) :=
  ⟨each _ (by decide +kernel), each _ (by decide +kernel), by decide +kernel, by decide +kernel, by decide +kernel, by decide +kernel,
    by decide +kernel, fun s h => ⟨scanAll_sup s, (each _ (by decide +kernel) : ∀ s ∈ [sTrip, sGov], (supScan s).due = true ∧
      Tbl.find? s.cur.logged (supScan s).dpa ≠ some (supScan s).value ∧
      ((chipScan s ++ []).all fun z => !z.due && z.dpa != (supScan s).dpa) = true ∧ s.alm.logPos < 589824) s h⟩⟩

/-! ### Supply and pins -/

def sSup (x : Supply) : State := { s0 with sup := { x with power := .running } }

/-- A crossing that asks for a checkpoint; the vault's timer may be due as well, with its record at DVA 8. -/
def sAsked (v : Vault) (on : Bool) : State :=
  { sVault { v with supplyEn := true } on [] with
    sup := { s0.sup with wcount := 1 }, glob := { s0.glob with tick := 25000000 } }

theorem witness_SupplyAndPins_supply : (∀ x, monitored (sSup x)) ∧
    (∀ c : Clamp, (sSup { Supply.reset with clamp := c, clampJ := 256 }).sup.clamp = c) ∧
    256 ≤ (sSup { Supply.reset with clamp := .rising, clampJ := 256 }).sup.clampJ ∧ Supply.reset.clamp = .normal ∧ Supply.reset.warnings = [] ∧
    1 < Supply.reset.wcount.toNat ∧ Supply.reset.belowRel = false ∧
    (∀ v on, monitored (sAsked v on) ∧ (sAsked v on).sup.clamp = .normal ∧ (sAsked v on).sup.warnings = [] ∧ (sAsked v on).sup.wcount = 1 ∧
      FabOn (sAsked v on) ∧ (sAsked v on).vault.supplyEn = true ∧ (sAsked v on).mem.vaultEn = on) ∧
    (sAsked vault1 false).vault.dueaddr = 0 ∧
    (let s := sAsked { vault1 with period := 1, dueaddr := 8 } true
     s.vault.fired = false ∧ s.vault.period ≠ 0 ∧ s.vault.period.toNat * 25000000 ≤ (s.glob.tick - s.vault.since).toNat ∧ s.vault.dueaddr ≠ 0) ∧
    (let x : Supply := { Supply.reset with clamp := .held, belowRel := false, holding := true, dipValid := true, holdSince := 0 - 25000 }
     (sSup x).sup.clamp = .held ∧ (sSup x).sup.holding = true ∧ (sSup x).sup.dipValid = true ∧
       25000 ≤ (s0.glob.tick - (sSup x).sup.holdSince).toNat) ∧
    (∀ c : Clamp, let x : Supply := { Supply.reset with clamp := c, belowRel := true, dipValid := true }
     (sSup x).sup.belowRel = true ∧ (sSup x).sup.clamp = c ∧ (sSup x).sup.dipValid = true) ∧ Clamp.normal ≠ .held :=
  ⟨fun _ => .inl rfl, fun _ => rfl, Nat.le_refl _, rfl, rfl, by decide, rfl,
    fun _ _ => ⟨.inl rfl, rfl, rfl, rfl, fabOn _ rfl rfl rfl, rfl, rfl⟩, rfl,
    ⟨rfl, (by decide : (1 : BitVec 32) ≠ 0), (by decide : (1 : BitVec 32).toNat * 25000000 ≤ ((25000000 : Word) - 0).toNat), (by decide : (8 : Addr) ≠ 0)⟩,
    ⟨rfl, rfl, rfl, by decide⟩, fun _ => ⟨rfl, rfl, rfl⟩, by decide⟩

/-- A trip with a flash the module can use, in a phase that has read it, and with one it cannot use. -/
def sHot (dev : List Byte) : State := { s0 with alm := { Almanac.factory with sfdp := dev }, cur := { s0.cur with phase := 10 } }

theorem witness_SupplyAndPins_trip : (∀ d, (sHot d).sup.power = .running ∧ 3 ≤ (sHot d).cur.phase.toNat) ∧ (sHot sfdp0).alm.usable = true ∧
    (sHot []).alm.usable = false :=
  ⟨fun _ => ⟨rfl, by show 3 ≤ (10 : BitVec 4).toNat; decide⟩, (usable_congr rfl).trans usable_sfdp0, by decide +kernel⟩

/-- Just over and at the limits; just below where the clock may rise. -/
def meas (p i : BitVec 16) (d : Int) : Measure := { Measure.zero with powerDw := p, currentMa := i, die := [d] }

theorem witness_SupplyAndPins_governor : 18000 < (meas 18001 0 0).powerDw.toNat ∧ 12 < (sSup { Supply.reset with farith := 13 }).sup.farith ∧
    (meas 18000 50001 0).powerDw.toNat ≤ 18000 ∧ 50000 < (meas 18000 50001 0).currentMa.toNat ∧
    (sSup { Supply.reset with farith := 12 }).sup.farith = 12 ∧ (meas 17099 47499 96).powerDw.toNat < 17100 ∧
    (meas 17099 47499 96).currentMa.toNat < 47500 ∧ hottest (meas 17099 47499 96).die < 97 ∧
    (∀ n ∈ [8, 9], (sSup { Supply.reset with farith := 23, govQuiet := n }).sup.farith < 24 ∧
      (sSup { Supply.reset with farith := 23, govQuiet := n }).sup.govQuiet = n) ∧ (sSup Supply.reset).sup.power = .running ∧
    25000 ≤ (s0.glob.tick - (sSup { Supply.reset with govLast := 0 - 25000 }).sup.govLast).toNat :=
  ⟨by decide, by decide, by decide, by decide, rfl, by decide, by decide, by decide, fun _ _ => ⟨by show 23 < 24; decide, rfl⟩, rfl, by decide⟩

/-- The button's level, and the milliseconds since it last changed. -/
def sButton (b r : Bool) (ms : Nat) : State :=
  { sSup { Supply.reset with button := b, buttonAt := 0 - BitVec.ofNat 64 (25000 * ms) } with cur := { s0.cur with restarting := r } }

theorem witness_SupplyAndPins_button : (∀ b r ms, (sButton b r ms).sup.power = .running ∧ (sButton b r ms).sup.button = b ∧
      (sButton b r ms).cur.restarting = r ∧ (sButton b r ms).host.svcReq = false) ∧
    (∀ ms ∈ [20, 1999, 2000, 2999, 3000, 9999, 10000], 500000 ≤ ((sButton true false ms).glob.tick - (sButton true false ms).sup.buttonAt).toNat ∧
      ((sButton true false ms).glob.tick - (sButton true false ms).sup.buttonAt).toNat / 25000 = ms) ∧
    (∀ p ∈ [PowerMode.running, .tripped, .held], (sPower p true).sup.power = p) ∧
    (0x02 : Byte) ∉ ([0x00, 0x01, 0x10, 0x11, 0x20, 0x21, 0x22, 0x30, 0x31, 0x32, 0x40] : List Byte) :=
  ⟨fun _ _ _ => ⟨rfl, rfl, rfl, rfl⟩, each _ (by decide +kernel), fun _ _ => rfl, by decide⟩

/-! ### Registers and the whole machine -/

/-- REGREAD of a misaligned register address. -/
theorem witness_Registers : (∀ m : RegMaster, pathOpen s0 m) ∧ (∀ a ∈ [(0xFE0000000000 : Addr), 0xFDFFFFFFFFF8, 0xFE1000000000, 0xFE0F00000000],
      0xC000000000 ≤ a.toNat ∧ a.toNat % 8 = 0) ∧
    (0xFDFFFFFFFFF8 : Addr).toNat / 2 ^ 32 < 0xFE00 ∧ 0xFE10 ≤ (0xFE1000000000 : Addr).toNat / 2 ^ 32 ∧
    (0xFE0F00000000 : Addr).toNat / 2 ^ 32 = 0xFE0F ∧ (0xFE0000000004 : Addr).toNat % 8 ≠ 0 ∧
    Asks (sHolds []) 3 (ask 1 (wordBytes [0xFE0000000004])) (asker 0x7F false) (req 1 (wordBytes [0xFE0000000004])) ∧ (asker 0x7F false).holds 0 ∧
    OfLen (req 1 (wordBytes [0xFE0000000004])) 1 8 ∧
    (let a := ((req 1 (wordBytes [0xFE0000000004])).word 0).toNat % 2 ^ 48
     0xC000000000 ≤ a ∧ a % 8 ≠ 0) ∧
    s0.host.lock = true ∧ ({ s0 with host := { s0.host with lock := false } } : State).host.lock = false :=
  ⟨fun _ => open0 _ _ rfl rfl Nat.zero_lt_two rfl, each _ (by decide +kernel), by decide, by decide, by decide, by decide,
    asks ⟨rfl, rfl, rfl⟩ rfl _ _ (by decide), holdsAll 0 (by decide), ofLen 1 (wordBytes [0xFE0000000004]), by decide +kernel, rfl, rfl⟩

/-- SAFE under a request with no context LIVE, set and clear; context 1 LIVE; no request. -/
def sSafe (wanted safe : Bool) : State := { sQuiet with host := { sQuiet.host with svcReq := wanted, svcSafe := safe } }
def sLive : State := { sSafe true false with host := { (sSafe true false).host with ctxs := [(1, ctx1)] } }

theorem witness_Registers_safe : (∀ a b, pathOpen (sSafe a b) .host ∧ (sSafe a b).host.svcReq = a ∧ (sSafe a b).host.svcSafe = b ∧
      1 ∉ (sSafe a b).ctxScan.2) ∧
    (0 : Word).getLsbD 62 = false ∧ (0 : Word).getLsbD 61 = false ∧
    pathOpen sLive .host ∧ sLive.host.svcReq = true ∧ sLive.host.svcSafe = false ∧ 1 ∈ sLive.ctxScan.2 := by
  refine ⟨fun _ _ => ⟨open0 _ _ rfl rfl Nat.zero_lt_two rfl, rfl, rfl, scan_free rfl rfl rfl rfl 1 (by decide)⟩, by decide, by decide,
    open0 _ _ rfl rfl Nat.zero_lt_two rfl, rfl, rfl, ?_⟩
  have h1 : sLive.ctxStateV (0 + 1) = (sLive, 1) := rfl
  unfold State.ctxScan
  rw [show List.range 511 = 0 :: (List.range 510).map Nat.succ from List.range_succ_eq_map, List.foldl_cons, h1]
  exact List.foldlRecOn (motive := fun (x : State × List Nat) => 1 ∈ x.2) _ _ List.mem_cons_self fun x h _ _ => List.mem_append_left _ h

/-- The worked example of R220 and a word of one word. -/
theorem witness_RoundTrip : (Instr.mmq p0 ⟨0, 2, 2, false, false, false, true, false, 4, 5, 0, 0, 0, 1023, 63, 63, 128, 128⟩).wf = true ∧
    encode (.mmq p0 ⟨0, 2, 2, false, false, false, true, false, 4, 5, 0, 0, 0, 1023, 63, 63, 128, 128⟩) =
      some (0x400042110A000000, 0x7FFF9F8008000100) ∧ (Instr.add p0 ⟨31, 31, 31⟩).wf = true ∧
    illegalDetail 0x0010886000000000 0 = none ∧ illegalDetail 0x400042110A000000 0x7FFF9F8008000100 = none := by decide

/-- The machine with a command in front. -/
def queued (i : Instr) (s : State) : State := { s with pending := [i] }

/-- What a step answers, where it answers a next state. -/
def after (s : State) : Option State :=
  match step s with
  | .next t => some t
  | _ => none

theorem next_of {s : State} (h : (after s).isSome = true) : ∃ t, step s = .next t := by
  unfold after at h
  split at h
  · exact ⟨_, ‹_›⟩
  · cases h

/-- A partial write is merged into a line in DRAM. -/
theorem witness_MemoryCanonical : MemWf (queued (.partialWriteMerge 0xBFFFFFFF noErr) (sPart true)) ∧
    ∃ t, step (queued (.partialWriteMerge 0xBFFFFFFF noErr) (sPart true)) = .next t :=
  ⟨by unfold MemWf; decide +kernel, next_of (by decide +kernel)⟩

theorem witness_ZeroRegister : ZeroRegs (queued (.add p0 ⟨0, 1, 2⟩) s0) ∧ ∃ t, step (queued (.add p0 ⟨0, 1, 2⟩) s0) = .next t :=
  ⟨by unfold ZeroRegs; decide +kernel, next_of (by decide +kernel)⟩

/-- ADD writes s31 = s1 + s2 and leaves s0; without power nothing passes. -/
theorem test_step_add : ((after (queued (.add p0 ⟨31, 1, 2⟩) s0)).map fun t => regOf t p0 31) = some 3 ∧
    ((after (queued (.add p0 ⟨0, 1, 2⟩) s0)).map fun t => regOf t p0 0) = some 0 := by decide +kernel

theorem test_idle_off : (after (sPower .off true)).map (fun t => t.glob.tick) = some 0 ∧
    (after s0).map (fun t => t.glob.tick) = some 1 := by decide +kernel

end Sys2Proof.Tests
end

section
/-! Vector instructions that write one plate: what `mapPlate` leaves in a core, and what the issue of such an instruction
leaves in the state (R137, R139, R157). -/
namespace Sys2Proof.Claims
open Sys2Proof.Machine

/-! ### Plate rows -/

/-- Rows of plates lie at different keys. -/
theorem plateKey_inj {p q : BitVec 4} {r i : Nat} (hr : r < 64) (hi : i < 64) :
    q.toNat * 64 + i = p.toNat * 64 + r ↔ q = p ∧ i = r := by
  rw [← BitVec.toNat_inj]
  omega

theorem plateRow_setRow (k : Core) (p q : BitVec 4) {r i : Nat} (v : Vector W32 64) (hr : r < 64) (hi : i < 64) :
    (k.setRow p r v).plateRow q i = if q = p ∧ i = r then v else k.plateRow q i := by
  unfold Core.plateRow Core.setRow
  split
  · next h => rw [h.1, h.2, Tbl.get_set_self]
  · next h => exact Tbl.get_set_ne _ _ _ _ _ (mt (plateKey_inj hr hi).mp h)

/-- The first n rows of a plate, written in order. -/
theorem plateRow_setRows (k : Core) (p q : BitVec 4) (g : Nat → Vector W32 64) {i : Nat} (hi : i < 64) :
    ∀ n : Nat, n ≤ 64 → ((List.range n).foldl (fun k r => k.setRow p r (g r)) k).plateRow q i =
      if q = p ∧ i < n then g i else k.plateRow q i
  | 0, _ => by simp
  | n + 1, hn => by
    rw [List.range_succ, List.foldl_append, List.foldl_cons, List.foldl_nil, plateRow_setRow _ _ _ _ (by omega) hi,
      plateRow_setRows k p q g hi n (by omega)]
    by_cases hq : q = p
    · rcases Nat.lt_trichotomy i n with h | rfl | h
      · simp [hq, h, h.ne, Nat.lt_succ_of_lt h]
      · simp [hq]
      · simp [hq, h.ne', show ¬ i < n by omega, show ¬ i < n + 1 by omega]
    · simp [hq]

theorem plateRow_setPlate (k : Core) (p q : BitVec 4) (g : Nat → Vector W32 64) {i : Nat} (hi : i < 64) :
    (k.setPlate p g).plateRow q i = if q = p then g i else k.plateRow q i := by
  simp [Core.setPlate, plateRow_setRows k p q g hi 64 (Nat.le_refl _), hi]

/-- Writing rows changes the plates of a core alone. -/
theorem setRows_frame (p : BitVec 4) (g : Nat → Vector W32 64) (l : List Nat) (k : Core) :
    ∃ x, l.foldl (fun k r => k.setRow p r (g r)) k = { k with plates := x } := by
  induction l generalizing k with
  | nil => exact ⟨k.plates, rfl⟩
  | cons r l ih =>
    obtain ⟨x, hx⟩ := ih (k.setRow p r (g r))
    exact ⟨x, hx⟩

/-! ### Grids -/

/-- Row r of a grid. -/
theorem gridOf_getD (k : Core) (pd : BitVec 4) (vl : Nat) (f : Nat → Fin 64 → Conv) {r : Nat} (hr : r < 64) :
    (gridOf k pd vl f).getD r [] =
      (List.finRange 64).map fun c => if c.val < vl then f r c else ⟨k.plateWord pd r c, false, false⟩ := by
  simp [gridOf, hr]

/-- A word of a grid as a plate holds it: columns at or beyond vl keep their contents (R139). -/
theorem rowOf_gridOf (k : Core) (pd : BitVec 4) (vl : Nat) (f : Nat → Fin 64 → Conv) {r : Nat} (hr : r < 64) (n : Fin 64) :
    (rowOf ((gridOf k pd vl f).getD r []))[n] = if n.val < vl then (f r n).bits else k.plateWord pd r n := by
  rw [gridOf_getD k pd vl f hr]
  simp only [rowOf, Fin.getElem_fin, Vector.getElem_ofFn]
  rw [List.getD_eq_getElem _ _ (by simp), List.getElem_map, List.getElem_finRange]
  simp only [Fin.cast_mk, Fin.eta]
  split <;> rfl

/-- An indication of a grid comes from the words below vl (R157). -/
theorem any_gridOf (k : Core) (pd : BitVec 4) (vl : Nat) (f : Nat → Fin 64 → Conv) (m : Conv → Bool)
    (hm : ∀ w, m ⟨w, false, false⟩ = false) :
    (gridOf k pd vl f).flatten.any m = anyWord vl fun r n => m (f r n) := by
  simp only [gridOf, anyWord, List.any_flatten, List.any_map, Function.comp_def]
  refine congrArg _ (funext fun r => congrArg _ (funext fun n => ?_))
  split <;> simp [*]

/-! ### One plate written -/

/-- `mapPlate` changes the plates and the vector flags of a core alone, the flags by its indications. -/
theorem mapPlate_frame (k : Core) (t : Fin 4) (pd : BitVec 4) (vl : Nat) (f : Nat → Fin 64 → Conv) :
    ∃ x, k.mapPlate t pd vl f = { k with
      plates := x, vflags := withFlags k t (anyWord vl fun r n => (f r n).nan) (anyWord vl fun r n => (f r n).ovf) false } := by
  obtain ⟨x, hx⟩ := setRows_frame pd (fun r => rowOf ((gridOf k pd vl f).getD r [])) (List.range 64) k
  refine ⟨x, ?_⟩
  have hw : k.writeGrid pd (gridOf k pd vl f) = { k with plates := x } := hx
  simp only [Core.mapPlate, hw, Core.mark, Core.orVec, anyMarks, any_gridOf k pd vl f Conv.nan fun _ => rfl,
    any_gridOf k pd vl f Conv.ovf fun _ => rfl, withFlags]

theorem plateRow_mark (k : Core) (t : Fin 4) (m : Marks) (q : BitVec 4) (r : Nat) :
    (k.mark t m).plateRow q r = k.plateRow q r := rfl

theorem plateRow_mapPlate (k : Core) (t : Fin 4) (pd q : BitVec 4) (vl : Nat) (f : Nat → Fin 64 → Conv) {r : Nat} (hr : r < 64) :
    (k.mapPlate t pd vl f).plateRow q r = if q = pd then rowOf ((gridOf k pd vl f).getD r []) else k.plateRow q r := by
  rw [Core.mapPlate, plateRow_mark, Core.writeGrid, plateRow_setPlate k pd q _ hr]

/-! ### Issue in a vector engine that is free -/

theorem plate_of_owns {s : State} {p : Site} {ps : List (BitVec 4)} (h : Owns s p ps) {q : BitVec 4} (hq : q ∈ ps) :
    (((s.core p.core).streams[p.stream.val]).plates).getLsbD q.toNat = true := h.1 q hq

/-- A named plate that the stream holds is not foreign to it (R140). -/
theorem foreign_of_owns {s : State} {p : Site} {ps : List (BitVec 4)} (h : Owns s p ps) :
    (s.core p.core).foreign p.stream ps = none := by
  simp only [Core.foreign, List.find?_eq_none, BitVec.getLsbD_or]
  intro q hq
  simp [plate_of_owns h hq]

/-- A bit of a plate mask names a plate of the list. -/
theorem plateMask_bit (i : Nat) (ps : List (BitVec 4)) (m : BitVec 16) :
    (ps.foldl (fun m p => m ||| (1#16 <<< p.toNat)) m).getLsbD i = true →
      m.getLsbD i = true ∨ ∃ q ∈ ps, q.toNat = i := by
  induction ps generalizing m with
  | nil => exact .inl
  | cons q ps ih =>
    intro h
    rcases ih _ h with h | ⟨x, hx, e⟩
    · simp only [BitVec.getLsbD_or, BitVec.getLsbD_shiftLeft, BitVec.getLsbD_one, Bool.or_eq_true, Bool.and_eq_true,
        decide_eq_true_eq, Bool.not_eq_true', decide_eq_false_iff_not] at h
      rcases h with h | ⟨⟨_, h1⟩, _, h2⟩
      · exact .inl h
      · exact .inr ⟨q, List.mem_cons_self, by omega⟩
    · exact .inr ⟨x, List.mem_cons_of_mem q hx, e⟩

/-- Plates the stream holds are not awaited (R180). -/
theorem awaited_of_owns {s : State} {p : Site} {ps : List (BitVec 4)} (h : Owns s p ps) :
    (s.core p.core).awaited p.stream ps = 0 := by
  apply BitVec.eq_of_getLsbD_eq
  intro i hi
  simp only [Core.awaited, BitVec.getLsbD_and, BitVec.getLsbD_not]
  by_cases hm : (plateMask ps).getLsbD i = true
  · rcases plateMask_bit i ps 0 hm with h0 | ⟨q, hq, rfl⟩
    · simp at h0
    · simp [plate_of_owns h hq]
  · simp [hm]

/-- An engine that copies nothing and queues nothing is not held up (R131). -/
theorem vecHeld_of_owns {s : State} {p : Site} {ps : List (BitVec 4)} (h : Owns s p ps) :
    (s.core p.core).vecHeld = false := by
  obtain ⟨hv, hq⟩ := h.2
  have hr : (s.core p.core).vtakeRuns = false := by
    rw [Core.vtakeRuns, List.any_eq_false]
    intro st hst
    obtain ⟨u, hu, rfl⟩ := List.getElem_of_mem hst
    have := hv ⟨u, by simpa using hu⟩
    simpa [State.core] using this
  have he : (s.core p.core).vecQ = [] := hq
  simp [Core.vecHeld, hr, he]

/-- A vector instruction with its plates in a free engine has its effect at issue, its cycles counted, and the stream goes
on 8 bytes later. -/
theorem issueVec_of_owns {p : Site} {i : Instr} {s s' : State} {w : Word} {n : Nat × Nat} (h : Presents p i s)
    (ho : Owns s p (vecPlates i)) (he : encode i = some (w, 0)) (hx : hasExt w = false)
    (hn : vecCycles (vlenOf s p) i = some n) (hb : vecBody i (s.here p w) s = .done s') :
    issueVec p i s = .next ((s'.modCore p.core fun k => k.vecCount p.core s'.tick n true).retireTo p (pcOf s p + 8)) := by
  have hw : withPlates i none (vecPlates i) (vecBody i) (s.here p w) s = .done s' := by
    rw [withPlates_free (a := s.here p w) (foreign_of_owns ho) (awaited_of_owns ho) (vecHeld_of_owns ho)
      fun t => by rw [hb]; nofun, hb]
  have hc : (Issued.done s').counted i (s.here p w) (s.stream p.core p.stream).vl.toNat =
      .done (s'.modCore p.core fun k => k.vecCount p.core s'.tick n true) := by
    have hn' : vecCycles (s.stream p.core p.stream).vl.toNat i = some n := hn
    simp [Issued.counted, hn']
  rw [issueVec, issue_of_presents h _ he, hw, hc]
  simp [finish, insnLen, hx]

/-! ### What the issue of such an instruction leaves -/

theorem plateRow_vecCount (k : Core) (c : Fin 96) (tick : Word) (n : Nat × Nat) (b : Bool) (q : BitVec 4) (r : Nat) :
    (k.vecCount c tick n b).plateRow q r = k.plateRow q r := rfl

/-- The issue of an instruction leaves the plates and flags of its core, and issues from its stream alone. -/
theorem retireTo_core (s : State) (p : Site) (pc : Addr) :
    (∀ q r, (((s.retireTo p pc).cores[p.core]).plateRow q r) = (s.cores[p.core]).plateRow q r) ∧
    ((s.retireTo p pc).cores[p.core]).vflags = (s.cores[p.core]).vflags ∧
    ((s.retireTo p pc).cores[p.core]).tflags = (s.cores[p.core]).tflags ∧
    ((s.retireTo p pc).cores[p.core]).issued = (s.cores[p.core]).issued + 1 ∧
    ((s.retireTo p pc).cores[p.core]).streams =
      (s.cores[p.core]).streams.set p.stream (((s.cores[p.core]).streams[p.stream]).issuedAt pc) := by
  simp [State.retireTo, Core.plateRow, Core.modStream]

/-- Counting cycles and a change of a stream do not meet. -/
theorem vecCount_modStream (k : Core) (t : Fin 4) (g : Stream → Stream) (c : Fin 96) (tick : Word) (n : Nat × Nat) (b : Bool) :
    (k.modStream t g).vecCount c tick n b = (k.vecCount c tick n b).modStream t g := rfl

/-- A vector instruction that changes its own stream alone, once its cycles are counted and it has issued. -/
theorem retireTo_vecCount_modStream (s : State) (p : Site) (pc : Addr) (g : Stream → Stream) (n : Nat × Nat) :
    ((s.modStream p.core p.stream g).modCore p.core fun k => k.vecCount p.core s.tick n true).retireTo p pc =
      issuedAs (withCore s p.core ((s.cores[p.core]).vecCount p.core s.glob.tick n true)) p pc g := by
  have hswap : ((s.modStream p.core p.stream g).modCore p.core fun k => k.vecCount p.core s.tick n true) =
      (s.modCore p.core fun k => k.vecCount p.core s.tick n true).modStream p.core p.stream g := by
    simp only [State.modStream, State.modCore_modCore, vecCount_modStream]
  rw [hswap]
  exact retireTo_modStream _ p pc g

/-- An effect on the issuing core and the issue leave every other core. -/
theorem retireTo_modCore_onlyCore (s : State) (p : Site) (pc : Addr) (f : Core → Core) :
    OnlyCore p.core s ((s.modCore p.core f).retireTo p pc) := by
  intro d hd
  rw [State.retireTo, State.modCore_ne _ _ _ _ hd, State.modStream, State.modCore_ne _ _ _ _ hd, State.modCore_ne _ _ _ _ hd]

/-- An effect on the issuing core and the issue leave every part but the cores. -/
theorem retireTo_modCore_only (s : State) (p : Site) (pc : Addr) (f : Core → Core) :
    Only [.cores] s ((s.modCore p.core f).retireTo p pc) := by
  obtain ⟨hp, hq⟩ := retireTo_only (s.modCore p.core f) p pc
  refine ⟨hp, fun q hn => ?_⟩
  cases q with
  | cores => exact absurd (List.mem_singleton_self _) hn
  | _ => exact hq _ hn

/-- An instruction whose effect is `mapPlate` on its core, once its cycles are counted and it has issued. -/
theorem wrote_mapPlate (s : State) (p : Site) (pd : BitVec 4) (vl : Nat) (f : Core → Nat → Fin 64 → Conv) (n : Nat × Nat) :
    Wrote p pd vl (f s.cores[p.core]) s ((s.modCore p.core fun k =>
      (k.mapPlate p.stream pd vl (f k)).vecCount p.core s.tick n true).retireTo p (pcOf s p + 8)) := by
  obtain ⟨x, hx⟩ := mapPlate_frame s.cores[p.core] p.stream pd vl (f s.cores[p.core])
  obtain ⟨hrow, hv, ht, hi, hst⟩ := retireTo_core (s.modCore p.core fun k =>
    (k.mapPlate p.stream pd vl (f k)).vecCount p.core s.tick n true) p (pcOf s p + 8)
  have hg : ∀ g : Core → Core, ((s.modCore p.core g).cores[p.core]) = g s.cores[p.core] := State.modCore_self s p.core
  rw [hg] at hv ht hi hst
  refine ⟨fun r m hr => ?word, fun q hq r hr => ?plates, hv.trans ?_, ht.trans ?_,
    ⟨retireTo_modCore_onlyCore s p _ _, hst.trans ?_, hi.trans ?_⟩, retireTo_modCore_only s p _ _⟩
  case word =>
    rw [wordAt, hrow, hg, plateRow_vecCount, plateRow_mapPlate _ _ _ _ _ _ hr, if_pos rfl, rowOf_gridOf _ _ _ _ hr]
    rfl
  case plates =>
    rw [hrow, hg, plateRow_vecCount, plateRow_mapPlate _ _ _ _ _ _ hr, if_neg (mt List.mem_singleton.mpr hq)]
  all_goals
    rw [hx]
    simp [Core.vecCount, issuedAs, Stream.issuedAt, pcOf]

/-- A vector instruction with its plates in a free engine that writes one plate word by word. -/
theorem answers_of_mapPlate {p : Site} {i : Instr} {s : State} {w : Word} {n : Nat × Nat} {pd : BitVec 4} {vl : Nat}
    {f : Core → Nat → Fin 64 → Conv} (h : Presents p i s) (ho : Owns s p (vecPlates i)) (hi : exec i s = issueVec p i s)
    (he : encode i = some (w, 0)) (hx : hasExt w = false) (hn : vecCycles (vlenOf s p) i = some n)
    (hb : vecBody i (s.here p w) s = .done (s.modCore p.core fun k => k.mapPlate p.stream pd vl (f k))) :
    Answers i s (Wrote p pd vl (f s.cores[p.core]) s) := by
  refine ⟨_, hi.trans (issueVec_of_owns h ho he hx hn hb), ?_⟩
  rw [State.modCore_modCore]
  exact wrote_mapPlate s p pd vl f n

/-! ### Words of the moves -/

/-- The packed formats are those of 16 bits (R137). -/
theorem packed_iff_bits (f : Fmt) : f.packed = true ↔ f.bits = 16 := by cases f <;> decide

/-- A word's low half in both halves (R228). -/
theorem packHalves_self (w : W32) : packHalves w w = (w.truncate 16 : BitVec 16) ++ (w.truncate 16 : BitVec 16) := by
  apply BitVec.eq_of_getLsbD_eq
  intro i hi
  have hm : (0xFFFF#32).getLsbD i = decide (i < 16) := by interval_cases i <;> rfl
  have hp : packHalves w w = w &&& 0xFFFF#32 ||| w <<< 16 := rfl
  rw [hp, BitVec.getLsbD_or, BitVec.getLsbD_and, BitVec.getLsbD_shiftLeft, BitVec.getLsbD_append, hm]
  by_cases h : i < 16
  · simp [h]
  · simp [h, hi, show i - 16 < 16 by omega]

/-- What VSPLAT writes: the low word, or its low half twice where the format is packed (R228). -/
theorem splatWord_eq (f : Fmt) (w : W32) : (if f.packed = true then packHalves w w else w) =
    if f.bits = 16 then (w.truncate 16 : BitVec 16) ++ (w.truncate 16 : BitVec 16) else w := by
  rw [packHalves_self]
  exact if_congr (packed_iff_bits f) rfl rfl

/-- An instruction that draws nothing leaves the generators (R162). -/
theorem plateDraws_none (k : Core) (packed : Bool) : k.plateDraws false packed = ([], k) := rfl

/-- VCVT between unpacked forms without a draw converts each word by itself (R146). -/
theorem cvtWord_unpacked (k : Core) (o : LayV) (src : Fmt) (vl : Nat) (hs : src.packed = false)
    (hd : (fmtV o).packed = false) :
    cvtWord k o src vl [] = fun r c => convert src (fmtV o) (Rnd.ofField o.rnd 0) o.ovfm (k.plateWord o.pa r c) := by
  funext r c
  simp [cvtWord, hs, hd, rndAt, roundBits]

/-! ### The moves -/

theorem vsplat_wrote (p : Site) (o : LayVS) (s : State) (h : Presents p (.vsplat p o) s) (ho : Owns s p [o.p]) :
    Answers (.vsplat p o) s (Wrote p o.p (vlenOf s p) (fun _ _ =>
      let w : W32 := (regOf s p o.r).truncate 32
      ⟨if (fmtOf o.fmt).bits = 16 then (w.truncate 16 : BitVec 16) ++ (w.truncate 16 : BitVec 16) else w, false, false⟩) s) := by
  refine answers_of_mapPlate (f := fun _ _ _ => _) h ho rfl rfl (hasExt_opc _ _ _) rfl ?_
  simp only [vecBody, opVsplat, State.rx_here, splatWord_eq]
  rfl

theorem vmov_wrote (p : Site) (o : LayV) (s : State) (h : Presents p (.vmov p o) s) (ho : Owns s p (one o)) :
    Answers (.vmov p o) s (Wrote p o.pd (vlenOf s p) (fun r n => ⟨wordAt s p.core o.pa r n, false, false⟩) s) :=
  answers_of_mapPlate (f := fun k r n => plain (k.plateWord o.pa r n)) h ho rfl rfl (hasExt_opc _ _ _) rfl rfl

theorem vcvt_wrote (p : Site) (o : LayV) (s : State) (h : Presents p (.vcvt p o) s) (ho : Owns s p (one o)) (hr : o.rnd ≠ 2)
    (hs : (fmtOf (o.aux.truncate 5)).packed = false) (hd : (fmtIs o).packed = false) :
    Answers (.vcvt p o) s (Wrote p o.pd (vlenOf s p) (fun r n =>
      convert (fmtOf (o.aux.truncate 5)) (fmtIs o) (Rnd.ofField o.rnd 0) o.ovfm (wordAt s p.core o.pa r n)) s) := by
  refine answers_of_mapPlate (f := fun k r n =>
    convert (fmtOf (o.aux.truncate 5)) (fmtV o) (Rnd.ofField o.rnd 0) o.ovfm (k.plateWord o.pa r n)) h ho rfl rfl
    (hasExt_opc _ _ _) rfl ?_
  have hd' : (fmtV o).packed = false := hd
  have hdraw : (o.rnd == 2#2) = false := by simpa using hr
  simp only [vecBody, opVcvt, hs, hd', hdraw, Bool.not_false, Bool.and_false, Bool.false_eq_true, if_false,
    plateDraws_none, cvtWord_unpacked _ _ _ _ hs hd']
  rfl

theorem vscaleRun_wrote (p : Site) (o : LayV) (s : State) (h : Presents p (.vscaleRun p o) s) (ho : Owns s p [o.pd, o.pb]) :
    Answers (.vscaleRun p o) s (Wrote p o.pd (vlenOf s p) (fun r n =>
      Fmt.fp32.rne ((f32 (wordAt s p.core o.pd r n)).mul (f32 (wordAt s p.core o.pb r 2)))) s) :=
  answers_of_mapPlate (f := fun k r n => Fmt.fp32.rne ((f32 (k.plateWord o.pd r n)).mul (f32 (k.plateWord o.pb r 2))))
    h ho rfl rfl (hasExt_opc _ _ _) rfl rfl

theorem vlse_wrote (p : Site) (o : LayV) (s : State) (h : Presents p (.vlse p o) s) (ho : Owns s p [o.pd, o.pb]) :
    Answers (.vlse p o) s (Wrote p o.pd 1 (fun r _ =>
      lseRow (wordAt s p.core o.pb r 0) (wordAt s p.core o.pb r 1)) s) :=
  answers_of_mapPlate (f := fun k r _ => lseRow (k.plateWord o.pb r 0) (k.plateWord o.pb r 1))
    h ho rfl rfl (hasExt_opc _ _ _) rfl rfl

theorem vget_issuedAs (p : Site) (o : LayVS) (s : State) (h : Presents p (.vget p o) s) (ho : Owns s p [o.p]) :
    exec (.vget p o) s = .next (issuedAs (withCore s p.core ((s.cores[p.core]).vecCount p.core s.glob.tick (1, 0) true)) p
      (pcOf s p + 8) (putReg o.r ((wordAt s p.core o.p o.row.toNat o.col.toFin).zeroExtend 64))) := by
  have hi : exec (.vget p o) s = issueVec p (.vget p o) s := rfl
  rw [hi, issueVec_of_owns h ho rfl (hasExt_opc _ _ _) rfl rfl]
  refine congrArg _ ((retireTo_vecCount_modStream s p _ _ _).trans ?_)
  congr 1
  funext st
  exact setReg_eq st _ _

/-- Settles O30: VGET goes through its register write, the five others through `mapPlate` in a free engine. -/
theorem vectorMoves : Obligations.VectorMoves :=
  ⟨vsplat_wrote, vmov_wrote, vget_issuedAs, vcvt_wrote, vscaleRun_wrote, vlse_wrote⟩

end Sys2Proof.Claims
end

section
/-! SYNC: what its issue leaves, and when the wait it starts ends (R186, R231). -/
namespace Sys2Proof.Claims
open Sys2Proof.Machine

/-! ### Issue -/

/-- A change of a stream, in the words of the statements. -/
theorem modStream_eq_withStream (s : State) (p : Site) (f : Stream → Stream) :
    s.modStream p.core p.stream f = withStream s p.core p.stream (f (streamOf s p)) := rfl

/-- SYNC goes on 8 bytes later; with work it names outstanding the stream waits there. -/
theorem exec_sync (p : Site) (o : SyncOps) (s : State) (h : Presents p (.sync p o) s) :
    exec (.sync p o) s = .next
      (if (s.cores[p.core]).pending p.stream (streamOf s p).seqNo o then
        (issuedAs s p (pcOf s p + 8) id).stallAt p (.sync o (streamOf s p).seqNo)
      else issuedAs s p (pcOf s p + 8) id) := by
  have hi : exec (.sync p o) s = execSync p o s := rfl
  have he : encode (.sync p o) = some (opc 0x2A 0x00 o.bits, 0) := rfl
  have hx : hasExt (opc 0x2A 0x00 o.bits) = false := hasExt_opc _ _ _
  rw [hi, execSync, issue_of_presents h _ he, Issued.counted_none rfl]
  change Host.Outcome.next (finish p _ (if (s.cores[p.core]).pending p.stream (streamOf s p).seqNo o then
    .wait s (.sync o (streamOf s p).seqNo) else .done s)) = _
  rw [apply_ite (finish p _)]
  simp only [finish, insnLen, hx, retireTo_eq, State.here_pc, State.here_insn, Bool.false_eq_true, if_false]

/-! ### The end of the wait -/

theorem runs_of_coreRuns {s : State} {c : Fin 96} (h : coreRuns s c) : s.runs c = true := by
  obtain ⟨⟨hpower, hhalt⟩, hmode, hdrain⟩ := h
  have hm : (s.core c).mode = .active := hmode
  have hd : (s.core c).draining = false := hdrain
  simp [State.runs, State.live, hpower, hhalt, hm, hd]

/-- A stream that waits at a SYNC runs on when nothing the SYNC names is outstanding, and not before. -/
theorem syncDone_next_iff {p : Site} {o : SyncOps} {n : Nat} {s t : State} (hr : coreRuns s p.core)
    (hm : (streamOf s p).mode = .wait) (hw : (streamOf s p).wait = .sync o n) :
    exec (.syncDone p) s = .next t ↔ (s.cores[p.core]).pending p.stream n o = false ∧
      withStream s p.core p.stream { (streamOf s p) with mode := .run, wait := .none } = t := by
  have hi : exec (.syncDone p) s = execSyncDone p s := rfl
  have hm' : (s.stream p.core p.stream).mode = .wait := hm
  have hw' : (s.stream p.core p.stream).wait = .sync o n := hw
  simp only [hi, execSyncDone, hw', guard_next, runs_of_coreRuns hr, hm', modStream_eq_withStream, beq_self_eq_true,
    Bool.and_true, Bool.true_and, Bool.not_eq_true', State.core]

/-- Settles O12: SYNC's issue by the work outstanding then, SYNC_DONE by the work outstanding when it comes. -/
theorem sync : Obligations.Sync := by
  refine ⟨fun p o s h => ⟨fun hn => ?passes, fun hp => ?waits⟩, fun p o n s hr hm hw hn => ?released⟩
  case passes => rw [exec_sync p o s h, hn, if_neg Bool.false_ne_true]
  case waits => exact ⟨_, exec_sync p o s h, by rw [if_pos hp]; rfl⟩
  case released => exact (syncDone_next_iff hr hm hw).mpr ⟨hn, rfl⟩

end Sys2Proof.Claims
end
